-- ==== Sys2Proof/Word.lean ====
section
/-! DEFINITION. The word types of the Onale 12: 64-bit lanes and scalars, bytes, and lane masks (R8, R49). -/

namespace Sys2Proof

/-- A 64-bit lane or scalar value (R49). -/
abbrev Word := BitVec 64

/-- One byte of memory (R8). -/
abbrev Byte := BitVec 8

/-- A set of lanes of a gang: bit `l` is lane `l` (R49). -/
abbrev Lanes := BitVec 32

/-- The number of lanes of a gang (R25). -/
abbrev gangLanes : Nat := 32

end Sys2Proof
end

