-- ==== Sys2Proof/Syntax.lean ====
section
/-! DEFINITION. The instructions of the Onale 12: one constructor for every row of the opcode table.
Rows with an encoding are instruction words (R82 to R93); rows without one are the device steps and the
command-endpoint messages that the table lists beside them. -/

namespace Sys2Proof

/-- A lane-word source operand: its code (R83) and, for LIT and LIT64, the literal that follows the word
(R84: 32 bits for code 114, 64 bits for code 115; 0 for every other code). -/
structure Src where
  code : Nat
  lit : Nat := 0
  deriving DecidableEq, Repr

/-- A message of the command endpoint: the session it came on, the source address, and the header and body
of R432. -/
structure Msg where
  sess : Nat
  src : Nat := 0
  port : Nat := 0
  ver : Nat := 0
  op : Nat := 0
  seq : Nat := 0
  len : Nat := 0
  status : Nat := 0
  reserved : Nat := 0
  body : List Byte := []
  deriving DecidableEq, Repr

/-- One partition of the stored layout (R400): tag, first slice, size, assigned ladles, and what Hearth sets for it: the age cap (R327)
and the class-3 tokens of each slice (R416). -/
structure Layout where
  tag : Nat
  first : Nat
  size : Nat
  ladles : List Nat := []
  ageCap : Nat := 256
  tokens : Nat := 4
  deriving DecidableEq, Repr

/-- An HDM decoder (R439): the window's base and size, the CXL ports it interleaves over, and the tag of the
partition it belongs to. -/
structure Window where
  base : Nat
  size : Nat
  ports : List Nat
  tag : Nat
  deriving DecidableEq, Repr

/-- What the site configures (R407, R421, R425, R431, R433, R439, R442, R397, R418). -/
structure Site where
  device : Nat := 0xFFFFF
  netBase : Nat := 0
  fleet : Nat := 0
  allow : List Nat := []
  collector : Option Nat := none
  collectorPort : Nat := 47801
  ptpPort : Option Nat := none
  boost : Bool := true
  nearThreshold : Bool := true
  softLimit : Nat := 1024
  layout : List Layout := []
  windows : List Window := []
  rise : Nat := 8
  fall : Nat := 8
  railCap : Nat := 512
  slew : Nat := 250
  interval : Nat := 1000000
  milliWattsPerUnit : List Nat := []
  deriving DecidableEq, Repr

/-- A format-table entry as its four 8-byte words (R219). -/
structure Machine.FtEntry where
  w0 : Word := 0
  w1 : Word := 0
  w2 : Word := 0
  w3 : Word := 0
  deriving DecidableEq, Repr

/-- A peer's answer to a job that acts on the peer (R437): a STATUS of R211 and the bytes it returns. -/
structure PeerReply where
  status : Nat := 0
  data : List Byte := []
  deriving DecidableEq, Repr

/-- A job that a peer sends to this device (R437): the UET job identifier it names, its kind (R208), the
combining operation and format entry that it was accepted with, the address, the length of a GET and the data of the others. -/
structure PeerJob where
  job : Nat
  kind : Nat
  op : Nat := 0
  fmt : Machine.FtEntry := {}
  addr : Nat := 0
  len : Nat := 0
  data : List Byte := []
  port : Nat := 0
  deriving DecidableEq, Repr

/-- An error that a store's protection has met (R395, R396): corrected events of a store (0 L2 and DRAM, 1 scratchpad, 2 register
die and accumulators, 3 parity) in a unit; an uncorrectable 8-byte word of L2, of a team's scratchpad, of a lane, of a scalar or
of an accumulator; a parity error in a line of L1, L0 or a cluster's instruction cache, or in the entries of a core's or a
cluster's TLB for an address: of its page, or of an intermediate level (R165). -/
inductive SoftError where
  | corrected (unit store n : Nat)
  | l2 (word : Nat)
  | scratchpad (team off : Nat)
  | lane (gang reg lane : Nat)
  | scalar (gang reg : Nat)
  | accumulator (team acc : Nat)
  | parityL1 (core line : Nat)
  | parityL0 (core line : Nat)
  | parityIc (cluster line : Nat)
  | parityTlb (cluster : Bool) (idx va : Nat) (mid : Bool)
  deriving DecidableEq, Repr

/-- A unit that Hearth finds failed, and the words (named by address / 8) of its store that can no longer be read (R397). -/
structure UnitLoss where
  unit : Nat
  lost : List Nat := []
  deriving DecidableEq, Repr

/-- How far a ladle takes a job's pieces, and what the peer of a job that acts on one answers (R157, R437). -/
structure JobTurn where
  upto : Nat
  peer : PeerReply := {}
  deriving DecidableEq, Repr

/-- What a scrub finds besides corrected words: uncorrectable words of the stack, named by address / 8, and the errors that other
stores have met (R395, R396). -/
structure ScrubFinds where
  bad : List Nat := []
  errs : List SoftError := []
  deriving DecidableEq, Repr

/-- A 10 µs power measurement, in watts: of the module, and of partitions by tag (R411, R426). -/
structure PowerReading where
  watts : Nat
  parts : List (Nat × Nat) := []
  deriving DecidableEq, Repr

/-- How far, in nanoseconds, the time base stands behind or ahead of a time message (R441). -/
structure ClockOffset where
  behind : Nat := 0
  ahead : Nat := 0
  deriving DecidableEq, Repr

/-- What a bring-up stage reports (R398, R400): whether the image passes its self-checks of the stage that ends, the units that
failed, and, of SLICES_READY, whether it passes those of stage 3. -/
structure StageCheck where
  passes : Bool := true
  failed : List Nat := []
  sound : Bool := true
  deriving DecidableEq, Repr

/-- An interval's energy in µJ: of the slices and then the rest of the module, and each partition's share of ladle and CXL energy
(R426). -/
structure EnergyUse where
  slices : List Nat
  shared : List (Nat × Nat) := []
  deriving DecidableEq, Repr

/-- Every instruction word, device step and endpoint command of the opcode table. -/
inductive Instr where
  -- integer, shape and cross-lane words (10_integer_shape_lane.md)
  | iadd (d : Nat) (a b : Src) (t : Nat)
  | isub (d : Nat) (a b : Src) (t : Nat)
  | imul (d : Nat) (a b : Src) (t : Nat)
  | imulh (d : Nat) (a b : Src) (t : Nat)
  | imulhu (d : Nat) (a b : Src) (t : Nat)
  | imad (d : Nat) (a b : Src) (t : Nat)
  | imin (d : Nat) (a b : Src) (t : Nat)
  | imax (d : Nat) (a b : Src) (t : Nat)
  | iminu (d : Nat) (a b : Src) (t : Nat)
  | imaxu (d : Nat) (a b : Src) (t : Nat)
  | iabs (d : Nat) (a : Src) (t : Nat)
  | andw (d : Nat) (a b : Src) (t : Nat)
  | orw (d : Nat) (a b : Src) (t : Nat)
  | xorw (d : Nat) (a b : Src) (t : Nat)
  | andn (d : Nat) (a b : Src) (t : Nat)
  | shl (d : Nat) (a b : Src) (t : Nat)
  | shr (d : Nat) (a b : Src) (t : Nat)
  | sar (d : Nat) (a b : Src) (t : Nat)
  | rol (d : Nat) (a b : Src) (t : Nat)
  | popc (d : Nat) (a : Src) (t : Nat)
  | clz (d : Nat) (a : Src) (t : Nat)
  | bfx (d : Nat) (a b : Src) (t : Nat)
  | bfi (d : Nat) (a b : Src) (t : Nat)
  | sel (d : Nat) (a b : Src) (k : Nat)
  | icmp (cond k : Nat) (a b : Src) (t : Nat)
  | lea (d : Nat) (a b : Src) (k : Nat)
  | mov (d : Nat) (a : Src)
  | aff (d : Nat) (a b : Src)
  | shape (d : Nat) (a : Src)
  | shassert (a : Src) (set : Nat)
  | widen (d : Nat) (a : Src)
  | narrow (d : Nat) (a : Src)
  | shfl (d : Nat) (a b : Src) (t : Nat)
  | shflup (d : Nat) (a b : Src) (t : Nat)
  | shfldn (d : Nat) (a b : Src) (t : Nat)
  | shflx (d : Nat) (a b : Src) (t : Nat)
  | bcast (d : Nat) (a b : Src)
  | vote (d : Nat) (a : Src) (t : Nat)
  | scan (d : Nat) (a : Src) (t : Nat)
  | scanx (d : Nat) (a : Src) (t : Nat)
  | rsum (d : Nat) (a : Src) (t : Nat)
  | rmin (d : Nat) (a : Src) (t : Nat)
  | rmax (d : Nat) (a : Src) (t : Nat)
  | matchLane (d : Nat) (a : Src) (t : Nat)
  | cmprs (d : Nat) (a b : Src)
  | syncm (a : Src)
  -- floating-point, conversion, special-function and random words (11_float_sfu.md)
  | fadd (d : Nat) (a b : Src) (t : Nat)
  | fsub (d : Nat) (a b : Src) (t : Nat)
  | fmul (d : Nat) (a b : Src) (t : Nat)
  | ffma (d : Nat) (a b : Src) (t : Nat)
  | fmin (d : Nat) (a b : Src) (t : Nat)
  | fmax (d : Nat) (a b : Src) (t : Nat)
  | fabs (d : Nat) (a : Src) (t : Nat)
  | fneg (d : Nat) (a : Src) (t : Nat)
  | fcmp (cond k : Nat) (a b : Src) (t : Nat)
  | fclass (d : Nat) (a : Src) (t : Nat)
  | frint (d : Nat) (a : Src) (t : Nat)
  | cvt (d : Nat) (a b : Src) (t : Nat)
  | cvtfi (d : Nat) (a : Src) (t : Nat)
  | cvtif (d : Nat) (a : Src) (t : Nat)
  | fscale (d : Nat) (a b : Src) (t : Nat)
  | xfr (d : Nat)
  | rcp (d : Nat) (a : Src) (t : Nat)
  | rsq (d : Nat) (a : Src) (t : Nat)
  | sqrt (d : Nat) (a : Src) (t : Nat)
  | exp2 (d : Nat) (a : Src) (t : Nat)
  | log2 (d : Nat) (a : Src) (t : Nat)
  | sin (d : Nat) (a : Src) (t : Nat)
  | cos (d : Nat) (a : Src) (t : Nat)
  | tanh (d : Nat) (a : Src) (t : Nat)
  | act (d : Nat) (a : Src) (f t : Nat)
  | fdiv (d : Nat) (a b : Src) (t : Nat)
  | cats (d : Nat) (a b : Src)
  | rng (d t : Nat)
  | xfc (d : Nat) (a : Src)
  | sfuComplete (op : Nat)
  -- lane memory words and atomics (08_memory_instructions.md)
  | ldg (d : Nat) (a b : Src) (t : Nat)
  | stg (data : Nat) (a b : Src) (t : Nat)
  | lds (d : Nat) (a b : Src) (t : Nat)
  | sts (data : Nat) (a b : Src) (t : Nat)
  | atom32 (d : Nat) (a b : Src) (t : Nat)
  | atom64 (d : Nat) (a b : Src) (t : Nat)
  | fatom (d : Nat) (a b : Src) (t : Nat)
  | red (size : Nat) (a b : Src) (t : Nat)
  | pfd (a b : Src) (level : Nat)
  -- matrix words (12_matrix.md)
  | mma (shape acc : Nat) (a b : Src) (accum : Nat)
  | mld (shape acc : Nat) (a : Src)
  | mstRaw (shape acc : Nat) (a : Src)
  | mstConvert (shape acc : Nat) (a b : Src) (t : Nat)
  | mzero (shape acc : Nat)
  | qtileMax (d : Nat) (a b : Src)
  | qtileCvt (a b : Src)
  | plst (data : Nat) (a : Src) (t : Nat)
  | plld (d : Nat) (a : Src) (t : Nat)
  | mrdRaw (d : Nat) (a : Src)
  | mrdConvert (d : Nat) (a b : Src) (t : Nat)
  | matrixOpComplete (op : Nat)
  -- hints and the prefix word (04_encoding.md)
  | hint (k x : Nat)
  | pfx (m z rm nf sat c : Nat)
  -- uniform scalar words
  | uadd (d a b : Nat)
  | usub (d a b : Nat)
  | umul (d a b : Nat)
  | umulh (d a b : Nat)
  | uand (d a b : Nat)
  | uor (d a b : Nat)
  | uxor (d a b : Nat)
  | ushl (d a b : Nat)
  | ushr (d a b : Nat)
  | usar (d a b : Nat)
  | umin (d a b : Nat)
  | umax (d a b : Nat)
  | useq (d a b : Nat)
  | uslt (d a b : Nat)
  | usltu (d a b : Nat)
  | uaddi (d imm : Nat)
  | uli (d imm : Nat)
  | ulit (d lit : Nat)
  | ulit64 (d lit : Nat)
  | umov (d a : Nat)
  | ushli (d k : Nat)
  -- uniform memory words
  | uld (d a w : Nat)
  | ust (d a w : Nat)
  | ulds (d a w : Nat)
  | usts (d a w : Nat)
  | uatom (d a op x : Nat)
  -- control flow (05_control_flow.md)
  | bra (off : Nat)
  | brz (n off : Nat)
  | brnz (n off : Nat)
  | brm (k off : Nat)
  | call (link off : Nat)
  | calli (link ptr cls : Nat)
  | ret (link : Nat)
  | jmpi (ptr : Nat)
  | exit (k : Nat)
  | pfi (n off : Nat)
  | pfiLineDrop (core va : Nat)
  -- synchronisation and launch words (16_sync_instructions.md)
  | bar (k c : Nat)
  | bara (d k c : Nat)
  | barw (k a : Nat)
  | waitf (set : Nat)
  | launch (d a : Nat)
  | waitch (a : Nat)
  -- engine words (08_memory_instructions.md)
  | copy (k a b : Nat)
  | copyRoundEnd (team h upto : Nat)
  | chapp (d a b : Nat)
  | seqw (a b : Nat)
  | seqr (d a : Nat)
  | hwait (k full : Nat)
  | hrel (k : Nat)
  | hstate (d k : Nat)
  | wpr (d k : Nat)
  | stdefLoad (n a : Nat)
  | stdefStore (n a : Nat)
  | stposRead (d n : Nat)
  | stposWrite (n a : Nat)
  | resid (d a b : Nat)
  | demote (a b : Nat)
  | demoteMoveEnd (op : Nat)
  -- format and function tables (09_formats.md, 11_float_sfu.md)
  | ftset (n a : Nat)
  | ftgetEntry (d n k : Nat)
  | ftgetGen (d : Nat)
  | ffence (scope : Nat)
  | fmtsel (x y : Nat)
  | lutld (a : Nat)
  | lutldComplete (op : Nat)
  | mfence (scope : Nat)
  | rngseed (a b : Nat)
  -- fences and translation words
  | fence (kind scope : Nat)
  | fenceLeaseWaitEnd (gang : Nat)
  | tfence (scope : Nat)
  | tlbi (a mode scope : Nat)
  | ifence (scope : Nat)
  -- traps, registers, load words
  | trap (imm : Nat)
  | csrr (d n i : Nat)
  | csrw (a n i : Nat)
  | boost (n : Nat)
  | ember (d a : Nat)
  | emberOff (a : Nat)
  | drawc (c : Nat)
  | uhint (k x : Nat)
  -- issue, fetch and memory steps
  | instructionLineArrive (core va : Nat)
  | fetchWalkResult (core va : Nat)
  | loadMissServe (op item : Nat) (evict evictL2 : List Nat)
  | loadComplete (op : Nat)
  | storePerformed (op item : Nat)
  | storeAck (op : Nat)
  | leaseExpiry (core ctx line : Nat)
  | inboundWrite (id : Nat)
  -- dispatcher and scheduler steps
  | slabDeadlock (core : Nat)
  | gangRetire (gang : Nat)
  | teamPlace (tag : Nat)
  | gridAging (tag : Nat)
  | coreReservation (tag : Nat)
  | preemptRequest (tag : Nat)
  | drainDeadline (team : Nat)
  | swapOut (team : Nat)
  | timeSliceExpiry (core ctx : Nat)
  | gangIssueSelect (core : Nat)
  -- ladle steps
  | ladleAccept (chain ladle : Nat)
  | ladleJobEnd (job : Nat) (turn : JobTurn)
  | chainSequenceAdvance (chain : Nat)
  | peerJobReceive (p : PeerJob)
  -- load steps
  | bellowsStep (rail : Nat)
  | powerSample (p : PowerReading)
  | slowLimitWindow (energy : Nat) (shares : List Nat)
  | emberCandidate (core : Nat)
  | emberFlush (team : Nat)
  | coalInterval (rail : Nat)
  | droop (cluster : Nat)
  | nearThresholdTransition (core pipe busy4096 busy256 : Nat)
  | temperatureRead (temps : List Nat)
  | hotPageMigration (stack : Nat) (pages : List Nat)
  | energyAccounting (cluster nanojoules : Nat)
  | hallmarkInterval (use : EnergyUse)
  | dramScrub (stack corrected : Nat) (finds : ScrubFinds)
  -- Hearth steps
  | unitFence (f : UnitLoss)
  | cxlLinkFail (port : Nat)
  | reforgeTick (tag : Nat)
  | reforgeSettleEnd (tag : Nat)
  | powerGood (flow inlet strap : Nat)
  | firmwareFetch (key rollback : Nat) (selfCheck : Bool) (site : Site)
  | dramReady (c : StageCheck)
  | slicesReady (c : StageCheck)
  | ptpMessage (port : Nat) (off : ClockOffset)
  -- endpoint commands
  | hello (m : Msg)
  | health (m : Msg)
  | reset (m : Msg)
  | image (m : Msg)
  | reforge (m : Msg)
  | fenceCmd (m : Msg)
  | ctxnew (m : Msg)
  | ctxdel (m : Msg)
  | bind (m : Msg)
  | release (m : Msg)
  | write (m : Msg)
  | read (m : Msg)
  | launchCmd (m : Msg)
  | malformedCommand (m : Msg)
  -- further device steps
  | droopRecovery (cluster : Nat)
  | dramShortageDemotion (tag bytes : Nat)
  | contextStop (ctx : Nat)
  | contextRestore (tag image : Nat)
  | guaranteedShareSet (tag stack : Nat) (shares : List (Nat × Nat))
  -- words and steps without operands
  | unop
  | yield
  | gbar
  | waitchAll
  | lutswap
  | rte
  | clauseIssue
  | coolantOutOfRange
  | fullFunction
  | ptpHoldover
  | coolantInRange
  | coolantLossTimeout
  deriving DecidableEq, Repr

end Sys2Proof
end

