-- ==== Sys2Proof/WellFormed.lean ====
section
/-! DEFINITION. Well-formed instruction words: every operand is one that the word's encoding admits (R83, R86, R87
and each word's own chapter).  A device step or endpoint command has no encoding and is well-formed as it stands;
its own meaning checks what it names. -/

namespace Sys2Proof

/-- A legal source code (R83). -/
def srcCode (c : Nat) : Bool := decide (c < 107) || (decide (112 ≤ c) && decide (c < 128))

/-- A source is well-formed when its code is legal and its literal fits LIT or LIT64 (R83, R84). -/
def Src.wf (a : Src) : Bool :=
  srcCode a.code &&
    (if a.code = 114 then decide (a.lit < 4294967296)
     else if a.code = 115 then decide (a.lit < 18446744073709551616) else decide (a.lit = 0))

/-- Destination of a lane-pipe word: v0-v95, TR or discard (R83). -/
def okD (d : Nat) : Bool := decide (d < 96) || decide (d = 104) || decide (d = 112)
/-- Destination of a memory, special-function or matrix word: v0-v95 or discard (R177, R283). -/
def okM (d : Nat) : Bool := decide (d < 96) || decide (d = 112)
/-- Data source in D: any source code but the literals (R177). -/
def okS (d : Nat) : Bool := srcCode d && !decide (d = 114) && !decide (d = 115)
/-- Operand of NARROW and WIDEN: v0-v95 or bp0-bp2 (R259). -/
def okReg (c : Nat) : Bool := decide (c < 96) || (decide (104 ≤ c) && decide (c < 107))
/-- Operand of MMA: any source but a stream (R302). -/
def okNoStream (c : Nat) : Bool := !(decide (96 ≤ c) && decide (c < 104))
/-- Mask destination of ICMP and FCMP: m0 is not written (R49, R253). -/
def okK (k : Nat) : Bool := decide (0 < k) && decide (k < 8)
/-- Matrix shape code (R298). -/
def okShape (s : Nat) : Bool := decide (s < 5)
/-- T of an integer word, and of any word with four variants (R247). -/
def tInt (t : Nat) : Bool := decide (t < 4)
/-- T of a floating-point word (R273). -/
def tFloat (t : Nat) : Bool := decide (4 ≤ t) && decide (t < 8)
/-- Any T (R82). -/
def tAny (t : Nat) : Bool := decide (t < 8)
/-- Segment width of a shuffle (R261). -/
def tSeg (t : Nat) : Bool := decide (t < 5)
/-- T of MATCH (R264). -/
def tBit (t : Nat) : Bool := decide (t < 2)
/-- T of FATOM (R187). -/
def tThree (t : Nat) : Bool := decide (t < 3)
/-- T of RNG (R283). -/
def tRng (t : Nat) : Bool := decide (t = 0) || decide (t = 4) || decide (t = 5)
/-- T of a converting MST or MRD (R307, R309). -/
def tCvt (t : Nat) : Bool := decide (1 ≤ t) && decide (t < 4)
/-- T of PLST and PLLD (R310). -/
def tPlane (t : Nat) : Bool := decide (t = 2) || decide (t = 3)

/-- A well-formed instruction. -/
def Instr.wf : Instr → Bool
  | .iadd d a b t => okD d && a.wf && b.wf && tInt t
  | .isub d a b t => okD d && a.wf && b.wf && tInt t
  | .imul d a b t => okD d && a.wf && b.wf && tInt t
  | .imulh d a b t => okD d && a.wf && b.wf && tInt t
  | .imulhu d a b t => okD d && a.wf && b.wf && tInt t
  | .imad d a b t => okD d && a.wf && b.wf && tInt t
  | .imin d a b t => okD d && a.wf && b.wf && tInt t
  | .imax d a b t => okD d && a.wf && b.wf && tInt t
  | .iminu d a b t => okD d && a.wf && b.wf && tInt t
  | .imaxu d a b t => okD d && a.wf && b.wf && tInt t
  | .iabs d a t => okD d && a.wf && tInt t
  | .andw d a b t => okD d && a.wf && b.wf && tInt t
  | .orw d a b t => okD d && a.wf && b.wf && tInt t
  | .xorw d a b t => okD d && a.wf && b.wf && tInt t
  | .andn d a b t => okD d && a.wf && b.wf && tInt t
  | .shl d a b t => okD d && a.wf && b.wf && tInt t
  | .shr d a b t => okD d && a.wf && b.wf && tInt t
  | .sar d a b t => okD d && a.wf && b.wf && tInt t
  | .rol d a b t => okD d && a.wf && b.wf && tInt t
  | .popc d a t => okD d && a.wf && tInt t
  | .clz d a t => okD d && a.wf && tInt t
  | .bfx d a b t => okD d && a.wf && b.wf && tInt t
  | .bfi d a b t => okD d && a.wf && b.wf && tInt t
  | .sel d a b t => okD d && a.wf && b.wf && tAny t
  | .icmp cond k a b t => decide (cond < 10) && okK k && a.wf && b.wf && tInt t
  | .lea d a b t => okD d && a.wf && b.wf && tAny t
  | .mov d a => okD d && a.wf
  | .aff d a b => okD d && a.wf && b.wf
  | .shape d a => okD d && a.wf
  | .shassert a s => a.wf && decide (0 < s) && decide (s < 8)
  | .widen d a => okD d && a.wf && okReg a.code
  | .narrow d a => okD d && a.wf && okReg a.code
  | .shfl d a b t => okD d && a.wf && b.wf && tSeg t
  | .shflup d a b t => okD d && a.wf && b.wf && tSeg t
  | .shfldn d a b t => okD d && a.wf && b.wf && tSeg t
  | .shflx d a b t => okD d && a.wf && b.wf && tSeg t
  | .bcast d a b => okD d && a.wf && b.wf
  | .vote d a t => okD d && a.wf && tInt t
  | .scan d a t => okD d && a.wf && tInt t
  | .scanx d a t => okD d && a.wf && tInt t
  | .rsum d a t => okD d && a.wf && tInt t
  | .rmin d a t => okD d && a.wf && tInt t
  | .rmax d a t => okD d && a.wf && tInt t
  | .matchLane d a t => okD d && a.wf && tBit t
  | .cmprs d a b => okD d && a.wf && b.wf
  | .syncm a => a.wf
  | .fadd d a b t => okD d && a.wf && b.wf && tFloat t
  | .fsub d a b t => okD d && a.wf && b.wf && tFloat t
  | .fmul d a b t => okD d && a.wf && b.wf && tFloat t
  | .ffma d a b t => okD d && a.wf && b.wf && tFloat t
  | .fmin d a b t => okD d && a.wf && b.wf && tFloat t
  | .fmax d a b t => okD d && a.wf && b.wf && tFloat t
  | .fabs d a t => okD d && a.wf && tFloat t
  | .fneg d a t => okD d && a.wf && tFloat t
  | .fcmp cond k a b t => decide (cond < 8) && okK k && a.wf && b.wf && tFloat t
  | .fclass d a t => okD d && a.wf && tFloat t
  | .frint d a t => okD d && a.wf && tFloat t
  | .cvt d a b t => okD d && a.wf && b.wf && tAny t
  | .cvtfi d a t => okD d && a.wf && tFloat t
  | .cvtif d a t => okD d && a.wf && tFloat t
  | .fscale d a b t => okD d && a.wf && b.wf && tFloat t
  | .xfr d => decide (d < 96)
  | .rcp d a t => okM d && a.wf && tFloat t
  | .rsq d a t => okM d && a.wf && tFloat t
  | .sqrt d a t => okM d && a.wf && tFloat t
  | .exp2 d a t => okM d && a.wf && tFloat t
  | .log2 d a t => okM d && a.wf && tFloat t
  | .sin d a t => okM d && a.wf && tFloat t
  | .cos d a t => okM d && a.wf && tFloat t
  | .tanh d a t => okM d && a.wf && tFloat t
  | .act d a f t => okM d && a.wf && decide (f < 4) && tFloat t
  | .fdiv d a b t => okM d && a.wf && b.wf && tFloat t
  | .cats d a b => okM d && a.wf && b.wf
  | .rng d t => okM d && tRng t
  | .xfc d a => okM d && a.wf
  | .ldg d a b t => okM d && a.wf && b.wf && tAny t
  | .stg d a b t => okS d && a.wf && b.wf && tAny t
  | .lds d a b t => okM d && a.wf && b.wf && tAny t
  | .sts d a b t => okS d && a.wf && b.wf && tAny t
  | .atom32 d a b t => okM d && a.wf && b.wf && tAny t
  | .atom64 d a b t => okM d && a.wf && b.wf && tAny t
  | .fatom d a b t => okM d && a.wf && b.wf && tThree t
  | .red z a b t => decide (z < 4) && a.wf && b.wf && tAny t
  | .pfd a b l => a.wf && b.wf && decide (l < 2)
  | .mma sh acc a b u => okShape sh && decide (acc < 8) && a.wf && okNoStream a.code && b.wf && okNoStream b.code && decide (u < 2)
  | .mld sh acc a => okShape sh && decide (acc < 8) && a.wf
  | .mstRaw sh acc a => okShape sh && decide (acc < 8) && a.wf
  | .mstConvert sh acc a b t => okShape sh && decide (acc < 8) && a.wf && b.wf && tCvt t
  | .mzero sh acc => okShape sh && decide (acc < 8)
  | .qtileMax d a b => okM d && a.wf && b.wf
  | .qtileCvt a b => a.wf && b.wf
  | .plst d a t => okS d && a.wf && tPlane t
  | .plld d a t => okM d && a.wf && tPlane t
  | .mrdRaw d a => okM d && a.wf
  | .mrdConvert d a b t => okM d && a.wf && b.wf && tCvt t
  | .hint k x => decide (k < 8) && decide (x < 16777216)
  | .pfx m z r n s c => decide (m < 8) && decide (z < 2) && decide (r < 4) && decide (n < 2) && decide (s < 2) && decide (c < 128)
  | .unop => true
  | .uadd d a b => decide (d < 256) && decide (a < 256) && decide (b < 256)
  | .usub d a b => decide (d < 256) && decide (a < 256) && decide (b < 256)
  | .umul d a b => decide (d < 256) && decide (a < 256) && decide (b < 256)
  | .umulh d a b => decide (d < 256) && decide (a < 256) && decide (b < 256)
  | .uand d a b => decide (d < 256) && decide (a < 256) && decide (b < 256)
  | .uor d a b => decide (d < 256) && decide (a < 256) && decide (b < 256)
  | .uxor d a b => decide (d < 256) && decide (a < 256) && decide (b < 256)
  | .ushl d a b => decide (d < 256) && decide (a < 256) && decide (b < 256)
  | .ushr d a b => decide (d < 256) && decide (a < 256) && decide (b < 256)
  | .usar d a b => decide (d < 256) && decide (a < 256) && decide (b < 256)
  | .umin d a b => decide (d < 256) && decide (a < 256) && decide (b < 256)
  | .umax d a b => decide (d < 256) && decide (a < 256) && decide (b < 256)
  | .useq d a b => decide (d < 256) && decide (a < 256) && decide (b < 256)
  | .uslt d a b => decide (d < 256) && decide (a < 256) && decide (b < 256)
  | .usltu d a b => decide (d < 256) && decide (a < 256) && decide (b < 256)
  | .uaddi d imm => decide (d < 256) && decide (imm < 65536)
  | .uli d imm => decide (d < 256) && decide (imm < 65536)
  | .ulit d v => decide (d < 256) && decide (v < 4294967296)
  | .ulit64 d v => decide (d < 256) && decide (v < 18446744073709551616)
  | .umov d a => decide (d < 256) && decide (a < 256)
  | .ushli d k => decide (d < 256) && decide (k < 64)
  | .uld d a w => decide (d < 256) && decide (a < 256) && decide (w < 4)
  | .ust d a w => decide (d < 256) && decide (a < 256) && decide (w < 4)
  | .ulds d a w => decide (d < 256) && decide (a < 256) && decide (w < 4)
  | .usts d a w => decide (d < 256) && decide (a < 256) && decide (w < 4)
  | .uatom d a o x => decide (d < 256) && decide (a < 256) && decide (o < 8) && decide (x < 32)
  | .bra off => decide (off < 16777216)
  | .brz n off => decide (n < 256) && decide (off < 65536)
  | .brnz n off => decide (n < 256) && decide (off < 65536)
  | .brm k off => decide (k < 8) && decide (off < 2097152)
  | .call l off => decide (l < 96) && decide (off < 65536)
  | .calli l p c => decide (l < 96) && decide (p < 96) && decide (0 < c) && decide (c < 256)
  | .ret l => decide (l < 96)
  | .jmpi p => decide (p < 96)
  | .exit k => decide (k < 8)
  | .yield => true
  | .pfi n off => decide (n < 16) && decide (off < 1048576)
  | .bar k c => decide (k < 16) && decide (c ≤ 128)
  | .bara d k c => decide (d < 256) && decide (k < 16) && decide (c ≤ 128)
  | .barw k a => decide (k < 16) && decide (a < 256)
  | .gbar => true
  | .waitf f => decide (f < 4096)
  | .launch d a => decide (d < 256) && decide (a < 256)
  | .waitch a => decide (a < 256)
  | .waitchAll => true
  | .copy k a b => decide (k < 64) && decide (a < 256) && decide (b < 256)
  | .chapp d a b => decide (d < 256) && decide (a < 256) && decide (b < 256)
  | .seqw a b => decide (a < 256) && decide (b < 256)
  | .seqr d a => decide (d < 256) && decide (a < 256)
  | .hwait k f => decide (k < 64) && decide (f < 2)
  | .hrel k => decide (k < 64)
  | .hstate d k => decide (d < 256) && decide (k < 64)
  | .wpr d k => decide (d < 256) && decide (k < 64)
  | .stdefLoad n a => decide (n < 8) && decide (a < 256)
  | .stdefStore n a => decide (n < 8) && decide (a < 256)
  | .stposRead d n => decide (d < 256) && decide (n < 8)
  | .stposWrite n a => decide (n < 8) && decide (a < 256)
  | .resid d a b => decide (d < 256) && decide (a < 256) && decide (b < 256)
  | .demote a b => decide (a < 256) && decide (b < 256)
  | .ftset n a => decide (n < 256) && decide (a < 256)
  | .ftgetEntry d n k => decide (d < 256) && decide (n < 256) && decide (k < 4)
  | .ftgetGen d => decide (d < 256)
  | .ffence s => decide (s < 4)
  | .fmtsel x y => decide (x < 256) && decide (y < 256)
  | .lutld a => decide (a < 256)
  | .lutswap => true
  | .mfence s => decide (s < 2)
  | .rngseed a b => decide (a < 256) && decide (b < 256)
  | .fence k s => decide (k < 4) && decide (s < 4)
  | .tfence s => decide (s < 4)
  | .tlbi a m s => decide (a < 256) && decide (m < 3) && decide (0 < s) && decide (s < 4)
  | .ifence s => decide (s < 4)
  | .trap i => decide (i < 65536)
  | .rte => true
  | .csrr d n i => decide (d < 256) && decide (n < 256) && decide (i < 256)
  | .csrw a n i => decide (a < 256) && decide (n < 256) && decide (i < 256)
  | .boost n => decide (n < 3)
  | .ember d a => decide (d < 256) && decide (a < 256)
  | .emberOff a => decide (a < 256)
  | .drawc c => decide (c < 4)
  | .uhint k x => decide (k < 8) && decide (x < 16777216)
  | .sfuComplete _ => true
  | .matrixOpComplete _ => true
  | .pfiLineDrop _ _ => true
  | .copyRoundEnd _ _ _ => true
  | .demoteMoveEnd _ => true
  | .lutldComplete _ => true
  | .fenceLeaseWaitEnd _ => true
  | .clauseIssue => true
  | .instructionLineArrive _ _ => true
  | .fetchWalkResult _ _ => true
  | .loadMissServe _ _ _ _ => true
  | .loadComplete _ => true
  | .storePerformed _ _ => true
  | .storeAck _ => true
  | .leaseExpiry _ _ _ => true
  | .inboundWrite _ => true
  | .slabDeadlock _ => true
  | .gangRetire _ => true
  | .teamPlace _ => true
  | .gridAging _ => true
  | .coreReservation _ => true
  | .preemptRequest _ => true
  | .drainDeadline _ => true
  | .swapOut _ => true
  | .timeSliceExpiry _ _ => true
  | .gangIssueSelect _ => true
  | .ladleAccept _ _ => true
  | .ladleJobEnd _ _ => true
  | .chainSequenceAdvance _ => true
  | .peerJobReceive _ => true
  | .bellowsStep _ => true
  | .powerSample _ => true
  | .slowLimitWindow _ _ => true
  | .emberCandidate _ => true
  | .emberFlush _ => true
  | .coalInterval _ => true
  | .droop _ => true
  | .nearThresholdTransition _ _ _ _ => true
  | .temperatureRead _ => true
  | .hotPageMigration _ _ => true
  | .energyAccounting _ _ => true
  | .hallmarkInterval _ => true
  | .dramScrub _ _ _ => true
  | .unitFence _ => true
  | .cxlLinkFail _ => true
  | .reforgeTick _ => true
  | .reforgeSettleEnd _ => true
  | .powerGood _ _ _ => true
  | .coolantOutOfRange => true
  | .firmwareFetch _ _ _ _ => true
  | .dramReady _ => true
  | .slicesReady _ => true
  | .fullFunction => true
  | .ptpMessage _ _ => true
  | .ptpHoldover => true
  | .hello _ => true
  | .health _ => true
  | .reset _ => true
  | .image _ => true
  | .reforge _ => true
  | .fenceCmd _ => true
  | .ctxnew _ => true
  | .ctxdel _ => true
  | .bind _ => true
  | .release _ => true
  | .write _ => true
  | .read _ => true
  | .launchCmd _ => true
  | .malformedCommand _ => true
  | .droopRecovery _ => true
  | .coolantInRange => true
  | .coolantLossTimeout => true
  | .dramShortageDemotion _ _ => true
  | .contextStop _ => true
  | .contextRestore _ _ => true
  | .guaranteedShareSet _ _ _ => true

/-- The instruction is a word with an encoding, not a device step or an endpoint command. -/
def Instr.isWord : Instr → Bool
  | .iadd _ _ _ _ => true
  | .isub _ _ _ _ => true
  | .imul _ _ _ _ => true
  | .imulh _ _ _ _ => true
  | .imulhu _ _ _ _ => true
  | .imad _ _ _ _ => true
  | .imin _ _ _ _ => true
  | .imax _ _ _ _ => true
  | .iminu _ _ _ _ => true
  | .imaxu _ _ _ _ => true
  | .iabs _ _ _ => true
  | .andw _ _ _ _ => true
  | .orw _ _ _ _ => true
  | .xorw _ _ _ _ => true
  | .andn _ _ _ _ => true
  | .shl _ _ _ _ => true
  | .shr _ _ _ _ => true
  | .sar _ _ _ _ => true
  | .rol _ _ _ _ => true
  | .popc _ _ _ => true
  | .clz _ _ _ => true
  | .bfx _ _ _ _ => true
  | .bfi _ _ _ _ => true
  | .sel _ _ _ _ => true
  | .icmp _ _ _ _ _ => true
  | .lea _ _ _ _ => true
  | .mov _ _ => true
  | .aff _ _ _ => true
  | .shape _ _ => true
  | .shassert _ _ => true
  | .widen _ _ => true
  | .narrow _ _ => true
  | .shfl _ _ _ _ => true
  | .shflup _ _ _ _ => true
  | .shfldn _ _ _ _ => true
  | .shflx _ _ _ _ => true
  | .bcast _ _ _ => true
  | .vote _ _ _ => true
  | .scan _ _ _ => true
  | .scanx _ _ _ => true
  | .rsum _ _ _ => true
  | .rmin _ _ _ => true
  | .rmax _ _ _ => true
  | .matchLane _ _ _ => true
  | .cmprs _ _ _ => true
  | .syncm _ => true
  | .fadd _ _ _ _ => true
  | .fsub _ _ _ _ => true
  | .fmul _ _ _ _ => true
  | .ffma _ _ _ _ => true
  | .fmin _ _ _ _ => true
  | .fmax _ _ _ _ => true
  | .fabs _ _ _ => true
  | .fneg _ _ _ => true
  | .fcmp _ _ _ _ _ => true
  | .fclass _ _ _ => true
  | .frint _ _ _ => true
  | .cvt _ _ _ _ => true
  | .cvtfi _ _ _ => true
  | .cvtif _ _ _ => true
  | .fscale _ _ _ _ => true
  | .xfr _ => true
  | .rcp _ _ _ => true
  | .rsq _ _ _ => true
  | .sqrt _ _ _ => true
  | .exp2 _ _ _ => true
  | .log2 _ _ _ => true
  | .sin _ _ _ => true
  | .cos _ _ _ => true
  | .tanh _ _ _ => true
  | .act _ _ _ _ => true
  | .fdiv _ _ _ _ => true
  | .cats _ _ _ => true
  | .rng _ _ => true
  | .xfc _ _ => true
  | .sfuComplete _ => false
  | .ldg _ _ _ _ => true
  | .stg _ _ _ _ => true
  | .lds _ _ _ _ => true
  | .sts _ _ _ _ => true
  | .atom32 _ _ _ _ => true
  | .atom64 _ _ _ _ => true
  | .fatom _ _ _ _ => true
  | .red _ _ _ _ => true
  | .pfd _ _ _ => true
  | .mma _ _ _ _ _ => true
  | .mld _ _ _ => true
  | .mstRaw _ _ _ => true
  | .mstConvert _ _ _ _ _ => true
  | .mzero _ _ => true
  | .qtileMax _ _ _ => true
  | .qtileCvt _ _ => true
  | .plst _ _ _ => true
  | .plld _ _ _ => true
  | .mrdRaw _ _ => true
  | .mrdConvert _ _ _ _ => true
  | .matrixOpComplete _ => false
  | .hint _ _ => true
  | .pfx _ _ _ _ _ _ => true
  | .unop => true
  | .uadd _ _ _ => true
  | .usub _ _ _ => true
  | .umul _ _ _ => true
  | .umulh _ _ _ => true
  | .uand _ _ _ => true
  | .uor _ _ _ => true
  | .uxor _ _ _ => true
  | .ushl _ _ _ => true
  | .ushr _ _ _ => true
  | .usar _ _ _ => true
  | .umin _ _ _ => true
  | .umax _ _ _ => true
  | .useq _ _ _ => true
  | .uslt _ _ _ => true
  | .usltu _ _ _ => true
  | .uaddi _ _ => true
  | .uli _ _ => true
  | .ulit _ _ => true
  | .ulit64 _ _ => true
  | .umov _ _ => true
  | .ushli _ _ => true
  | .uld _ _ _ => true
  | .ust _ _ _ => true
  | .ulds _ _ _ => true
  | .usts _ _ _ => true
  | .uatom _ _ _ _ => true
  | .bra _ => true
  | .brz _ _ => true
  | .brnz _ _ => true
  | .brm _ _ => true
  | .call _ _ => true
  | .calli _ _ _ => true
  | .ret _ => true
  | .jmpi _ => true
  | .exit _ => true
  | .yield => true
  | .pfi _ _ => true
  | .pfiLineDrop _ _ => false
  | .bar _ _ => true
  | .bara _ _ _ => true
  | .barw _ _ => true
  | .gbar => true
  | .waitf _ => true
  | .launch _ _ => true
  | .waitch _ => true
  | .waitchAll => true
  | .copy _ _ _ => true
  | .copyRoundEnd _ _ _ => false
  | .chapp _ _ _ => true
  | .seqw _ _ => true
  | .seqr _ _ => true
  | .hwait _ _ => true
  | .hrel _ => true
  | .hstate _ _ => true
  | .wpr _ _ => true
  | .stdefLoad _ _ => true
  | .stdefStore _ _ => true
  | .stposRead _ _ => true
  | .stposWrite _ _ => true
  | .resid _ _ _ => true
  | .demote _ _ => true
  | .demoteMoveEnd _ => false
  | .ftset _ _ => true
  | .ftgetEntry _ _ _ => true
  | .ftgetGen _ => true
  | .ffence _ => true
  | .fmtsel _ _ => true
  | .lutld _ => true
  | .lutldComplete _ => false
  | .lutswap => true
  | .mfence _ => true
  | .rngseed _ _ => true
  | .fence _ _ => true
  | .fenceLeaseWaitEnd _ => false
  | .tfence _ => true
  | .tlbi _ _ _ => true
  | .ifence _ => true
  | .trap _ => true
  | .rte => true
  | .csrr _ _ _ => true
  | .csrw _ _ _ => true
  | .boost _ => true
  | .ember _ _ => true
  | .emberOff _ => true
  | .drawc _ => true
  | .uhint _ _ => true
  | .clauseIssue => false
  | .instructionLineArrive _ _ => false
  | .fetchWalkResult _ _ => false
  | .loadMissServe _ _ _ _ => false
  | .loadComplete _ => false
  | .storePerformed _ _ => false
  | .storeAck _ => false
  | .leaseExpiry _ _ _ => false
  | .inboundWrite _ => false
  | .slabDeadlock _ => false
  | .gangRetire _ => false
  | .teamPlace _ => false
  | .gridAging _ => false
  | .coreReservation _ => false
  | .preemptRequest _ => false
  | .drainDeadline _ => false
  | .swapOut _ => false
  | .timeSliceExpiry _ _ => false
  | .gangIssueSelect _ => false
  | .ladleAccept _ _ => false
  | .ladleJobEnd _ _ => false
  | .chainSequenceAdvance _ => false
  | .peerJobReceive _ => false
  | .bellowsStep _ => false
  | .powerSample _ => false
  | .slowLimitWindow _ _ => false
  | .emberCandidate _ => false
  | .emberFlush _ => false
  | .coalInterval _ => false
  | .droop _ => false
  | .nearThresholdTransition _ _ _ _ => false
  | .temperatureRead _ => false
  | .hotPageMigration _ _ => false
  | .energyAccounting _ _ => false
  | .hallmarkInterval _ => false
  | .dramScrub _ _ _ => false
  | .unitFence _ => false
  | .cxlLinkFail _ => false
  | .reforgeTick _ => false
  | .reforgeSettleEnd _ => false
  | .powerGood _ _ _ => false
  | .coolantOutOfRange => false
  | .firmwareFetch _ _ _ _ => false
  | .dramReady _ => false
  | .slicesReady _ => false
  | .fullFunction => false
  | .ptpMessage _ _ => false
  | .ptpHoldover => false
  | .hello _ => false
  | .health _ => false
  | .reset _ => false
  | .image _ => false
  | .reforge _ => false
  | .fenceCmd _ => false
  | .ctxnew _ => false
  | .ctxdel _ => false
  | .bind _ => false
  | .release _ => false
  | .write _ => false
  | .read _ => false
  | .launchCmd _ => false
  | .malformedCommand _ => false
  | .droopRecovery _ => false
  | .coolantInRange => false
  | .coolantLossTimeout => false
  | .dramShortageDemotion _ _ => false
  | .contextStop _ => false
  | .contextRestore _ _ => false
  | .guaranteedShareSet _ _ _ => false

end Sys2Proof
end

