-- ==== Sys2Proof/Decode.lean ====
section
/-! DEFINITION. The decoder: from the words of a clause body to an instruction and the number of words it takes
(R82 to R93).  It is total; whatever is no instruction is rejected by name.  The encoder follows it. -/

namespace Sys2Proof

/-- Why the words at a body position are no instruction (R91). -/
inductive DecodeError where
  | unassigned      -- no opcode (R88, R89)
  | operandCode     -- an operand code illegal in its field (R83)
  | typeField       -- a T value the word does not accept (R82)
  | reservedField   -- a reserved or unused field not at its stated value (R83, R86, R87)
  | literal         -- literal words missing (R84, R87)
  deriving DecidableEq, Repr

/-- Bits `hi:lo` of a word (R8). -/
def fld (w hi lo : Nat) : Nat := w / 2 ^ lo % 2 ^ (hi - lo + 1)

/-- What decoding answers: the instruction and its length in words. -/
abbrev Decoded := Except DecodeError (Instr × Nat)

/-- A source operand, taking its literal from the words that follow (R83, R84). -/
def srcOf (code : Nat) (ws : List Nat) : Except DecodeError (Src × List Nat) :=
  if srcCode code then
    if code = 114 then
      match ws with
      | w :: r => .ok (⟨114, w % 4294967296⟩, r)
      | [] => .error .literal
    else if code = 115 then
      match ws with
      | lo :: hi :: r => .ok (⟨115, lo % 4294967296 + hi % 4294967296 * 4294967296⟩, r)
      | _ => .error .literal
    else .ok (⟨code, 0⟩, ws)
  else .error .operandCode

/-- Words that a source's literal takes. -/
def Src.size (a : Src) : Nat := if a.code = 114 then 1 else if a.code = 115 then 2 else 0

namespace Form

/-- A word with D, A, B and T. -/
def abt (mk : Nat → Src → Src → Nat → Instr) (d? t? : Nat → Bool) (w : Nat) (rest : List Nat) : Decoded :=
  match srcOf (fld w 16 10) rest with
  | .error e => .error e
  | .ok (a, r) =>
    match srcOf (fld w 9 3) r with
    | .error e => .error e
    | .ok (b, _) =>
      if d? (fld w 23 17) then
        if t? (fld w 2 0) then .ok (mk (fld w 23 17) a b (fld w 2 0), 1 + a.size + b.size)
        else .error .typeField
      else .error .operandCode

/-- A word with D, A and T; B holds 112. -/
def dat (mk : Nat → Src → Nat → Instr) (d? t? : Nat → Bool) (w : Nat) (rest : List Nat) : Decoded :=
  match srcOf (fld w 16 10) rest with
  | .error e => .error e
  | .ok (a, _) =>
    if fld w 9 3 = 112 then
      if d? (fld w 23 17) then
        if t? (fld w 2 0) then .ok (mk (fld w 23 17) a (fld w 2 0), 1 + a.size) else .error .typeField
      else .error .operandCode
    else .error .reservedField

/-- A word with D and A; B holds 112 and T is 0. -/
def a0 (mk : Nat → Src → Instr) (d? : Nat → Bool) (w : Nat) (rest : List Nat) : Decoded :=
  dat (fun d a _ => mk d a) d? (fun t => decide (t = 0)) w rest

/-- A word with D, A and B; T has one value. -/
def ab0 (mk : Nat → Src → Src → Instr) (d? : Nat → Bool) (t0 : Nat) (w : Nat) (rest : List Nat) : Decoded :=
  abt (fun d a b _ => mk d a b) d? (fun t => decide (t = t0)) w rest

/-- NARROW and WIDEN: A is a vector register or a bypass entry (R259). -/
def reg (mk : Nat → Src → Instr) (w : Nat) (rest : List Nat) : Decoded :=
  if okReg (fld w 16 10) then a0 mk okD w rest else .error .operandCode

/-- A compare: D bits 6:3 hold the condition and bits 2:0 the mask register (R253, R279). -/
def cmp (mk : Nat → Nat → Src → Src → Nat → Instr) (conds : Nat) (t? : Nat → Bool) (w : Nat)
    (rest : List Nat) : Decoded :=
  abt (fun d a b t => mk (d / 8) (d % 8) a b t) (fun d => decide (d / 8 < conds) && okK (d % 8)) t? w rest

/-- XFR: A and B hold 112 and T is 0 (R237). -/
def xfr (w : Nat) : Decoded :=
  if fld w 16 10 = 112 ∧ fld w 9 3 = 112 then
    if fld w 2 0 = 0 then
      if fld w 23 17 < 96 then .ok (.xfr (fld w 23 17), 1) else .error .operandCode
    else .error .typeField
  else .error .reservedField

/-- RNG: A and B hold 112 (R283). -/
def rng (w : Nat) : Decoded :=
  if fld w 16 10 = 112 ∧ fld w 9 3 = 112 then
    if tRng (fld w 2 0) then
      if okM (fld w 23 17) then .ok (.rng (fld w 23 17) (fld w 2 0), 1) else .error .operandCode
    else .error .typeField
  else .error .reservedField

/-- ACT: B holds the function number 0 to 3 (R283). -/
def act (w : Nat) (rest : List Nat) : Decoded :=
  match srcOf (fld w 16 10) rest with
  | .error e => .error e
  | .ok (a, _) =>
    if fld w 9 3 < 4 then
      if okM (fld w 23 17) then
        if tFloat (fld w 2 0) then .ok (.act (fld w 23 17) a (fld w 9 3) (fld w 2 0), 1 + a.size)
        else .error .typeField
      else .error .operandCode
    else .error .operandCode

/-- PFD: D holds 112 and T is 0 or 1 (R177). -/
def pfd (w : Nat) (rest : List Nat) : Decoded :=
  abt (fun _ a b t => .pfd a b t) (fun d => decide (d = 112)) (fun t => decide (t < 2)) w rest

/-- SHASSERT: D and B hold 112, T is a nonzero set (R258). -/
def shassert (w : Nat) (rest : List Nat) : Decoded :=
  dat (fun _ a t => .shassert a t) (fun d => decide (d = 112)) (fun t => decide (0 < t)) w rest

/-- SYNCM: D and B hold 112, T is 0 (R350). -/
def syncm (w : Nat) (rest : List Nat) : Decoded :=
  dat (fun _ a _ => .syncm a) (fun d => decide (d = 112)) (fun t => decide (t = 0)) w rest

/-- D of a matrix word: a legal shape code and an accumulator (R298, R302). -/
def okTile (d : Nat) : Bool := okShape (d / 8)

/-- MMA (R302). -/
def mma (w : Nat) (rest : List Nat) : Decoded :=
  if okNoStream (fld w 16 10) && okNoStream (fld w 9 3) then
    abt (fun d a b t => .mma (d / 8) (d % 8) a b t) okTile (fun t => decide (t < 2)) w rest
  else .error .operandCode

/-- MLD and MST.raw: an accumulator region and an offset (R307). -/
def mreg (mk : Nat → Nat → Src → Instr) (w : Nat) (rest : List Nat) : Decoded :=
  a0 (fun d a => mk (d / 8) (d % 8) a) okTile w rest

/-- MST, raw (T = 0) or converting (R307). -/
def mst (w : Nat) (rest : List Nat) : Decoded :=
  if fld w 2 0 = 0 then mreg .mstRaw w rest
  else abt (fun d a b t => .mstConvert (d / 8) (d % 8) a b t) okTile tCvt w rest

/-- MZERO: A and B hold 112, T is 0 (R307). -/
def mzero (w : Nat) : Decoded :=
  if fld w 16 10 = 112 ∧ fld w 9 3 = 112 then
    if fld w 2 0 = 0 then
      if okTile (fld w 23 17) then .ok (.mzero (fld w 23 17 / 8) (fld w 23 17 % 8), 1) else .error .operandCode
    else .error .typeField
  else .error .reservedField

/-- QTILE, the maximum (T = 0) or the conversion (T = 1) (R312). -/
def qtile (w : Nat) (rest : List Nat) : Decoded :=
  if fld w 2 0 = 0 then ab0 .qtileMax okM 0 w rest
  else ab0 (fun _ a b => .qtileCvt a b) (fun d => decide (d = 112)) 1 w rest

/-- MRD, raw (T = 0) or converting (R309). -/
def mrd (w : Nat) (rest : List Nat) : Decoded :=
  if fld w 2 0 = 0 then a0 .mrdRaw okM w rest else abt .mrdConvert okM tCvt w rest

end Form

/-- A lane word (R82, R88). -/
def decodeLane (w : Nat) (rest : List Nat) : Decoded :=
  match fld w 30 24 with
  | 0x00 => Form.abt .iadd okD tInt w rest
  | 0x01 => Form.abt .isub okD tInt w rest
  | 0x02 => Form.abt .imul okD tInt w rest
  | 0x03 => Form.abt .imulh okD tInt w rest
  | 0x04 => Form.abt .imulhu okD tInt w rest
  | 0x05 => Form.abt .imad okD tInt w rest
  | 0x06 => Form.abt .imin okD tInt w rest
  | 0x07 => Form.abt .imax okD tInt w rest
  | 0x08 => Form.abt .iminu okD tInt w rest
  | 0x09 => Form.abt .imaxu okD tInt w rest
  | 0x0A => Form.dat .iabs okD tInt w rest
  | 0x0B => Form.abt .andw okD tInt w rest
  | 0x0C => Form.abt .orw okD tInt w rest
  | 0x0D => Form.abt .xorw okD tInt w rest
  | 0x0E => Form.abt .andn okD tInt w rest
  | 0x0F => Form.abt .shl okD tInt w rest
  | 0x10 => Form.abt .shr okD tInt w rest
  | 0x11 => Form.abt .sar okD tInt w rest
  | 0x12 => Form.abt .rol okD tInt w rest
  | 0x13 => Form.dat .popc okD tInt w rest
  | 0x14 => Form.dat .clz okD tInt w rest
  | 0x15 => Form.abt .bfx okD tInt w rest
  | 0x16 => Form.abt .bfi okD tInt w rest
  | 0x17 => Form.abt .sel okD tAny w rest
  | 0x18 => Form.cmp .icmp 10 tInt w rest
  | 0x19 => Form.abt .lea okD tAny w rest
  | 0x1A => Form.a0 .mov okD w rest
  | 0x1B => Form.ab0 .aff okD 0 w rest
  | 0x1C => Form.a0 .shape okD w rest
  | 0x1D => Form.shassert w rest
  | 0x1E => Form.reg .widen w rest
  | 0x1F => Form.reg .narrow w rest
  | 0x20 => Form.abt .shfl okD tSeg w rest
  | 0x21 => Form.abt .shflup okD tSeg w rest
  | 0x22 => Form.abt .shfldn okD tSeg w rest
  | 0x23 => Form.abt .shflx okD tSeg w rest
  | 0x24 => Form.ab0 .bcast okD 0 w rest
  | 0x25 => Form.dat .vote okD tInt w rest
  | 0x26 => Form.dat .scan okD tInt w rest
  | 0x27 => Form.dat .scanx okD tInt w rest
  | 0x28 => Form.dat .rsum okD tInt w rest
  | 0x29 => Form.dat .rmin okD tInt w rest
  | 0x2A => Form.dat .rmax okD tInt w rest
  | 0x2B => Form.dat .matchLane okD tBit w rest
  | 0x2C => Form.ab0 .cmprs okD 0 w rest
  | 0x2D => Form.syncm w rest
  | 0x30 => Form.abt .fadd okD tFloat w rest
  | 0x31 => Form.abt .fsub okD tFloat w rest
  | 0x32 => Form.abt .fmul okD tFloat w rest
  | 0x33 => Form.abt .ffma okD tFloat w rest
  | 0x34 => Form.abt .fmin okD tFloat w rest
  | 0x35 => Form.abt .fmax okD tFloat w rest
  | 0x36 => Form.dat .fabs okD tFloat w rest
  | 0x37 => Form.dat .fneg okD tFloat w rest
  | 0x38 => Form.cmp .fcmp 8 tFloat w rest
  | 0x39 => Form.dat .fclass okD tFloat w rest
  | 0x3A => Form.dat .frint okD tFloat w rest
  | 0x3B => Form.abt .cvt okD tAny w rest
  | 0x3C => Form.dat .cvtfi okD tFloat w rest
  | 0x3D => Form.dat .cvtif okD tFloat w rest
  | 0x3E => Form.abt .fscale okD tFloat w rest
  | 0x3F => Form.xfr w
  | 0x40 => Form.dat .rcp okM tFloat w rest
  | 0x41 => Form.dat .rsq okM tFloat w rest
  | 0x42 => Form.dat .sqrt okM tFloat w rest
  | 0x43 => Form.dat .exp2 okM tFloat w rest
  | 0x44 => Form.dat .log2 okM tFloat w rest
  | 0x45 => Form.dat .sin okM tFloat w rest
  | 0x46 => Form.dat .cos okM tFloat w rest
  | 0x47 => Form.dat .tanh okM tFloat w rest
  | 0x48 => Form.act w rest
  | 0x49 => Form.abt .fdiv okM tFloat w rest
  | 0x4A => Form.ab0 .cats okM 5 w rest
  | 0x4B => Form.rng w
  | 0x4C => Form.a0 .xfc okM w rest
  | 0x50 => Form.abt .ldg okM tAny w rest
  | 0x51 => Form.abt .stg okS tAny w rest
  | 0x52 => Form.abt .lds okM tAny w rest
  | 0x53 => Form.abt .sts okS tAny w rest
  | 0x54 => Form.abt .atom32 okM tAny w rest
  | 0x55 => Form.abt .atom64 okM tAny w rest
  | 0x56 => Form.abt .fatom okM tThree w rest
  | 0x57 => Form.abt .red (fun z => decide (z < 4)) tAny w rest
  | 0x58 => Form.pfd w rest
  | 0x60 => Form.mma w rest
  | 0x61 => Form.mreg .mld w rest
  | 0x62 => Form.mst w rest
  | 0x63 => Form.mzero w
  | 0x64 => Form.qtile w rest
  | 0x65 => Form.dat .plst okS tPlane w rest
  | 0x66 => Form.dat .plld okM tPlane w rest
  | 0x67 => Form.mrd w rest
  | 0x7F =>
    if fld w 8 0 = 0 then
      .ok (.pfx (fld w 23 21) (fld w 20 20) (fld w 19 18) (fld w 17 17) (fld w 16 16) (fld w 15 9), 1)
    else .error .reservedField
  | op => if 0x70 ≤ op ∧ op ≤ 0x77 then .ok (.hint (op - 0x70) (fld w 23 0), 1) else .error .unassigned

/-- A uniform word without literals, from its opcode and its bits 23:0, 23:16, 15:8, 7:0 and 15:0 (R87, R89). -/
def decodeUni (op x24 x16 x8 x0 i16 : Nat) : Except DecodeError Instr :=
  match op with
  | 0x00 => if x24 = 0 then .ok .unop else .error .reservedField
  | 0x01 => .ok (.uadd x16 x8 x0)
  | 0x02 => .ok (.usub x16 x8 x0)
  | 0x03 => .ok (.umul x16 x8 x0)
  | 0x04 => .ok (.umulh x16 x8 x0)
  | 0x05 => .ok (.uand x16 x8 x0)
  | 0x06 => .ok (.uor x16 x8 x0)
  | 0x07 => .ok (.uxor x16 x8 x0)
  | 0x08 => .ok (.ushl x16 x8 x0)
  | 0x09 => .ok (.ushr x16 x8 x0)
  | 0x0A => .ok (.usar x16 x8 x0)
  | 0x0B => .ok (.umin x16 x8 x0)
  | 0x0C => .ok (.umax x16 x8 x0)
  | 0x0D => .ok (.useq x16 x8 x0)
  | 0x0E => .ok (.uslt x16 x8 x0)
  | 0x0F => .ok (.usltu x16 x8 x0)
  | 0x10 => .ok (.uaddi x16 i16)
  | 0x11 => .ok (.uli x16 i16)
  | 0x14 => if x0 = 0 then .ok (.umov x16 x8) else .error .reservedField
  | 0x15 => if i16 < 64 then .ok (.ushli x16 i16) else .error .operandCode
  | 0x16 => if x0 < 4 then .ok (.uld x16 x8 x0) else .error .reservedField
  | 0x17 => if x0 < 4 then .ok (.ust x16 x8 x0) else .error .reservedField
  | 0x18 => if x0 < 4 then .ok (.ulds x16 x8 x0) else .error .reservedField
  | 0x19 => if x0 < 4 then .ok (.usts x16 x8 x0) else .error .reservedField
  | 0x1A => .ok (.uatom x16 x8 (x0 / 32) (x0 % 32))
  | 0x20 => .ok (.bra x24)
  | 0x21 => .ok (.brz x16 i16)
  | 0x22 => .ok (.brnz x16 i16)
  | 0x23 => .ok (.brm (x24 / 2097152) (x24 % 2097152))
  | 0x24 => if x16 < 96 then .ok (.call x16 i16) else .error .operandCode
  | 0x25 => if x16 < 96 ∧ x8 < 96 ∧ 0 < x0 then .ok (.calli x16 x8 x0) else .error .operandCode
  | 0x26 => if x16 = 0 ∧ x0 = 0 then (if x8 < 96 then .ok (.ret x8) else .error .operandCode) else .error .reservedField
  | 0x27 => if x16 = 0 ∧ x0 = 0 then (if x8 < 96 then .ok (.jmpi x8) else .error .operandCode) else .error .reservedField
  | 0x28 => if x24 % 2097152 = 0 then .ok (.exit (x24 / 2097152)) else .error .reservedField
  | 0x29 => if x24 = 0 then .ok .yield else .error .reservedField
  | 0x2A => .ok (.pfi (x24 / 1048576) (x24 % 1048576))
  | 0x30 => if x16 < 16 ∧ x8 = 0 ∧ x0 ≤ 128 then .ok (.bar x16 x0) else .error .operandCode
  | 0x31 => if x8 < 16 ∧ x0 ≤ 128 then .ok (.bara x16 x8 x0) else .error .operandCode
  | 0x32 => if x16 < 16 ∧ x0 = 0 then .ok (.barw x16 x8) else .error .operandCode
  | 0x33 => if x24 = 0 then .ok .gbar else .error .reservedField
  | 0x34 => if x24 < 4096 then .ok (.waitf x24) else .error .reservedField
  | 0x35 => if x0 = 0 then .ok (.launch x16 x8) else .error .reservedField
  | 0x36 => if x16 = 0 ∧ x0 = 0 then .ok (.waitch x8) else if x24 = 1 then .ok .waitchAll else .error .reservedField
  | 0x40 => if x16 < 64 then .ok (.copy x16 x8 x0) else .error .reservedField
  | 0x41 => .ok (.chapp x16 x8 x0)
  | 0x42 => if x16 = 0 then .ok (.seqw x8 x0) else .error .reservedField
  | 0x43 => if x0 = 0 then .ok (.seqr x16 x8) else .error .reservedField
  | 0x44 => if x16 < 64 ∧ x8 = 0 ∧ x0 < 4 then (if x0 % 2 = 0 then .ok (.hwait x16 (x0 / 2)) else .error .operandCode) else .error .reservedField
  | 0x45 => if x16 < 64 ∧ i16 = 0 then .ok (.hrel x16) else .error .reservedField
  | 0x46 => if x8 < 64 ∧ x0 = 0 then .ok (.hstate x16 x8) else .error .reservedField
  | 0x47 => if x8 < 64 ∧ x0 = 0 then .ok (.wpr x16 x8) else .error .reservedField
  | 0x48 => if x16 < 8 then (if x0 = 0 then .ok (.stdefLoad x16 x8) else if x0 = 1 then .ok (.stdefStore x16 x8) else .error .operandCode) else .error .reservedField
  | 0x49 => if x0 < 8 then (if x8 = 0 then .ok (.stposRead x16 x0) else .error .reservedField) else if 128 ≤ x0 ∧ x0 < 136 ∧ x16 = 0 then .ok (.stposWrite (x0 - 128) x8) else .error .reservedField
  | 0x4A => .ok (.resid x16 x8 x0)
  | 0x4B => if x16 = 0 then .ok (.demote x8 x0) else .error .reservedField
  | 0x50 => if x0 = 0 then .ok (.ftset x16 x8) else .error .reservedField
  | 0x51 => if x0 < 4 then .ok (.ftgetEntry x16 x8 x0) else if x0 = 128 ∧ x8 = 0 then .ok (.ftgetGen x16) else .error .reservedField
  | 0x52 => if x24 < 4 then .ok (.ffence x24) else .error .reservedField
  | 0x53 => if x16 = 0 then .ok (.fmtsel x0 x8) else .error .reservedField
  | 0x54 => if x16 = 0 ∧ x0 = 0 then .ok (.lutld x8) else .error .reservedField
  | 0x55 => if x24 = 0 then .ok .lutswap else .error .reservedField
  | 0x56 => if x24 < 2 then .ok (.mfence x24) else .error .reservedField
  | 0x57 => if x16 = 0 then .ok (.rngseed x8 x0) else .error .reservedField
  | 0x60 => if x24 < 16 then .ok (.fence (x24 / 4) (x24 % 4)) else .error .reservedField
  | 0x61 => if x24 < 4 then .ok (.tfence x24) else .error .reservedField
  | 0x62 => if x16 = 0 ∧ x0 % 16 < 4 ∧ x0 < 64 then (if x0 / 16 < 3 ∧ 0 < x0 % 16 then .ok (.tlbi x8 (x0 / 16) (x0 % 16)) else .error .operandCode) else .error .reservedField
  | 0x63 => if x24 < 4 then .ok (.ifence x24) else .error .reservedField
  | 0x70 => if x16 = 0 then .ok (.trap i16) else .error .reservedField
  | 0x71 => if x24 = 0 then .ok .rte else .error .reservedField
  | 0x72 => .ok (.csrr x16 x8 x0)
  | 0x73 => .ok (.csrw x16 x8 x0)
  | 0x74 => if x24 < 3 then .ok (.boost x24) else if x24 = 3 then .error .operandCode else .error .reservedField
  | 0x75 => if x0 = 0 then .ok (.ember x16 x8) else if x0 = 1 ∧ x16 = 0 then .ok (.emberOff x8) else .error .reservedField
  | 0x76 => if x24 < 4 then .ok (.drawc x24) else .error .reservedField
  | op => if 0x78 ≤ op then .ok (.uhint (op - 0x78) x24) else .error .unassigned

/-- A uniform word (R87): ULIT and ULIT64 take the literal words that follow. -/
def decodeUniform (w : Nat) (rest : List Nat) : Decoded :=
  match fld w 30 24 with
  | 0x12 =>
    if fld w 15 0 = 0 then
      match rest with
      | v :: _ => .ok (.ulit (fld w 23 16) (v % 4294967296), 2)
      | [] => .error .literal
    else .error .reservedField
  | 0x13 =>
    if fld w 15 0 = 0 then
      match rest with
      | lo :: hi :: _ => .ok (.ulit64 (fld w 23 16) (lo % 4294967296 + hi % 4294967296 * 4294967296), 3)
      | _ => .error .literal
    else .error .reservedField
  | op =>
    match decodeUni op (fld w 23 0) (fld w 23 16) (fld w 15 8) (fld w 7 0) (fld w 15 0) with
    | .ok i => .ok (i, 1)
    | .error e => .error e

/-- The instruction at the head of a list of body words, and its length in words (R82 to R93). -/
def decode (ws : List Nat) : Decoded :=
  match ws with
  | [] => .error .literal
  | w :: rest => if fld w 31 31 = 0 then decodeLane w rest else decodeUniform w rest

/-- Four little-endian bytes as a word (R8). -/
def wordOfBytes : List Byte → Nat
  | [] => 0
  | b :: r => b.toNat + 256 * wordOfBytes r

/-- The bytes of a list of words, each word little-endian (R8). -/
def bytesOfWords (ws : List Nat) : List Byte :=
  ws.flatMap fun w => [BitVec.ofNat 8 w, BitVec.ofNat 8 (w / 256), BitVec.ofNat 8 (w / 65536), BitVec.ofNat 8 (w / 16777216)]

/-- The 32-bit words of a list of bytes. -/
def wordsOfBytes : List Byte → List Nat
  | a :: b :: c :: d :: r => wordOfBytes [a, b, c, d] :: wordsOfBytes r
  | _ => []

/-- The words of an instruction whose bits are `w`: five 32-bit words, the first the lowest, which is the longest
lane word (LIT64 in A and in B); bits above `nbits` are 0. -/
def tableWords (nbits w : Nat) : List Nat :=
  (List.range 5).map fun k => w % 2 ^ nbits / 2 ^ (32 * k) % 4294967296

/-- The instruction this decoder reads from the bits `w` of an opcode-table row. -/
def decodeTableWord (nbits w : Nat) : Option Instr :=
  match decode (wordsOfBytes (bytesOfWords (tableWords nbits w))) with
  | .ok (i, _) => some i
  | .error _ => none

/-! The encoder, from the same tables. -/

/-- The literal words of a source (R84). -/
def Src.words (a : Src) : List Nat :=
  if a.code = 114 then [a.lit]
  else if a.code = 115 then [a.lit % 4294967296, a.lit / 4294967296] else []

/-- A lane word from its fields (R82). -/
def lane (op d a b t : Nat) : Nat := op * 16777216 + d * 131072 + a * 1024 + b * 8 + t

/-- A uniform word from its opcode and bits 23:0 (R87). -/
def uni (op x : Nat) : Nat := 2147483648 + op * 16777216 + x

/-- Bits 23:0 of a uniform word with three fields (R87). -/
def u3 (d a b : Nat) : Nat := d * 65536 + a * 256 + b
/-- Bits 23:0 of a uniform word with a field and a 16-bit immediate (R87). -/
def ui (d i : Nat) : Nat := d * 65536 + i

/-- A lane word with two sources and their literals. -/
def encABT (op d : Nat) (a b : Src) (t : Nat) : List Nat := lane op d a.code b.code t :: (a.words ++ b.words)
/-- A lane word with one source and its literal. -/
def encAT (op d : Nat) (a : Src) (t : Nat) : List Nat := lane op d a.code 112 t :: a.words

/-- The words of a well-formed instruction word; a device step or command has none. -/
def encode : Instr → List Nat
  | .iadd d a b t => encABT 0x00 d a b t
  | .isub d a b t => encABT 0x01 d a b t
  | .imul d a b t => encABT 0x02 d a b t
  | .imulh d a b t => encABT 0x03 d a b t
  | .imulhu d a b t => encABT 0x04 d a b t
  | .imad d a b t => encABT 0x05 d a b t
  | .imin d a b t => encABT 0x06 d a b t
  | .imax d a b t => encABT 0x07 d a b t
  | .iminu d a b t => encABT 0x08 d a b t
  | .imaxu d a b t => encABT 0x09 d a b t
  | .iabs d a t => encAT 0x0A d a t
  | .andw d a b t => encABT 0x0B d a b t
  | .orw d a b t => encABT 0x0C d a b t
  | .xorw d a b t => encABT 0x0D d a b t
  | .andn d a b t => encABT 0x0E d a b t
  | .shl d a b t => encABT 0x0F d a b t
  | .shr d a b t => encABT 0x10 d a b t
  | .sar d a b t => encABT 0x11 d a b t
  | .rol d a b t => encABT 0x12 d a b t
  | .popc d a t => encAT 0x13 d a t
  | .clz d a t => encAT 0x14 d a t
  | .bfx d a b t => encABT 0x15 d a b t
  | .bfi d a b t => encABT 0x16 d a b t
  | .sel d a b t => encABT 0x17 d a b t
  | .icmp cond k a b t => encABT 0x18 (cond * 8 + k) a b t
  | .lea d a b t => encABT 0x19 d a b t
  | .mov d a => encAT 0x1A d a 0
  | .aff d a b => encABT 0x1B d a b 0
  | .shape d a => encAT 0x1C d a 0
  | .shassert a s => encAT 0x1D 112 a s
  | .widen d a => encAT 0x1E d a 0
  | .narrow d a => encAT 0x1F d a 0
  | .shfl d a b t => encABT 0x20 d a b t
  | .shflup d a b t => encABT 0x21 d a b t
  | .shfldn d a b t => encABT 0x22 d a b t
  | .shflx d a b t => encABT 0x23 d a b t
  | .bcast d a b => encABT 0x24 d a b 0
  | .vote d a t => encAT 0x25 d a t
  | .scan d a t => encAT 0x26 d a t
  | .scanx d a t => encAT 0x27 d a t
  | .rsum d a t => encAT 0x28 d a t
  | .rmin d a t => encAT 0x29 d a t
  | .rmax d a t => encAT 0x2A d a t
  | .matchLane d a t => encAT 0x2B d a t
  | .cmprs d a b => encABT 0x2C d a b 0
  | .syncm a => encAT 0x2D 112 a 0
  | .fadd d a b t => encABT 0x30 d a b t
  | .fsub d a b t => encABT 0x31 d a b t
  | .fmul d a b t => encABT 0x32 d a b t
  | .ffma d a b t => encABT 0x33 d a b t
  | .fmin d a b t => encABT 0x34 d a b t
  | .fmax d a b t => encABT 0x35 d a b t
  | .fabs d a t => encAT 0x36 d a t
  | .fneg d a t => encAT 0x37 d a t
  | .fcmp cond k a b t => encABT 0x38 (cond * 8 + k) a b t
  | .fclass d a t => encAT 0x39 d a t
  | .frint d a t => encAT 0x3A d a t
  | .cvt d a b t => encABT 0x3B d a b t
  | .cvtfi d a t => encAT 0x3C d a t
  | .cvtif d a t => encAT 0x3D d a t
  | .fscale d a b t => encABT 0x3E d a b t
  | .xfr d => [lane 0x3F d 112 112 0]
  | .rcp d a t => encAT 0x40 d a t
  | .rsq d a t => encAT 0x41 d a t
  | .sqrt d a t => encAT 0x42 d a t
  | .exp2 d a t => encAT 0x43 d a t
  | .log2 d a t => encAT 0x44 d a t
  | .sin d a t => encAT 0x45 d a t
  | .cos d a t => encAT 0x46 d a t
  | .tanh d a t => encAT 0x47 d a t
  | .act d a f t => lane 0x48 d a.code f t :: a.words
  | .fdiv d a b t => encABT 0x49 d a b t
  | .cats d a b => encABT 0x4A d a b 5
  | .rng d t => [lane 0x4B d 112 112 t]
  | .xfc d a => encAT 0x4C d a 0
  | .ldg d a b t => encABT 0x50 d a b t
  | .stg d a b t => encABT 0x51 d a b t
  | .lds d a b t => encABT 0x52 d a b t
  | .sts d a b t => encABT 0x53 d a b t
  | .atom32 d a b t => encABT 0x54 d a b t
  | .atom64 d a b t => encABT 0x55 d a b t
  | .fatom d a b t => encABT 0x56 d a b t
  | .red z a b t => encABT 0x57 z a b t
  | .pfd a b l => encABT 0x58 112 a b l
  | .mma sh acc a b u => encABT 0x60 (sh * 8 + acc) a b u
  | .mld sh acc a => encAT 0x61 (sh * 8 + acc) a 0
  | .mstRaw sh acc a => encAT 0x62 (sh * 8 + acc) a 0
  | .mstConvert sh acc a b t => encABT 0x62 (sh * 8 + acc) a b t
  | .mzero sh acc => [lane 0x63 (sh * 8 + acc) 112 112 0]
  | .qtileMax d a b => encABT 0x64 d a b 0
  | .qtileCvt a b => encABT 0x64 112 a b 1
  | .plst d a t => encAT 0x65 d a t
  | .plld d a t => encAT 0x66 d a t
  | .mrdRaw d a => encAT 0x67 d a 0
  | .mrdConvert d a b t => encABT 0x67 d a b t
  | .unop => [uni 0x00 (0)]
  | .uadd d a b => [uni 0x01 (u3 d a b)]
  | .usub d a b => [uni 0x02 (u3 d a b)]
  | .umul d a b => [uni 0x03 (u3 d a b)]
  | .umulh d a b => [uni 0x04 (u3 d a b)]
  | .uand d a b => [uni 0x05 (u3 d a b)]
  | .uor d a b => [uni 0x06 (u3 d a b)]
  | .uxor d a b => [uni 0x07 (u3 d a b)]
  | .ushl d a b => [uni 0x08 (u3 d a b)]
  | .ushr d a b => [uni 0x09 (u3 d a b)]
  | .usar d a b => [uni 0x0A (u3 d a b)]
  | .umin d a b => [uni 0x0B (u3 d a b)]
  | .umax d a b => [uni 0x0C (u3 d a b)]
  | .useq d a b => [uni 0x0D (u3 d a b)]
  | .uslt d a b => [uni 0x0E (u3 d a b)]
  | .usltu d a b => [uni 0x0F (u3 d a b)]
  | .uaddi d imm => [uni 0x10 (ui d imm)]
  | .uli d imm => [uni 0x11 (ui d imm)]
  | .umov d a => [uni 0x14 (u3 d a 0)]
  | .ushli d k => [uni 0x15 (ui d k)]
  | .uld d a w => [uni 0x16 (u3 d a w)]
  | .ust d a w => [uni 0x17 (u3 d a w)]
  | .ulds d a w => [uni 0x18 (u3 d a w)]
  | .usts d a w => [uni 0x19 (u3 d a w)]
  | .uatom d a o x => [uni 0x1A (u3 d a (o * 32 + x))]
  | .bra off => [uni 0x20 (off)]
  | .brz n off => [uni 0x21 (ui n off)]
  | .brnz n off => [uni 0x22 (ui n off)]
  | .brm k off => [uni 0x23 (k * 2097152 + off)]
  | .call l off => [uni 0x24 (ui l off)]
  | .calli l p c => [uni 0x25 (u3 l p c)]
  | .ret l => [uni 0x26 (u3 0 l 0)]
  | .jmpi p => [uni 0x27 (u3 0 p 0)]
  | .exit k => [uni 0x28 (k * 2097152)]
  | .yield => [uni 0x29 (0)]
  | .pfi n off => [uni 0x2A (n * 1048576 + off)]
  | .bar k c => [uni 0x30 (u3 k 0 c)]
  | .bara d k c => [uni 0x31 (u3 d k c)]
  | .barw k a => [uni 0x32 (u3 k a 0)]
  | .gbar => [uni 0x33 (0)]
  | .waitf f => [uni 0x34 (f)]
  | .launch d a => [uni 0x35 (u3 d a 0)]
  | .waitch a => [uni 0x36 (u3 0 a 0)]
  | .waitchAll => [uni 0x36 (1)]
  | .copy k a b => [uni 0x40 (u3 k a b)]
  | .chapp d a b => [uni 0x41 (u3 d a b)]
  | .seqw a b => [uni 0x42 (u3 0 a b)]
  | .seqr d a => [uni 0x43 (u3 d a 0)]
  | .hwait k f => [uni 0x44 (u3 k 0 (2 * f))]
  | .hrel k => [uni 0x45 (u3 k 0 0)]
  | .hstate d k => [uni 0x46 (u3 d k 0)]
  | .wpr d k => [uni 0x47 (u3 d k 0)]
  | .stdefLoad n a => [uni 0x48 (u3 n a 0)]
  | .stdefStore n a => [uni 0x48 (u3 n a 1)]
  | .stposRead d n => [uni 0x49 (u3 d 0 n)]
  | .stposWrite n a => [uni 0x49 (u3 0 a (128 + n))]
  | .resid d a b => [uni 0x4A (u3 d a b)]
  | .demote a b => [uni 0x4B (u3 0 a b)]
  | .ftset n a => [uni 0x50 (u3 n a 0)]
  | .ftgetEntry d n k => [uni 0x51 (u3 d n k)]
  | .ftgetGen d => [uni 0x51 (u3 d 0 128)]
  | .ffence s => [uni 0x52 (s)]
  | .fmtsel x y => [uni 0x53 (u3 0 y x)]
  | .lutld a => [uni 0x54 (u3 0 a 0)]
  | .lutswap => [uni 0x55 (0)]
  | .mfence s => [uni 0x56 (s)]
  | .rngseed a b => [uni 0x57 (u3 0 a b)]
  | .fence k s => [uni 0x60 (k * 4 + s)]
  | .tfence s => [uni 0x61 (s)]
  | .tlbi a m s => [uni 0x62 (u3 0 a (m * 16 + s))]
  | .ifence s => [uni 0x63 (s)]
  | .trap i => [uni 0x70 (i)]
  | .rte => [uni 0x71 (0)]
  | .csrr d n i => [uni 0x72 (u3 d n i)]
  | .csrw a n i => [uni 0x73 (u3 a n i)]
  | .boost n => [uni 0x74 (n)]
  | .ember d a => [uni 0x75 (u3 d a 0)]
  | .emberOff a => [uni 0x75 (u3 0 a 1)]
  | .drawc c => [uni 0x76 (c)]
  | .ulit d v => [uni 0x12 (ui d 0), v]
  | .ulit64 d v => [uni 0x13 (ui d 0), v % 4294967296, v / 4294967296]
  | .hint k x => [(0x70 + k) * 16777216 + x]
  | .uhint k x => [uni (0x78 + k) x]
  | .pfx m z r n s c => [0x7F * 16777216 + m * 2097152 + z * 1048576 + r * 262144 + n * 131072 + s * 65536 + c * 512]
  | .sfuComplete _ => []
  | .matrixOpComplete _ => []
  | .pfiLineDrop _ _ => []
  | .copyRoundEnd _ _ _ => []
  | .demoteMoveEnd _ => []
  | .lutldComplete _ => []
  | .fenceLeaseWaitEnd _ => []
  | .clauseIssue => []
  | .instructionLineArrive _ _ => []
  | .fetchWalkResult _ _ => []
  | .loadMissServe _ _ _ _ => []
  | .loadComplete _ => []
  | .storePerformed _ _ => []
  | .storeAck _ => []
  | .leaseExpiry _ _ _ => []
  | .inboundWrite _ => []
  | .slabDeadlock _ => []
  | .gangRetire _ => []
  | .teamPlace _ => []
  | .gridAging _ => []
  | .coreReservation _ => []
  | .preemptRequest _ => []
  | .drainDeadline _ => []
  | .swapOut _ => []
  | .timeSliceExpiry _ _ => []
  | .gangIssueSelect _ => []
  | .ladleAccept _ _ => []
  | .ladleJobEnd _ _ => []
  | .chainSequenceAdvance _ => []
  | .peerJobReceive _ => []
  | .bellowsStep _ => []
  | .powerSample _ => []
  | .slowLimitWindow _ _ => []
  | .emberCandidate _ => []
  | .emberFlush _ => []
  | .coalInterval _ => []
  | .droop _ => []
  | .nearThresholdTransition _ _ _ _ => []
  | .temperatureRead _ => []
  | .hotPageMigration _ _ => []
  | .energyAccounting _ _ => []
  | .hallmarkInterval _ => []
  | .dramScrub _ _ _ => []
  | .unitFence _ => []
  | .cxlLinkFail _ => []
  | .reforgeTick _ => []
  | .reforgeSettleEnd _ => []
  | .powerGood _ _ _ => []
  | .coolantOutOfRange => []
  | .firmwareFetch _ _ _ _ => []
  | .dramReady _ => []
  | .slicesReady _ => []
  | .fullFunction => []
  | .ptpMessage _ _ => []
  | .ptpHoldover => []
  | .hello _ => []
  | .health _ => []
  | .reset _ => []
  | .image _ => []
  | .reforge _ => []
  | .fenceCmd _ => []
  | .ctxnew _ => []
  | .ctxdel _ => []
  | .bind _ => []
  | .release _ => []
  | .write _ => []
  | .read _ => []
  | .launchCmd _ => []
  | .malformedCommand _ => []
  | .droopRecovery _ => []
  | .coolantInRange => []
  | .coolantLossTimeout => []
  | .dramShortageDemotion _ _ => []
  | .contextStop _ => []
  | .contextRestore _ _ => []
  | .guaranteedShareSet _ _ _ => []

end Sys2Proof
end

