-- ==== Sys2Proof/Machine/Num.lean ====
section
/-! DEFINITION. Exact numbers: the intermediate of the conversion lattice (R225), as signed fractions with a power
of two, with infinities and NaN, and the rounding to an integer by mode (R227). -/

namespace Sys2Proof.Machine

/-- An exact value (R225): NaN with its signalling flag, an infinity, or `(-1)^neg * (n / d) * 2^e`. -/
inductive Num where
  | nan (sig : Bool)
  | inf (neg : Bool)
  | fin (neg : Bool) (n d : Nat) (e : Int)
  deriving DecidableEq, Repr

/-- A rounding mode (R227); stochastic rounding carries the lane's 32-bit draw. -/
inductive Mode where
  | rne
  | rtz
  | rup
  | rdn
  | stoch (r : Nat)
  deriving DecidableEq, Repr

/-- `2^k` for a non-negative exponent, 1 otherwise. -/
def pow2 (k : Int) : Nat := 2 ^ k.toNat

/-- The fraction `(n / d) * 2^t` as a numerator and a denominator. -/
def scaled (n d : Nat) (t : Int) : Nat × Nat := (n * pow2 t, d * pow2 (-t))

/-- `floor (log2 (n / d))` for positive `n` and `d`. -/
def floorLog2 (n d : Nat) : Int :=
  let k : Int := (Nat.log2 n : Int) - (Nat.log2 d : Int)
  let nd := scaled n d (-k)
  if nd.2 ≤ nd.1 then k else k - 1

/-- Round the magnitude `n / d` of a value of sign `neg` to a whole magnitude (R227). -/
def roundMag (neg : Bool) (n d : Nat) (mode : Mode) : Nat :=
  let q := n / d
  let r := n % d
  match mode with
  | .rne => if 2 * r < d then q else if d < 2 * r then q + 1 else q + q % 2
  | .rtz => q
  | .rup => if neg || r == 0 then q else q + 1
  | .rdn => if neg && r != 0 then q + 1 else q
  | .stoch f => if f < r * 4294967296 / d then q + 1 else q

namespace Num

/-- A signed zero. -/
def zero (neg : Bool) : Num := .fin neg 0 1 0

/-- A whole number. -/
def ofInt (i : Int) : Num := .fin (decide (i < 0)) i.natAbs 1 0

/-- The value is a zero. -/
def isZero : Num → Bool
  | .fin _ n _ _ => n == 0
  | _ => false

/-- The value is NaN. -/
def isNan : Num → Bool
  | .nan _ => true
  | _ => false

/-- The value is a signalling NaN. -/
def isSig : Num → Bool
  | .nan s => s
  | _ => false

/-- The value is an infinity. -/
def isInf : Num → Bool
  | .inf _ => true
  | _ => false

/-- The sign of the value; false for NaN. -/
def sign : Num → Bool
  | .nan _ => false
  | .inf s => s
  | .fin s _ _ _ => s

/-- The value with its sign inverted. -/
def neg : Num → Num
  | .nan s => .nan s
  | .inf s => .inf (!s)
  | .fin s n d e => .fin (!s) n d e

/-- The magnitude of the value. -/
def abs : Num → Num
  | .nan s => .nan s
  | .inf _ => .inf false
  | .fin _ n d e => .fin false n d e

/-- The value times `2^k`. -/
def scale2 (k : Int) : Num → Num
  | .nan s => .nan s
  | .inf s => .inf s
  | .fin s n d e => .fin s n d (e + k)

/-- A signed numerator over a denominator, times `2^e`. -/
def ofFrac (i : Int) (d : Nat) (e : Int) (zeroNeg : Bool) : Num :=
  if i = 0 then .zero zeroNeg else .fin (decide (i < 0)) i.natAbs d e

/-- The signed integer of a sign and a magnitude. -/
def signed (s : Bool) (n : Nat) : Int := if s then -(n : Int) else n

/-- The exact sum.  Infinities of opposite sign give a NaN that the caller reports as invalid; an exact zero is
+0 unless both operands are -0, or the mode is RDN and the signs differ (R274). -/
def add (rdn : Bool) : Num → Num → Num
  | .nan a, .nan b => .nan (a || b)
  | .nan a, _ => .nan a
  | _, .nan b => .nan b
  | .inf a, .inf b => if a = b then .inf a else .nan false
  | .inf a, _ => .inf a
  | _, .inf b => .inf b
  | .fin s n d e, .fin s' n' d' e' =>
    let m := min e e'
    let i := signed s (n * d' * pow2 (e - m)) + signed s' (n' * d * pow2 (e' - m))
    ofFrac i (d * d') m (if s = s' then s else rdn)

/-- The exact product; zero times infinity gives a NaN that the caller reports as invalid. -/
def mul : Num → Num → Num
  | .nan a, .nan b => .nan (a || b)
  | .nan a, _ => .nan a
  | _, .nan b => .nan b
  | .inf a, .inf b => .inf (a != b)
  | .inf a, .fin s n _ _ => if n = 0 then .nan false else .inf (a != s)
  | .fin s n _ _, .inf a => if n = 0 then .nan false else .inf (a != s)
  | .fin s n d e, .fin s' n' d' e' => .fin (s != s') (n * n') (d * d') (e + e')

/-- The exact quotient of finite nonzero or infinite operands; the zero and invalid cases are the caller's. -/
def div : Num → Num → Num
  | .nan a, .nan b => .nan (a || b)
  | .nan a, _ => .nan a
  | _, .nan b => .nan b
  | .inf _, .inf _ => .nan false
  | .inf a, .fin s _ _ _ => .inf (a != s)
  | .fin s _ _ _, .inf a => .zero (a != s)
  | .fin s n d e, .fin s' n' d' e' =>
    if n' = 0 then (if n = 0 then .nan false else .inf (s != s'))
    else .fin (s != s') (n * d') (d * n') (e - e')

/-- Compare two magnitudes `n / d * 2^e`. -/
def cmpMag (n d : Nat) (e : Int) (n' d' : Nat) (e' : Int) : Ordering :=
  let m := min e e'
  compare (n * d' * pow2 (e - m)) (n' * d * pow2 (e' - m))

/-- Compare two values that are not NaN; -0 and +0 are equal. -/
def cmp : Num → Num → Ordering
  | .inf true, .inf true => .eq
  | .inf true, _ => .lt
  | _, .inf true => .gt
  | .inf false, .inf false => .eq
  | .inf false, _ => .gt
  | _, .inf false => .lt
  | .fin s n d e, .fin s' n' d' e' =>
    if n = 0 ∧ n' = 0 then .eq
    else if n = 0 then (if s' then .gt else .lt)
    else if n' = 0 then (if s then .lt else .gt)
    else match s, s' with
      | false, true => .gt
      | true, false => .lt
      | false, false => cmpMag n d e n' d' e'
      | true, true => cmpMag n' d' e' n d e
  | _, _ => .eq

/-- Strictly less, for values that are not NaN. -/
def lt (a b : Num) : Bool := cmp a b == .lt
/-- Less or equal, for values that are not NaN. -/
def le (a b : Num) : Bool := cmp a b != .gt
/-- Equal in value, for values that are not NaN. -/
def eqv (a b : Num) : Bool := cmp a b == .eq

/-- Strictly less, with -0 below +0 (R277). -/
def ltz (a b : Num) : Bool :=
  lt a b || (a.isZero && b.isZero && a.sign && !b.sign)

/-- `floor (log2 |v|)` of a finite nonzero value. -/
def flog : Num → Int
  | .fin _ n d e => floorLog2 n d + e
  | _ => 0

/-- The value rounded to nearest-even at `bits` significand bits (R225, R286). -/
def roundBits (bits : Nat) : Num → Num
  | .fin s n d e =>
    if n = 0 then .fin s n d e
    else
      let q := floorLog2 n d + e - ((bits : Int) - 1)
      let nd := scaled n d (e - q)
      .fin s (roundMag s nd.1 nd.2 .rne) 1 q
  | v => v

/-- The value truncated toward zero to a multiple of `2^q` (R304). -/
def truncTo (q : Int) : Num → Num
  | .fin s n d e =>
    let nd := scaled n d (e - q)
    .fin s (nd.1 / nd.2) 1 q
  | v => v

/-- The value rounded to an integral value by mode (R275 FRINT). -/
def rint (mode : Mode) : Num → Num
  | .fin s n d e =>
    let nd := scaled n d e
    .fin s (roundMag s nd.1 nd.2 mode) 1 0
  | v => v

end Num

end Sys2Proof.Machine
end

