-- ==== Sys2Proof/Config.lean ====
section
/-! DEFINITION. The fixed counts of the device (R13 to R15, R25) and the free values: values the manual leaves
open, as constants with no body, so that no statement can rest on what they are (log entry 15, DESIGN CHOICE). -/

namespace Sys2Proof.Config

/-- The value that stands behind a poison mark: R175 writes the mark "in place of a value". -/
opaque freeValue : Nat → Word
/-- The choices that R316 leaves: whether two unordered matrix operations overlap, and which of them each cell or word
sees first. -/
opaque mixed : Nat → Nat → Bool

/-- Slices of the device (R13). -/
abbrev slices : Nat := 12
/-- Cores of the device (R13). -/
abbrev cores : Nat := 384
/-- Clusters of the device (R13). -/
abbrev clusters : Nat := 96
/-- Gang slots of a core (R15). -/
abbrev slots : Nat := 48
/-- Slabs of a core's pool (R15). -/
abbrev slabs : Nat := 2048
/-- Scratchpad bytes of a core (R15). -/
abbrev spadBytes : Nat := 393216
/-- Accumulator tiles of a core (R15). -/
abbrev accTiles : Nat := 8
/-- Team barriers of a core (R15). -/
abbrev barriers : Nat := 64
/-- Buffer handles of a core (R15). -/
abbrev handles : Nat := 256
/-- Operations that a core's matrix queue holds (R298). -/
abbrev matrixQueue : Nat := 8
/-- Operations that a completion flag counts (R77). -/
abbrev flagLimit : Nat := 255
/-- Sets of 16 lines in a core's L1 (R15: 1 MiB, 128-byte lines, 16-way). -/
abbrev l1Sets : Nat := 512
/-- Lines of a core's L0 instruction cache (R15: 32 KiB of 64-byte lines). -/
abbrev l0Lines : Nat := 512
/-- Lines of a cluster's instruction cache (R13: 256 KiB of 64-byte lines). -/
abbrev icLines : Nat := 4096
/-- Lines of an L2 slice (R13: 4 MiB of 128-byte lines). -/
abbrev l2Lines : Nat := 32768
/-- Ways of a set of L1 (R15). -/
abbrev l1Ways : Nat := 16

end Sys2Proof.Config
end

