-- ==== Sys2Proof/Machine/State.lean ====
section
/-! DEFINITION. The state of the whole device, as plain data, and the state right after reset (stage 0, R400).
Every piece is listed in INVENTORY.md with the rule that names it. -/

namespace Sys2Proof.Machine

/-- Why the machine stops with a fault. -/
inductive Fault where
  /-- Raised by the meaning of an instruction word when no gang stands in a clause that could execute it.
  Safe: the step function never does this, and the manual gives such a word no effect. -/
  | noGang
  deriving DecidableEq, Repr

/-- Why the machine refuses an instruction. -/
inductive Refusal where
  /-- Raised by an arm of `exec` whose instruction has no meaning yet.  Safe: nothing is claimed of it. -/
  | notModelled (mnemonic : String)
  deriving DecidableEq, Repr

/-- A sparse table with natural-number keys, in rising key order. -/
abbrev Tbl (α : Type) := List (Nat × α)

/-! ## Memory -/

/-- The 4 KiB stripes of a CXL window that lie behind a port whose link has failed (R438, R439): every `ways`-th stripe from
`way` on of the `size` bytes at `base`. -/
structure Dead where
  base : Nat
  size : Nat
  ways : Nat
  way : Nat
  deriving DecidableEq, Repr

/-- Bytes by address, the poisoned aligned 8-byte words (by address / 8), and the stripes that always read as poison.
Canonical: addresses strictly rising and no listed byte 0, which is what an unlisted address reads as; poison indices
strictly rising. -/
structure Memory where
  cells : List Host.Cell := []
  poison : List Nat := []
  dead : List Dead := []
  deriving DecidableEq, Repr

/-! ## Registers of a gang -/

/-- A 64-bit value and its poison mark: the virtual address of the load that set it (R175). -/
structure Slot where
  val : Word := 0
  mark : Option Word := none
  deriving DecidableEq, Repr

/-- A vector register with its shape (R53). -/
inductive VReg where
  | u (x : Word)
  | a (b s : Word)
  | p (lanes : Vector Slot 32)
  deriving DecidableEq, Repr

/-- A report that a completed operation left on its flag (R175, R201, R288): POISON or ENGINE, and its address. -/
structure Report where
  engine : Bool
  addr : Word
  deriving DecidableEq, Repr

/-- A completion flag: the operations in flight it counts, and its pending reports (R77). -/
structure CFlag where
  count : Nat := 0
  reports : List Report := []
  deriving DecidableEq, Repr

/-- A stream register (R65). -/
structure StreamReg where
  base : Word := 0
  zc : Nat := 0
  strides : Vector (BitVec 32) 5 := Vector.replicate 5 0
  extents : Vector (BitVec 32) 5 := Vector.replicate 5 0
  pos : Word := 0
  fin : Bool := false
  deriving DecidableEq, Repr

/-- A group of lanes at a SYNCM (R350): the membership mask, the lanes that have arrived, and where. -/
structure SyncGroup where
  mask : Lanes
  arrived : Lanes
  clause : Nat
  pos : Nat
  deriving DecidableEq, Repr

/-- The clause a gang is issuing (R81): its start, header fields, stall word, active set, and the position of
the current group (`first`) and of the next word (`next`).  A clause that RTE resumes has its header fetched again
(`refetch`) and its position checked (`check`) before it goes on (R390).  `pend` names the flags of its WAIT whose
reports are raised at body position 0 (R76).  `words` are those of the current group once they have been fetched: a group
that has issued and waits is not fetched again (R401); `prev` are those of the group before it. -/
structure Clause where
  addr : Nat := 0
  seta : Nat := 15
  setb : Nat := 15
  len : Nat := 0
  draw : Nat := 0
  pfq : Bool := false
  stall : Nat := 0
  staging : List Nat := []
  active : Lanes := 0
  first : Nat := 0
  next : Nat := 0
  pend : Nat := 0
  refetch : Bool := false
  check : Bool := false
  words : List Nat := []
  prev : List Nat := []
  deriving DecidableEq, Repr

/-- A prefix word that waits for its lane word (R85), and the literal of its C operand. -/
structure Latch where
  m : Nat := 0
  z : Nat := 0
  rm : Nat := 0
  nf : Nat := 0
  sat : Nat := 0
  c : Nat := 112
  lit : Nat := 0
  deriving DecidableEq, Repr

/-- The trap that a gang is about to take, or took last (R383, R386). -/
structure TrapInfo where
  cause : Nat
  addr : Word := 0
  mask : Lanes := 0
  clause : Nat := 0
  index : Nat := 0
  next : Nat := 0
  act : Lanes := 0
  stage2 : Bool := false
  write : Bool := false
  fetch : Bool := false
  pzn : Bool := false
  sword : Nat := 0
  deriving DecidableEq, Repr

/-- What holds a gang's next group (R63, R96, R332). -/
inductive Wait where
  | none
  | operand                       -- an operand or destination not yet available
  | slab                          -- a slab stall (R62)
  | flag                          -- a flag that counts 255 operations (R77)
  | queue                         -- a full matrix queue (R298)
  | grant (draw : Nat)            -- a Bellows grant not yet given (R410)
  | fetch (va : Nat)              -- a line not yet in L0 (R401)
  | clause (set : Nat)            -- a clause WAIT (R76)
  | fence                         -- earlier accesses not yet complete (R149)
  | lease                         -- the lease clock below P (R149)
  | inbound (upto : Nat)          -- inbound writes accepted before the fence (R149)
  | acks                          -- a hand-off that waits for acknowledgements (R155)
  | copy (h : Nat)                -- a COPY blocked on its handle (R199)
  | lutswap                       -- a LUTSWAP not ready (R289)
  | mfence (upto : Nat)           -- matrix operations issued before it to complete (R317)
  | bar (k phase : Nat)           -- BAR, arrived in this phase (R347)
  | barw (k above : Nat)          -- BARW, until the phase exceeds `above` (R347)
  | gbar (phase : Nat)            -- GBAR, arrived in this phase (R349)
  | syncm                         -- every live lane is sync-held (R331)
  | waitf (set : Nat)             -- WAITF (R352)
  | hwait (h : Nat)               -- HWAIT on a handle (R201)
  | hrel (h : Nat)                -- HREL on a filling handle (R202)
  | seqw (chain : Nat)            -- SEQW (R212)
  | waitch (child : Nat)          -- WAITCH (R354)
  | waitchAll (upto : Nat)        -- WAITCH.all (R354)
  | trap (t : TrapInfo)           -- a trap whose entry waits for earlier groups (R384)
  | rte                           -- an RTE that waits for earlier groups (R390)
  deriving DecidableEq, Repr

/-- A gang's part in the current arithmetic cycle (R38, R327, R328): not looked at yet, not ready or done, ready with a lane
group or with a uniform one, or issued a group that the next may pair with. -/
inductive Turn where
  | fresh
  | no
  | lane
  | uniform
  | pair
  deriving DecidableEq, Repr

/-- The trap frame that a handler reads (R384, R386, R392). -/
structure TrapFrame where
  cause : Nat := 0
  pos : Word := 0
  mask : Lanes := 0
  addr : Word := 0
  info : BitVec 32 := 0
  act : Lanes := 0
  pcv : Vector Word 32 := Vector.replicate 32 0
  scr : Vector Word 4 := Vector.replicate 4 0
  deriving DecidableEq, Repr

/-- The hidden part of the frame (R384). -/
structure Hidden where
  bp : List VReg := []
  pushes : Nat := 0
  yielding : Lanes := 0
  groups : List SyncGroup := []
  deriving DecidableEq, Repr

/-- Where a gang or a team is in its life (R42, R43, R326). -/
inductive Life where
  | resident
  | saved
  | retired
  deriving DecidableEq, Repr

/-- A clause whose header has been fetched, and the flags of its WAIT that the gang waits for (R76, R81, R401). -/
structure ClauseHeader where
  addr : Nat
  flags : Nat
  deriving DecidableEq, Repr

/-- A gang (R25, R47, R372).  `seenOp` is the operation before which those of its team stand before its later accesses, since its last
acquire, and `seenPend` the greatest completion time of theirs that it has yet to wait out (R152, R153); `header` is the one of
the clause whose WAIT holds it (R81); `began` says that the group at hand has issued, and waits: its stall code's successor counts from
then (R79). -/
structure Gang where
  team : Nat := 0
  gindex : Nat := 0
  slot : Nat := 0
  core : Nat := 0
  grid : Nat := 0
  ctx : Nat := 0
  part : Nat := 0
  level : Nat := 0
  life : Life := .resident
  live : Lanes := 0
  pcv : Vector Word 32 := Vector.replicate 32 0xFFFFFFFFFFFFFFFF
  yielding : Lanes := 0
  groups : List SyncGroup := []
  v : Vector VReg 96 := Vector.replicate 96 (.u 0)
  s : Vector Slot 256 := Vector.replicate 256 {}
  m : Vector Lanes 8 := Vector.replicate 8 0
  cf : Vector CFlag 12 := Vector.replicate 12 {}
  st : Vector StreamReg 8 := Vector.replicate 8 {}
  bp : List VReg := []
  pushes : Nat := 0
  xf : Vector Byte 32 := Vector.replicate 32 0
  ef : BitVec 16 := 0
  seed : Word := 0
  ctr : Word := 0
  va : Nat := 0
  pend : Option Nat := none
  fround : Nat := 0
  slip : Word := 0
  drawDefault : Nat := 0
  drawNow : Nat := 0
  chargedAt : Option Nat := none
  boostReq : Nat := 0
  floor : Nat := 0
  drawMax : Nat := 0
  frame : TrapFrame := {}
  hidden : Hidden := {}
  cl : Option Clause := none
  latch : Option Latch := none
  staged : List Nat := []
  wait : Wait := .none
  waitSince : Nat := 0
  turn : Turn := .fresh
  lastIssue : Option Nat := none
  age : Nat := 0
  lutReports : List Report := []
  redReports : List Report := []
  order : Nat := 0
  placedCyc : Nat := 0
  gridPhase : Nat := 0
  resumeTrap : Option TrapInfo := none
  seenOp : Nat := 0
  seenPend : Option Nat := none
  header : Option ClauseHeader := none
  began : Bool := false
  deriving DecidableEq, Repr

/-! ## Teams and what they own -/

/-- A team barrier (R346). -/
structure Barrier where
  phase : Nat := 0
  arrivals : Nat := 0
  target : Option Nat := none
  deriving DecidableEq, Repr

/-- An accumulator: its nonzero 32-bit cells in rising order, and its poison mark (R306). -/
structure Acc where
  cells : Tbl (BitVec 32) := []
  mark : Bool := false
  deriving DecidableEq, Repr

/-- The state of a buffer handle (R197). -/
inductive HandleState where
  | free
  | filling
  | full
  | draining
  deriving DecidableEq, Repr

/-- One gang's slice of a COPY round (R198). -/
structure Slice where
  gang : Nat
  gindex : Nat
  level : Nat
  glob : Nat
  len : Nat
  spoff : Nat
  op : Nat
  deriving DecidableEq, Repr

/-- A buffer handle (R197): its state, the gangs expected in the open round, the slices contributed, whether the
round is closed, the range, the write pointer, and the error with its address. -/
structure Handle where
  state : HandleState := .free
  isOpen : Bool := false
  closed : Bool := false
  expected : List Nat := []
  slices : List Slice := []
  lo : Nat := 0
  hi : Nat := 0
  ptr : Nat := 0
  moved : Nat := 0
  comp : Nat := 0
  err : Bool := false
  errAddr : Word := 0
  deriving DecidableEq, Repr

/-- Why a saved team may not be placed yet (R326): its wait, a ticket (R389), or the reforge that saved it and has not reached its
settle phase (R374). -/
inductive Wake where
  | ready
  | barrier (gridPhase : Nat)
  | child (ns : List Nat)
  | ticket (t : Nat)
  | reforge
  deriving DecidableEq, Repr

/-- Where a team is (R323, R326, R337). -/
inductive TeamLife where
  | queued
  | resident
  | saved
  | record
  | retired
  deriving DecidableEq, Repr

/-- A launch record's fields (R344). -/
structure LaunchRec where
  ver : Nat := 1
  queue : Nat := 0
  restart : Bool := false
  sup : Bool := false
  teams : Nat := 1
  entry : Nat := 0
  args : Word := 0
  threads : Nat := 32
  wfloor : Nat := 0
  accs : Nat := 0
  bars : Nat := 0
  handles : Nat := 0
  drawMax : Nat := 0
  spad : Nat := 0
  ef : BitVec 16 := 0
  lambda : Nat := 0
  seed : Word := 0
  reservedZero : Bool := true
  deriving DecidableEq, Repr

/-- Why a team's gangs have been stopped (R340, R341, R371, R434): to be saved with a wake condition, to be
flushed and start afresh, or to be discarded with its context. -/
inductive Stop where
  | save (w : Wake)
  | flush
  | discard
  deriving DecidableEq, Repr

/-- A team (R25, R47, R372).  `stopFrom` is the operation before which those stand that its gangs issued before they were stopped;
`oldChildren` are the grids that it launched before it was flushed and that have not retired (R43, R341). -/
structure Team where
  grid : Nat := 0
  num : Nat := 0
  ctx : Nat := 0
  part : Nat := 0
  core : Nat := 0
  life : TeamLife := .queued
  wake : Wake := .ready
  gangs : List Nat := []
  order : Nat := 0
  requeue : Nat := 0
  admitted : Nat := 0
  placedNs : Nat := 0
  headSince : Option Nat := none
  spadLen : Nat := 0
  spadBase : Nat := 0
  spad : Memory := {}
  accIdx : List Nat := []
  acc : Vector Acc 8 := Vector.replicate 8 {}
  barIdx : List Nat := []
  bars : Tbl Barrier := []
  hIdx : List Nat := []
  handles : Tbl Handle := []
  launches : Nat := 0
  children : Tbl Nat := []
  doneChildren : List Nat := []
  barDone : Nat := 0
  barFirst : Nat := 0
  barLast : Nat := 0
  token : Bool := false
  drainBy : Option Nat := none
  ember : Bool := false
  stopping : Option Stop := none
  stopFrom : Nat := 0
  oldChildren : List Nat := []
  deriving DecidableEq, Repr

/-- A grid (R25, R321, R349). -/
structure Grid where
  record : LaunchRec := {}
  ctx : Nat := 0
  part : Nat := 0
  depth : Nat := 0
  level : Nat := 0
  order : Nat := 0
  since : Nat := 0
  age : Nat := 0
  ageMark : Nat := 0
  headSince : Option Nat := none
  nextTeam : Nat := 0
  retiredTeams : Nat := 0
  failed : Bool := false
  retired : Bool := false
  phase : Nat := 0
  arrived : List Nat := []
  gone : List Nat := []
  sess : Option Nat := none
  number : Nat := 0
  parent : Option Nat := none
  child : Nat := 0
  ember : Option Nat := none
  lives : Nat := 0
  lifeSum : Nat := 0
  deriving DecidableEq, Repr

/-! ## Contexts and partitions -/



/-- A context (R356, R358, R372). -/
structure Ctx where
  num : Nat := 0
  part : Nat := 0
  ft : Tbl FtEntry := []
  gen : Nat := 1
  xftrap : Byte := 0
  leaselen : Nat := 1024
  swapthr : Nat := 50
  ptbase : Word := 0
  s2base : Word := 0
  tslice : Nat := 0
  featmask : BitVec 32 := 0xFFFFFFFF
  savebase : Word := 0
  savelen : Word := 0
  energy : Word := 0
  dlog : Word := 0
  tvec : Word := 0
  embers : Tbl LaunchRec := []
  admission : Word := 0
  job : Option Nat := none
  stopped : Bool := false
  deleting : Bool := false
  failed : Bool := false
  deriving DecidableEq, Repr

/-- A residency entry (R214). -/
structure ResEntry where
  ctx : Nat
  base : Nat
  len : Nat
  prio : Nat
  order : Nat
  moving : Bool := false
  deriving DecidableEq, Repr

/-- A reforge or fence under way (R374, R397); `was` is the slice run, its first slice and size, that the tick has ended. -/
structure ReforgeState where
  size : Nat
  first : Nat
  fenceUnit : Option Nat := none
  sess : Option Nat := none
  ticked : Bool := false
  stop : Bool := false
  was : Nat × Nat := (0, 0)
  deriving DecidableEq, Repr

/-- A partition (R364). -/
structure Part where
  tag : Nat := 1
  first : Nat := 0
  size : Nat := 1
  ladles : List Nat := []
  rho : Nat := 0
  ageCap : Nat := 256
  tokens : Nat := 4
  tokenQueue : List Nat := []
  resid : Tbl ResEntry := []
  start : Nat := 0
  reservation : Option (Nat × Nat) := none
  serr : Vector Word 4 := Vector.replicate 4 0
  version : Nat := 0
  window : Bool := false
  oldHome : Option (List Nat) := none
  reforge : Option ReforgeState := none
  fenceQueue : List Nat := []
  fencedL2 : List Nat := []
  stopped : Bool := false
  grids : Nat := 0
  idleEnergy : Nat := 0
  synthUnits : Nat := 0
  usefulUnits : Nat := 0
  synthMark : Nat := 0
  usefulMark : Nat := 0
  energy : Nat := 0
  pmin : Option Nat := none
  pmax : Option Nat := none
  shares : Tbl (Tbl Nat) := []
  shareEvent : Bool := false
  endedEvent : Bool := false
  hallSeq : Nat := 0
  emberTurn : Nat := 0
  tickets : Nat := 0
  deriving DecidableEq, Repr

/-! ## Cores, clusters, rails -/

/-- A translation held by a TLB (R361, R363): the page, its permissions at both stages, its leaves, and the size of its
stage-2 page (R381). -/
structure TlbEntry where
  ctx : Nat
  va : Nat
  lg : Nat
  pa : Nat
  ia : Nat
  r : Bool
  w : Bool
  x : Bool
  user : Bool
  shared : Bool
  leaf1 : Nat
  leaf2 : Option Nat
  d1 : Bool
  d2 : Bool
  r1 : Bool
  w1 : Bool
  x1 : Bool
  lg2 : Nat := 16
  shared1 : Bool := true
  deriving DecidableEq, Repr

/-- An entry for an intermediate level held by a TLB (R165): in walks of a context's stage from a root, the table of
level `level` for the addresses with these upper bits. (Log entry 25, DEDUCED.) -/
structure MidEntry where
  ctx : Nat
  stage2 : Bool
  root : Nat
  level : Nat
  tag : Nat
  table : Nat
  deriving DecidableEq, Repr

/-- A leased line of L1 (R140): its context, line number, bytes, grant time and expiry, and the accesses of atomics
(operation and position) that were performed while it was held and have not been acknowledged: it takes their bytes
then (R154). -/
structure L1Line where
  ctx : Nat
  line : Nat
  data : Memory
  grant : Nat
  expiry : Nat
  owes : List (Nat × Nat) := []
  deriving DecidableEq, Repr

/-- A 64-byte line of an instruction cache, by physical address / 64 (R401). -/
structure ILine where
  line : Nat
  bytes : List Byte
  deriving DecidableEq, Repr

/-- An instruction-line request in flight (R402): its virtual address / 64, the context and level that
translate it, whether a demand waits on it, whether its walk is still to come, and then its physical line and whether
its frame is shared (R367). -/
structure FetchReq where
  va : Nat
  ctx : Nat
  level : Nat
  demand : Option Nat
  walk : Bool
  pa : Nat := 0
  shared : Bool := true
  deriving DecidableEq, Repr

/-- The function tables of a context on a core (R287): two banks and the active one. -/
structure Luts where
  bank0 : Memory := {}
  bank1 : Memory := {}
  sel : Nat := 0
  deriving DecidableEq, Repr

/-- A context's slice clock on a core (R370): the lease-clock time counted so far, and when it last began to run. -/
structure SliceClock where
  count : Nat := 0
  since : Option Nat := none
  deriving DecidableEq, Repr

/-- A core (R15).  `laneWon` and `uniWon` are the gangs that issued into its lane slot and its uniform slot in the current
cycle (R328), and `stuckSince` is the cycle since which R63's condition has held. -/
structure Core where
  l1 : List L1Line := []
  tlb : List TlbEntry := []
  mid : List MidEntry := []
  l0 : List ILine := []
  freq : List FetchReq := []
  luts : Tbl Luts := []
  leftSpad : Memory := {}
  spadOwner : Tbl Nat := []
  leftAcc : Tbl (Nat × Acc) := []
  leftBar : Tbl (Nat × Barrier) := []
  leftHandle : Tbl (Nat × Handle) := []
  level : Nat := 0
  needSince : Option (Nat × Nat) := none
  excessSince : Option (Nat × Nat) := none
  overSince : Option Nat := none
  underSince : Option Nat := none
  candidate : Bool := false
  lastLane : Option Nat := none
  lastUniform : Option Nat := none
  laneWon : Option Nat := none
  uniWon : Option Nat := none
  stuckSince : Option Nat := none
  slices : Tbl SliceClock := []
  pipes : Vector Bool 4 := Vector.replicate 4 false
  fenced : Bool := false
  deriving DecidableEq, Repr

/-- A cluster (R13, R419, R420). -/
structure Cluster where
  tlb : List TlbEntry := []
  mid : List MidEntry := []
  ic : List ILine := []
  permits : Nat := 64
  level : Nat := 0
  ranHigh : Bool := false
  busy : Bool := false
  stretched : Option Nat := none
  droops : Nat := 0
  occ : Tbl Nat := []
  acctCyc : Nat := 0
  acctAt : Nat := 0
  deriving DecidableEq, Repr

/-- A slice rail (R405, R411). -/
structure Rail where
  step : Nat := 0
  floor : Nat := 0
  cap : Nat := 512
  startRho : Option (Nat × Nat) := none
  gbarRho : List (Nat × Nat × Nat) := []
  events : Nat := 0
  coalAt : Nat := 0
  last : Option Nat := none
  deriving DecidableEq, Repr

/-! ## Operations in flight -/

/-- Where an operation's result goes. -/
inductive Dst where
  | nowhere
  | vec (d : Nat) (e : Lanes)
  | scl (d : Nat)
  deriving DecidableEq, Repr

/-- One byte of a store: its address, the bits written and their values. -/
structure Piece where
  addr : Nat
  mask : Byte := 0xFF
  byte : Byte := 0
  deriving DecidableEq, Repr

/-- The elements of an operand layout that a lane of PLLD reads (R310): the entry, the layout's K, rows and offset,
the linear index of the lane's element 0, and the elements in a lane. -/
structure PlaneRef where
  ent : FtEntry
  k : Nat
  rho : Nat
  base : Nat
  start : Nat
  e : Nat
  deriving DecidableEq, Repr

/-- The leaves whose D bit a write through a page must find set (R362): a virtual address in the page, its leaves of
stage 1 and stage 2 (those whose D the translation read as 0), the stage-2 page's intermediate address and size, and the SH of the
leaf through which the stage-1 leaf is reached (R367). -/
structure DRef where
  va : Nat
  leaf1 : Option Nat
  leaf2 : Option Nat
  ia : Nat
  lg : Nat
  shared1 : Bool := true
  deriving DecidableEq, Repr

/-- One access of an operation (R138, R147): the lane, the virtual address or scratchpad offset, the physical
address or scratchpad offset, the width, what a store writes, an atomic's operands, the leaves whose D bits the
write must set, and, once performed, the value returned and the completion time. -/
structure Item where
  lane : Nat := 0
  va : Nat := 0
  pa : Nat := 0
  w : Nat := 8
  pieces : List Piece := []
  x : Word := 0
  cmp : Word := 0
  shared : Bool := true
  dirt : List DRef := []
  done : Bool := false
  res : Option Slot := none
  comp : Nat := 0
  flags : Byte := 0
  after : Memory := {}
  plane : Option PlaneRef := none
  deriving DecidableEq, Repr

/-- The operation of an atomic (R185, R187, R190). -/
inductive AtomOp where
  | add | min | max | minu | maxu | and | or | xor | xchg | cas
  | fadd | fmin | fmax
  deriving DecidableEq, Repr

/-- A matrix operation (R296). -/
inductive MatKind where
  | mma (accum : Bool)
  | mld
  | mst (c : Nat) (convert : Bool)
  | mzero
  | mrd (d : Nat) (e : Lanes) (first c : Nat) (convert : Bool)
  | qmax (d : Nat)
  | qcvt
  deriving DecidableEq, Repr

/-- What a matrix operation captured at issue (R303, R307, R309, R312). -/
structure MatOp where
  kind : MatKind
  acc : Nat := 0
  shape : Nat := 0
  offA : Nat := 0
  offB : Nat := 0
  ae : FtEntry := {}
  be : FtEntry := {}
  ce : FtEntry := {}
  oute : FtEntry := {}
  asm : Nat := 0
  bsm : Nat := 0
  blk : Nat := 0
  ascale : Word := 0
  bscale : Word := 0
  mode : Nat := 1
  sat : Bool := false
  seed : Word := 0
  ctr : Word := 0
  draw : Nat := 0
  deriving DecidableEq, Repr

/-- What an operation in flight is. -/
inductive OpKind where
  | load (dst : Dst) (t : Nat) (spad : Bool)
  | store (spad : Bool)
  | atomic (op : AtomOp) (w : Nat) (dst : Dst) (fmt : FtEntry) (mode : Nat) (nf : Bool)
  | red (op : AtomOp) (w : Nat)
  | sfu (d : Nat) (fin : Option VReg) (flags : Vector Byte 32) (bank : Option Nat)
  | xfc (d : Nat) (fin : Option VReg)
  | matrix (m : MatOp)
  | lutld (bank : Nat) (image : Memory) (bad : Bool) (addr : Word)
  | prefetch
  | copy (h : Nat)
  | chapp (chain card : Nat)
  | demote (idx tier : Nat)
  deriving DecidableEq, Repr

/-- An operation in flight: its gang, the flag it is attached to (15 none), and its accesses. -/
structure Op where
  id : Nat
  gang : Nat
  team : Nat
  core : Nat
  ctx : Nat
  flag : Nat := 15
  kind : OpKind
  items : List Item := []
  deriving DecidableEq, Repr

/-! ## Ladles -/

/-- A byte range of a job card (R157, R207). -/
structure Region where
  base : Nat
  len : Nat
  deriving DecidableEq, Repr

/-- A shape record (R209). -/
structure ShapeRec where
  esize : Nat := 0
  strides : List Int := []
  extents : List Nat := []
  index : Nat := 0
  deriving DecidableEq, Repr

/-- A card that CHAPP has appended and no ladle has accepted (R158, R205): its sequence number, the level and gang of the
CHAPP, the operation that its flag waits on, whether the card stands on live chains twice, and, of one that a fenced ladle has
given back (R397), the job it was. -/
structure Card where
  card : Nat
  seq : Nat := 0
  level : Nat := 0
  gang : Nat := 0
  op : Nat := 0
  twice : Bool := false
  job : Option Nat := none
  deriving DecidableEq, Repr

/-- A ladle job (R206 to R211); `back` says that a fenced ladle has given its card back, and that it waits to be accepted again
(R397). -/
structure Job where
  id : Nat
  ctx : Nat
  chain : Nat
  card : Nat
  seq : Nat
  ladle : Nat := 0
  level : Nat := 0
  kind : Nat := 0
  peer : Nat := 0xFFFFFFFF
  op : Nat := 0
  fmt : FtEntry := {}
  reads : List Region := []
  writes : List Region := []
  shape : Option ShapeRec := none
  invalid : Option Nat := none
  deps : List Nat := []
  given : Card := { card := 0 }
  made : Nat := 0
  started : Bool := false
  back : Bool := false
  status : Option Nat := none
  comp : Nat := 0
  deriving DecidableEq, Repr

/-- A chain that CHAPP has used (R204): its context and block address, the cards waiting on it, and the sequence
numbers ended but not yet covered by DONE, each with its completion time. -/
structure Chain where
  ctx : Nat
  addr : Nat
  cards : List Card := []
  ended : List (Nat × Nat) := []
  done : Nat := 0
  deriving DecidableEq, Repr

/-! ## Endpoint -/

/-- A session (R432, R433): the commands it holds back each stand with the key that tells which inbound writes came
before (R436). -/
structure Session where
  src : Nat := 0
  role : Nat := 2
  tag : Nat := 0
  ctx : Nat := 0
  isOpen : Bool := true
  mismatch : Bool := false
  events : Nat := 0
  deferred : List (Nat × Msg) := []
  deriving DecidableEq, Repr

/-- An access accepted from outside (R163, R436, R437): a WRITE of a session, or a peer's job.  It holds the context it
targets, the order it keeps (the flow it came on, when that is ordered), its accesses, whether they are performed, their
completion time, and the answer. -/
structure Inbound where
  id : Nat
  ctx : Nat
  part : Nat
  sess : Option Nat := none
  seq : Nat := 0
  ordered : Bool := true
  flow : Nat := 0
  peer : Option PeerJob := none
  items : List Item := []
  performed : Bool := false
  comp : Nat := 0
  status : Nat := 0
  answer : List Byte := []
  deriving DecidableEq, Repr

/-- Something the device sends (R432, R435, R437, R442). -/
inductive Out where
  | reply (sess ver op seq status : Nat) (body : List Byte)
  | event (sess ver op seq : Nat) (body : List Byte)
  | hallmark (tag : Nat) (source : Nat × Nat) (sentTo : Option (Nat × Nat)) (body : List Byte)
  | peerRequest (device job kind op : Nat) (fmt : FtEntry) (addr len : Nat) (data : List Byte)
  | peerAnswer (port status : Nat) (data : List Byte)
  deriving DecidableEq, Repr

/-- The owner tag of a 64 KiB frame (R367); a frame not listed has none. -/
inductive Owner where
  | shared
  | ctx (c : Nat)
  deriving DecidableEq, Repr

/-- A context's saved image (R372, R378). -/
structure CtxImage where
  feature : Word
  ctx : Ctx
  grids : Tbl Grid
  teams : Tbl Team
  gangs : Tbl Gang
  deriving DecidableEq, Repr

/-- A thermal or supply action in force (R422, R443). -/
structure Thermal where
  temps : Vector Nat 12 := Vector.replicate 12 0
  warm : Vector Bool 12 := Vector.replicate 12 false
  hot : Vector Bool 12 := Vector.replicate 12 false
  deriving DecidableEq, Repr

/-- The firmware store of the ROM and Hearth (R398): the fused key and counter, the counter of the image in force, the parts of a
new one, the one delivered for this stage 0, the wait before the next attempt to fetch, and whether the image passes its
self-checks of stage 3. -/
structure Firmware where
  fusedKey : Nat := 0
  fusedCounter : Nat := 0
  held : Option Nat := none
  parts : Tbl Byte := []
  total : Option Nat := none
  stored : Bool := false
  delivered : Option (Tbl Byte) := none
  backoff : Nat := 1
  retryAt : Nat := 0
  sound : Bool := true
  deriving DecidableEq, Repr

/-- The whole device. -/
structure Device where
  stepping : Nat := 0
  stage : Nat := 0
  powered : Bool := true
  coolantBad : Bool := false
  coolantSince : Nat := 0
  coolantHold : Bool := false
  throttled : Bool := false
  locked : Bool := false
  everLocked : Bool := false
  holdover : Bool := false
  mgmt : Nat := 0
  site : Site := {}
  fw : Firmware := {}
  rise : Nat := 2
  fall : Nat := 2
  railCap : Nat := 128
  slew : Nat := 50
  therm : Thermal := {}
  fenced : List Nat := []
  healthy : List Nat := []
  windows : List Window := []
  hallSeq : Nat := 0
  endedEvent : Bool := false
  energy : Nat := 0
  pmin : Option Nat := none
  pmax : Option Nat := none
  samples : Nat := 0
  sampleSum : Nat := 0
  stage0At : Nat := 0
  hallNext : Nat := 1000000
  sampleAt : Nat := 0
  windowAt : Nat := 0
  hotAt : Tbl Nat := []
  softUnits : Tbl (Vector Nat 4) := []
  softRecent : Tbl (List (Nat × Nat)) := []
  deriving DecidableEq, Repr

/-- What the scheduler does next: choose the issuing gang, issue from it, or let a device step come about
(log entry 1, DESIGN CHOICE). -/
inductive Phase where
  | select
  | issue
  | events
  deriving DecidableEq, Repr

/-- The state of the machine. -/
structure State where
  agenda : List Instr := []
  phase : Phase := .select
  cur : Nat := 0
  pace : Nat := 1
  ns : Nat := 0
  cyc : Nat := 0
  ptp : Nat := 0
  freeCtr : Nat := 0
  nextKey : Nat := 1
  nextOp : Nat := 0
  nextOrder : Nat := 0
  dev : Device := {}
  mem : Memory := {}
  owners : Tbl Owner := []
  lineG : Tbl Nat := []
  bankMark : Tbl Nat := []
  parts : Tbl Part := []
  ctxs : Tbl Ctx := []
  grids : Tbl Grid := []
  teams : Tbl Team := []
  gangs : Tbl Gang := []
  cores : Tbl Core := []
  clusters : Tbl Cluster := []
  rails : Tbl Rail := []
  ops : List Op := []
  jobs : List Job := []
  chains : Tbl Chain := []
  inbound : List Inbound := []
  sessions : Tbl Session := []
  images : Tbl CtxImage := []
  out : List Out := []
  deriving DecidableEq, Repr

/-- The machine right after reset: stage 0 (R400), with the ramp table's stage-0 values (R407), the time base
counting from 0 and not locked (R441), device number 0xF_FFFF (R431), and no partition, context, grid, team or
gang.  Every field stands at its default above; the values the manual does not state are those of log entry 3, DESIGN CHOICE. -/
def State.reset : State := {}

end Sys2Proof.Machine
end

