-- ==== Sys2Proof/Machine/Format.lean ====
section
/-! DEFINITION. Format-table entries (R218 to R224), what their codes mean (R221, R222), and the one rounding
into an entry (R226, R228, R230), with the sticky flags it raises (R235). -/

namespace Sys2Proof.Machine

/-! The sticky flags (R51). -/

/-- No flag. -/
def fNone : Byte := 0
/-- Invalid operation. -/
def fNV : Byte := 0x01
/-- Divide by zero. -/
def fDZ : Byte := 0x02
/-- Overflow. -/
def fOF : Byte := 0x04
/-- Underflow. -/
def fUF : Byte := 0x08
/-- Inexact. -/
def fNX : Byte := 0x10
/-- Format saturation. -/
def fFS : Byte := 0x20
/-- Codebook clamp. -/
def fCC : Byte := 0x40
/-- Invalid weight. -/
def fIW : Byte := 0x80

/-- Bits `hi:lo` of a 64-bit value. -/
def bits (x : Word) (hi lo : Nat) : Nat := fld x.toNat hi lo

/-- The low `w` bits of a number read as two's complement. -/
def signedOf (w n : Nat) : Int :=
  let m := n % 2 ^ w
  if 2 ^ (w - 1) ≤ m then (m : Int) - (2 ^ w : Nat) else m

/-- A format-table entry's fields (R220). -/
structure Fmt where
  valid : Bool
  kind : Nat
  spec : Nat
  subn : Nat
  width : Nat
  s : Nat
  ew : Nat
  fw : Nat
  bias : Int
  levels : List Int
  deriving DecidableEq, Repr

/-- Byte `i` of a 64-bit value. -/
def byteOf (x : Word) (i : Nat) : Nat := fld x.toNat (8 * i + 7) (8 * i)

/-- The sixteen levels of an entry (R219). -/
def FtEntry.levels (e : FtEntry) : List Int :=
  (List.range 16).map fun i => signedOf 8 (if i < 8 then byteOf e.w1 i else byteOf e.w2 (i - 8))

/-- The fields of an entry (R220). -/
def FtEntry.fmt (e : FtEntry) : Fmt :=
  { valid := bits e.w0 63 63 == 1, kind := bits e.w0 62 60, spec := bits e.w0 59 58, subn := bits e.w0 57 56,
    width := bits e.w0 55 50 + 1, s := bits e.w0 49 49, ew := bits e.w0 48 45, fw := bits e.w0 44 39,
    bias := signedOf 16 (bits e.w0 38 23), levels := if bits e.w0 62 60 = 3 then e.levels else [] }

/-- The invalid entry: every bit zero (R223). -/
def FtEntry.isZero (e : FtEntry) : Bool := e.w0 == 0 && e.w1 == 0 && e.w2 == 0 && e.w3 == 0

/-- The least stored integer of an integer or fixed-point entry (R221). -/
def Fmt.lo (f : Fmt) : Int := if f.s = 1 then -((2 ^ (f.width - 1) : Nat) : Int) else 0
/-- The greatest stored integer of an integer or fixed-point entry (R221). -/
def Fmt.hi (f : Fmt) : Int :=
  if f.s = 1 then ((2 ^ (f.width - 1) : Nat) : Int) - 1 else ((2 ^ f.width : Nat) : Int) - 1

/-- A list of levels is strictly ascending and within -127 to 127 (R223). -/
def levelsOk : List Int → Bool
  | [] => true
  | [a] => decide (-127 ≤ a) && decide (a ≤ 127)
  | a :: b :: r => decide (-127 ≤ a) && decide (a < b) && levelsOk (b :: r)

/-- The line of R223 that an entry's kind must obey. -/
def Fmt.kindOk (f : Fmt) : Bool :=
  match f.kind with
  | 0 =>
    decide (1 ≤ f.ew) && decide (f.ew ≤ 11) && decide (f.s + f.ew + f.fw = f.width) && decide (f.width ≤ 32) &&
    decide (-4095 ≤ f.bias) && decide (f.bias ≤ 4095) && decide (f.subn ≤ 2) && decide (f.fw ≤ 52) &&
    (if f.spec = 0 then decide (2 ≤ f.ew) && decide (1 ≤ f.fw) else true) &&
    (if f.spec = 1 ∨ f.spec = 3 then decide (2 ≤ f.ew + f.fw) else true) &&
    (if f.subn = 2 then decide (f.fw = 0) else true)
  | 1 =>
    decide (f.ew = 0) && decide (f.fw = 0) && decide (f.spec = 2) && decide (f.subn = 0) && decide (f.width ≤ 32) &&
    (if f.s = 1 then decide (2 ≤ f.width) else true) && decide (f.lo ≤ f.bias) && decide (f.bias ≤ f.hi)
  | 2 =>
    decide (f.ew = 0) && decide (f.fw + f.s ≤ f.width) && decide (f.spec = 2) && decide (f.subn = 0) &&
    decide (2 ≤ f.width) && decide (f.width ≤ 32) && decide (f.lo ≤ f.bias) && decide (f.bias ≤ f.hi)
  | 3 =>
    decide (f.width = 4) && decide (f.s = 0) && decide (f.ew = 0) && decide (f.fw = 0) && decide (f.spec = 2) &&
    decide (f.subn = 0) && decide (f.bias = 0) && levelsOk f.levels
  | _ => false

/-- An entry is consistent (R223). (Log entry 20, DEDUCED.) -/
def FtEntry.consistent (e : FtEntry) : Bool :=
  e.fmt.valid && bits e.w0 22 0 == 0 && e.w3 == 0 && (e.fmt.kind == 3 || (e.w1 == 0 && e.w2 == 0)) && e.fmt.kindOk

/-- A descriptor word from its fields (R220). -/
def descOf (kind spec subn width s ew fw bias : Nat) : Word :=
  BitVec.ofNat 64 (2 ^ 63 + kind * 2 ^ 60 + spec * 2 ^ 58 + subn * 2 ^ 56 + (width - 1) * 2 ^ 50 + s * 2 ^ 49 +
    ew * 2 ^ 45 + fw * 2 ^ 39 + bias * 2 ^ 23)

/-- The fixed entries ft0 to ft15 (R224). -/
def fixedEntry : Nat → FtEntry
  | 0 => { w0 := descOf 0 0 0 64 1 11 52 1023 }
  | 1 => { w0 := descOf 0 0 0 32 1 8 23 127 }
  | 2 => { w0 := descOf 0 0 0 16 1 5 10 15 }
  | 3 => { w0 := descOf 0 0 0 16 1 8 7 127 }
  | 4 => { w0 := descOf 0 1 0 8 1 4 3 7 }
  | 5 => { w0 := descOf 0 0 0 8 1 5 2 15 }
  | 6 => { w0 := descOf 0 2 0 6 1 3 2 3 }
  | 7 => { w0 := descOf 0 2 0 4 1 2 1 1 }
  | 8 => { w0 := descOf 1 2 0 8 1 0 0 0 }
  | 9 => { w0 := descOf 1 2 0 8 0 0 0 0 }
  | 10 => { w0 := descOf 1 2 0 4 1 0 0 0 }
  | 11 => { w0 := descOf 1 2 0 2 1 0 0 0 }
  | 12 => { w0 := descOf 3 2 0 4 0 0 0 0, w1 := 0x00F4E9DDCFBDA581, w2 := 0x7F604B3B2D21160B }
  | 13 => { w0 := descOf 0 1 2 8 0 8 0 127 }
  | 14 => { w0 := descOf 1 2 0 32 1 0 0 0 }
  | 15 => { w0 := descOf 1 2 0 64 1 0 0 0 }
  | _ => {}

/-- An entry that a word may name: a consistent one, or one of the fixed entries that exceed R223's width (R224).
(Log entry 20, DEDUCED.) -/
def FtEntry.usable (e : FtEntry) : Bool := e.consistent || e == fixedEntry 0 || e == fixedEntry 15

/-- The entry F32 (ft1). -/
def fmtF32 : Fmt := (fixedEntry 1).fmt
/-- The entry F64 (ft0). -/
def fmtF64 : Fmt := (fixedEntry 0).fmt

/-- The least exponent of a float entry (R221). -/
def Fmt.emin (f : Fmt) : Int := if f.subn = 2 then -f.bias else 1 - f.bias

/-- Every exponent bit one. -/
def Fmt.emax (f : Fmt) : Nat := 2 ^ f.ew - 1

/-- A float code from its sign, exponent field and fraction field. -/
def Fmt.code (f : Fmt) (neg : Bool) (e m : Nat) : Nat :=
  (if neg && f.s == 1 then 2 ^ (f.ew + f.fw) else 0) + e * 2 ^ f.fw + m

/-- A codebook's level, as the value that enters the intermediate (R221, R225). -/
def levelValue (i : Int) : Num := Num.roundBits 64 (Num.ofFrac i 127 0 false)

/-- The NaN or infinity that SPEC reserves a float code for (R222). -/
def Fmt.reserved (f : Fmt) (neg : Bool) (e m : Nat) : Option Num :=
  if f.spec = 0 ∧ e = f.emax then
    some (if m = 0 then .inf neg else .nan (decide (m < 2 ^ (f.fw - 1))))
  else if (f.spec = 1 ∨ f.spec = 3) ∧ e = f.emax ∧ m = 2 ^ f.fw - 1 then some (.nan false)
  else none

/-- The finite value of a float's sign, exponent field and fraction field, with the hidden bit given (R221, R300). -/
def Fmt.floatValue (f : Fmt) (neg : Bool) (e m hidden : Nat) : Num :=
  if f.subn = 1 ∧ e = 0 then .zero neg
  else
    let e' : Int := if e > 0 ∨ f.subn = 2 then e else 1
    .fin neg (hidden * 2 ^ f.fw + m) 1 (e' - f.bias - f.fw)

/-- The value of a code of an entry (R221). -/
def Fmt.value (f : Fmt) (c : Nat) : Num :=
  match f.kind with
  | 0 =>
    let neg := f.s == 1 && fld c (f.ew + f.fw) (f.ew + f.fw) == 1
    let e := c / 2 ^ f.fw % 2 ^ f.ew
    let m := c % 2 ^ f.fw
    match f.reserved neg e m with
    | some v => v
    | none => f.floatValue neg e m (if e > 0 ∨ f.subn = 2 then 1 else 0)
  | 1 => .ofInt ((if f.s = 1 then signedOf f.width c else (c % 2 ^ f.width : Nat)) - f.bias)
  | 2 => Num.scale2 (-f.fw) (.ofInt ((if f.s = 1 then signedOf f.width c else (c % 2 ^ f.width : Nat)) - f.bias))
  | _ => levelValue (f.levels.getD (c % 16) 0)

/-- The code of the largest finite magnitude (R222). -/
def Fmt.maxCode (f : Fmt) (neg : Bool) : Nat :=
  if f.spec = 0 then f.code neg (f.emax - 1) (2 ^ f.fw - 1)
  else if f.spec = 2 then f.code neg f.emax (2 ^ f.fw - 1)
  else if f.fw = 0 then f.code neg (f.emax - 1) 0
  else f.code neg f.emax (2 ^ f.fw - 2)

/-- The largest finite magnitude (R221, R222). -/
def Fmt.maxf (f : Fmt) : Num := (f.value (f.maxCode false)).abs

/-- The canonical NaN of a float entry; none under SPEC 2 (R222). -/
def Fmt.nanCode (f : Fmt) : Option Nat :=
  if f.spec = 0 then some (f.code false f.emax (2 ^ (f.fw - 1)))
  else if f.spec = 2 then none
  else some (f.code false f.emax (2 ^ f.fw - 1))

/-- A code and the flags of the rounding that gave it. -/
abbrev Rounded := Nat × Byte

/-- The canonical NaN, or +0 with NV when the entry has none (R226): the code 0 where the entry has no zero either.
(Log entry 67, DESIGN CHOICE.) -/
def Fmt.deliverNan (f : Fmt) (flags : Byte) : Rounded :=
  match f.nanCode with
  | some c => (c, flags)
  | none => (f.code false 0 0, flags ||| fNV)

/-- The result of an overflow or of an infinity that the entry cannot hold (R222, R226, R228). (Log entry 19, DEDUCED.) -/
def Fmt.overflow (f : Fmt) (neg : Bool) (mode : Mode) (sat : Bool) : Rounded :=
  if sat || f.spec == 2 then (f.maxCode neg, fFS ||| fNX)
  else if f.spec = 0 then
    let toMax := match mode with
      | .rtz => true
      | .rup => neg
      | .rdn => !neg
      | _ => false
    (if toMax then f.maxCode neg else f.code neg f.emax 0, fOF ||| fNX)
  else ((f.nanCode).getD 0, fOF ||| fNX)

/-- Round an exact value into a float entry (R226); -infinity into an unsigned entry takes the branch S = 0 of its pseudocode.
(Log entry 67, DESIGN CHOICE.) -/
def Fmt.roundFloat (f : Fmt) (v : Num) (mode : Mode) (sat : Bool) : Rounded :=
  match v with
  | .nan sig => f.deliverNan (if sig then fNV else fNone)
  | .inf neg =>
    if f.s = 0 ∧ neg then f.deliverNan fNV
    else if f.spec = 0 ∧ !sat then (f.code neg f.emax 0, fNone)
    else f.overflow neg mode sat
  | .fin neg n d e =>
    if n = 0 then
      (if f.subn = 2 then (f.code neg 0 0, fNV) else (f.code neg 0 0, fNone))
    else if f.s = 0 ∧ neg then f.deliverNan fNV
    else
      let q := max (floorLog2 n d + e) f.emin - f.fw
      let nd := scaled n d (e - q)
      let y := roundMag neg nd.1 nd.2 mode
      let exact := y * nd.2 == nd.1
      let tiny := decide (floorLog2 n d + e < f.emin)
      if Num.lt f.maxf (.fin false y 1 q) then f.overflow neg mode sat
      else if f.subn = 2 ∧ y = 0 then (f.code neg 0 0, fUF ||| fNX)
      else if f.subn = 1 ∧ 0 < y ∧ y < 2 ^ f.fw then (f.code neg 0 0, fUF ||| fNX)
      else
        let flags := (if exact then fNone else fNX) ||| (if tiny && !exact then fUF else fNone)
        if y < 2 ^ f.fw then (f.code neg 0 y, flags)
        else if y = 2 ^ (f.fw + 1) then (f.code neg (q + f.fw + f.bias + 1).toNat 0, flags)
        else (f.code neg (q + f.fw + f.bias).toNat (y - 2 ^ f.fw), flags)

/-- Round an exact value into an integer or fixed-point entry (R226). -/
def Fmt.roundInt (f : Fmt) (v : Num) (mode : Mode) : Rounded :=
  let put (n : Int) : Nat := (n % (2 ^ f.width : Nat)).toNat
  match v with
  | .nan _ => (put f.bias, fNV)
  | .inf neg => (put (if neg then f.lo else f.hi), fFS ||| fNX)
  | .fin .. =>
    match Num.add false (Num.scale2 f.fw v) (.ofInt f.bias) with
    | .fin s n d e =>
      let nd := scaled n d e
      let y := Num.signed s (roundMag s nd.1 nd.2 mode)
      if f.hi < y then (put f.hi, fFS ||| fNX)
      else if y < f.lo then (put f.lo, fFS ||| fNX)
      else (put y, if y.natAbs * nd.2 = nd.1 then fNone else fNX)
    | _ => (put f.bias, fNV)

/-- The index of the level of least magnitude, the lower on a tie (R230). -/
def leastLevel (ls : List Num) : Nat :=
  ((List.range ls.length).foldl (fun (best : Nat × Num) i =>
    let v := (ls.getD i (.zero false)).abs
    if Num.lt v best.2 then (i, v) else best) (0, (ls.getD 0 (.zero false)).abs)).1

/-- Choose a level's index for a value (R230); `ls` are the levels, ascending, at the block's scale. -/
def chooseLevel (ls : List Num) (v : Num) (mode : Mode) : Rounded :=
  let lv (i : Nat) : Num := ls.getD i (.zero false)
  match v with
  | .nan _ => (leastLevel ls, fNV)
  | _ =>
    if Num.lt v (lv 0) then (0, fCC ||| fNX)
    else if Num.lt (lv 15) v then (15, fCC ||| fNX)
    else
      let i := ((List.range 16).filter fun i => Num.le (lv i) v).length - 1
      if Num.eqv (lv i) v then (i, fNone)
      else
        let lo := lv i
        let hi := lv (i + 1)
        let up := Num.add false v lo.neg
        let down := Num.add false hi v.neg
        let toLow : Bool :=
          match mode with
          | .rne => match Num.cmp up down with
            | .lt => true
            | .gt => false
            | .eq => i % 2 == 0
          | .rtz => !v.sign
          | .rup => false
          | .rdn => true
          | .stoch r =>
            let neg := v.sign
            match Num.div (if neg then down else up) (Num.add false hi lo.neg) with
            | .fin _ n d e =>
              let nd := scaled n d e
              let moved := decide (r < nd.1 * 4294967296 / nd.2)
              if neg then moved else !moved
            | _ => true
        (if toLow then i else i + 1, fNX)

/-- Round an exact value into an entry (R226, R228, R230). -/
def Fmt.round (f : Fmt) (v : Num) (mode : Mode) (sat : Bool) : Rounded :=
  match f.kind with
  | 0 => f.roundFloat v mode sat
  | 3 => chooseLevel (f.levels.map levelValue) v mode
  | _ => f.roundInt v mode

/-- Convert a code between entries through the exact intermediate, rounding once (R226). -/
def convert (c : Nat) (src dst : Fmt) (mode : Mode) (sat : Bool) : Rounded :=
  let v := src.value c
  let r := dst.round v mode sat
  (r.1, if v.isSig then r.2 ||| fNV else r.2)

/-- A binary32 code's value. -/
def f32 (c : Nat) : Num := fmtF32.value c
/-- Round to binary32 to nearest even, without flags. -/
def toF32 (v : Num) : Nat := (fmtF32.round v .rne false).1

end Sys2Proof.Machine
end

