-- ==== Sys2Proof/Machine/Base.lean ====
section
/-! DEFINITION. The plain operations everything else is written in: sparse tables, bytes of memory with poison
(R8, R175), little-endian values, and the accessors of the state's records. -/

namespace Sys2Proof.Machine

/-! ## Sparse tables -/

/-- The entry of a key, if listed. -/
def tget? {α : Type} : Tbl α → Nat → Option α
  | [], _ => none
  | (k, v) :: r, i => if k = i then some v else tget? r i

/-- The entry of a key, or a default. -/
def tget {α : Type} (t : Tbl α) (i : Nat) (d : α) : α :=
  match tget? t i with
  | some v => v
  | none => d

/-- Set the entry of a key, keeping the keys in rising order. -/
def tput {α : Type} : Tbl α → Nat → α → Tbl α
  | [], i, v => [(i, v)]
  | (k, x) :: r, i, v =>
    if i < k then (i, v) :: (k, x) :: r else if i = k then (i, v) :: r else (k, x) :: tput r i v

/-- Remove a key. -/
def tdel {α : Type} (t : Tbl α) (i : Nat) : Tbl α := t.filter fun e => !(e.1 == i)

/-- The smallest key not listed, counting from `from`. -/
def firstFree {α : Type} (t : Tbl α) (lo n : Nat) : Option Nat :=
  ((List.range n).map (lo + ·)).find? fun i => (tget? t i).isNone

/-! ## Bytes -/

/-- The byte listed at an address; an unlisted byte reads as 0 (log entry 4, DEDUCED). -/
def cellGet : List Host.Cell → Nat → Byte
  | [], _ => 0
  | (k, v) :: r, a => if k = a then v else cellGet r a

/-- Insert a nonzero byte, keeping the addresses strictly rising. -/
def cellPut : List Host.Cell → Nat → Byte → List Host.Cell
  | [], a, b => if b = 0 then [] else [(a, b)]
  | (k, v) :: r, a, b =>
    if a < k then (if b = 0 then (k, v) :: r else (a, b) :: (k, v) :: r)
    else if a = k then (if b = 0 then r else (a, b) :: r)
    else (k, v) :: cellPut r a b

/-- Every cell is nonzero and the addresses rise strictly from above `lo`. -/
def cellsWf : Option Nat → List Host.Cell → Bool
  | _, [] => true
  | lo, (k, v) :: r =>
    (match lo with
      | none => true
      | some l => decide (l < k)) && !decide (v = 0) && cellsWf (some k) r

/-- The indices rise strictly from above `lo`. -/
def risingWf : Option Nat → List Nat → Bool
  | _, [] => true
  | lo, k :: r =>
    (match lo with
      | none => true
      | some l => decide (l < k)) && risingWf (some k) r

/-- Memory is in its canonical form. -/
def Memory.wf (m : Memory) : Bool := cellsWf none m.cells && risingWf none m.poison

/-- Insert an index into a rising list. -/
def insertNat : List Nat → Nat → List Nat
  | [], a => [a]
  | k :: r, a => if a < k then a :: k :: r else if a = k then k :: r else k :: insertNat r a

/-- One byte of memory. (Log entry 4, DEDUCED.) -/
def Memory.byte (m : Memory) (a : Nat) : Byte := cellGet m.cells a

/-- The `n` bytes from an address, lowest first. -/
def Memory.bytes (m : Memory) (a n : Nat) : List Byte := (List.range n).map fun i => m.byte (a + i)

/-- The little-endian value of `n` bytes (R8). -/
def Memory.value (m : Memory) (a n : Nat) : Nat := wordOfBytes (m.bytes a n)

/-- The 8-byte word at an address. -/
def Memory.word (m : Memory) (a : Nat) : Word := BitVec.ofNat 64 (m.value a 8)

/-- A 4 KiB stripe is one of those behind a failed port (R438, R439). -/
def Dead.holds (d : Dead) (k : Nat) : Bool :=
  decide (d.base ≤ k * 4096) && decide (k * 4096 < d.base + d.size) && (k - d.base / 4096) % d.ways == d.way

/-- Some stripe that a range touches lies behind a failed port. -/
def Memory.deadAt (m : Memory) (a n : Nat) : Bool :=
  m.dead.any fun d => (List.range ((a + n - 1) / 4096 - a / 4096 + 1)).any fun i => d.holds (a / 4096 + i)

/-- Some byte of a range lies in a poisoned 8-byte word (R175), or behind a failed port (R438). -/
def Memory.poisoned (m : Memory) (a n : Nat) : Bool :=
  (m.poison.any fun i => decide (i * 8 < a + n) && decide (a < i * 8 + 8)) || m.deadAt a n

/-- Write one byte, leaving poison as it is. -/
def Memory.setByte (m : Memory) (a : Nat) (b : Byte) : Memory := { m with cells := cellPut m.cells a b }

/-- The bits of a byte that a piece leaves, and those it writes. -/
def Piece.apply (p : Piece) (old : Byte) : Byte := (old &&& ~~~p.mask) ||| (p.byte &&& p.mask)

/-- The pieces write every bit of the aligned 8-byte word of index `i`. -/
def covers (ps : List Piece) (i : Nat) : Bool :=
  (List.range 8).all fun j => ps.any fun p => decide (p.addr = i * 8 + j) && decide (p.mask = 0xFF)

/-- Perform a store's pieces in order; a poisoned word stays poisoned unless they write all 8 of its bytes (R175). -/
def Memory.write (m : Memory) (ps : List Piece) : Memory :=
  let m1 := ps.foldl (fun (m : Memory) p => m.setByte p.addr (p.apply (m.byte p.addr))) m
  { m1 with poison := m1.poison.filter fun i => !covers ps i }

/-- Perform several accesses in order, each as one access (R147, R175). -/
def Memory.writes (m : Memory) (ws : List (List Piece)) : Memory := ws.foldl Memory.write m

/-- Poison every 8-byte word that a range touches (R306, R312). -/
def Memory.poisonRange (m : Memory) (a n : Nat) : Memory :=
  if n = 0 then m
  else { m with poison := (List.range ((a + n - 1) / 8 - a / 8 + 1)).foldl (fun l i => insertNat l (a / 8 + i)) m.poison }

/-- Write zero to every byte of a range, clearing its poison (R367, R368). -/
def Memory.zero (m : Memory) (a n : Nat) : Memory :=
  { m with
    cells := m.cells.filter fun c => !(decide (a ≤ c.1) && decide (c.1 < a + n))
    poison := m.poison.filter fun i => !(decide (a ≤ i * 8) && decide (i * 8 + 8 ≤ a + n)) }

/-- The words of a range that lie behind failed ports, rising. -/
def Memory.deadWords (m : Memory) (a n : Nat) : List Nat :=
  if m.dead.isEmpty then []
  else ((List.range (n / 8)).map (a / 8 + ·)).filter fun i => m.deadAt (i * 8) 8

/-- The part of memory in a range, at the same addresses; what lies behind a failed port is poison from here on. -/
def Memory.extract (m : Memory) (a n : Nat) : Memory :=
  { cells := m.cells.filter fun c => decide (a ≤ c.1) && decide (c.1 < a + n),
    poison := (m.deadWords a n).foldl insertNat (m.poison.filter fun i => decide (a < i * 8 + 8) && decide (i * 8 < a + n)) }

/-- Lay one memory's listed bytes and poison over another, moved by an offset. -/
def Memory.overlay (m src : Memory) (from_ dst : Nat) : Memory :=
  { m with
    cells := src.cells.foldl (fun l c => cellPut l (c.1 - from_ + dst) c.2) m.cells
    poison := src.poison.foldl (fun l i => insertNat l ((i * 8 - from_ + dst) / 8)) m.poison }

/-- Copy a range to another place, replacing what was there, poison included (R215, R374). -/
def Memory.move (m : Memory) (a b n : Nat) : Memory := (m.zero b n).overlay (m.extract a n) a b

/-- The whole-byte pieces of the low `n` bytes of a value. -/
def piecesOf (a n : Nat) (x : Word) : List Piece :=
  (List.range n).map fun i => { addr := a + i, byte := BitVec.ofNat 8 (x.toNat / 2 ^ (8 * i)) }

/-- The pieces that write a list of bytes. -/
def piecesOfBytes (a : Nat) (bs : List Byte) : List Piece :=
  (bs.zipIdx).map fun p => { addr := a + p.2, byte := p.1 }

/-- The `n` little-endian bytes of a number. -/
def bytesOfNat (n x : Nat) : List Byte := (List.range n).map fun i => BitVec.ofNat 8 (x / 256 ^ i)

/-! ## Lanes -/

/-- The lanes in ascending order. -/
def allLanes : List (Fin 32) := List.finRange 32

/-- Lane `l` is in the set. -/
def inSet (e : Lanes) (l : Nat) : Bool := e.getLsbD l

/-- The lanes of a set, ascending. -/
def lanesOf (e : Lanes) : List (Fin 32) := allLanes.filter fun l => inSet e l

/-- The set with only lane `l`. -/
def laneBit (l : Nat) : Lanes := BitVec.ofNat 32 (2 ^ l)

/-- The set of the lanes that satisfy a test. -/
def setOf (p : Fin 32 → Bool) : Lanes := allLanes.foldl (fun e l => if p l then e ||| laneBit l else e) 0

/-- The number of lanes of a set. -/
def countLanes (e : Lanes) : Nat := (lanesOf e).length

/-! ## Records of the state -/

/-- The key of a context: its partition's tag and its number (R356). -/
def ctxKey (tag num : Nat) : Nat := tag * 64 + num

/-- The gang with a key. -/
def State.gang (s : State) (k : Nat) : Gang := tget s.gangs k {}
/-- The gang whose turn it is. -/
def State.g (s : State) : Gang := s.gang s.cur
/-- Put a gang's record. -/
def State.setGang (s : State) (k : Nat) (g : Gang) : State := { s with gangs := tput s.gangs k g }
/-- Put the current gang's record. -/
def State.setG (s : State) (g : Gang) : State := s.setGang s.cur g
/-- The team with a key. -/
def State.team (s : State) (k : Nat) : Team := tget s.teams k {}
/-- Put a team's record. -/
def State.setTeam (s : State) (k : Nat) (t : Team) : State := { s with teams := tput s.teams k t }
/-- The grid with a key. -/
def State.grid (s : State) (k : Nat) : Grid := tget s.grids k {}
/-- Put a grid's record. -/
def State.setGrid (s : State) (k : Nat) (g : Grid) : State := { s with grids := tput s.grids k g }
/-- The context with a key. -/
def State.ctx (s : State) (k : Nat) : Ctx := tget s.ctxs k {}
/-- Put a context's record. -/
def State.setCtx (s : State) (k : Nat) (c : Ctx) : State := { s with ctxs := tput s.ctxs k c }
/-- The partition with a tag. -/
def State.part (s : State) (k : Nat) : Part := tget s.parts k {}
/-- Put a partition's record. -/
def State.setPart (s : State) (k : Nat) (p : Part) : State := { s with parts := tput s.parts k p }
/-- A core. -/
def State.core (s : State) (k : Nat) : Core := tget s.cores k {}
/-- Put a core's record. -/
def State.setCore (s : State) (k : Nat) (c : Core) : State := { s with cores := tput s.cores k c }
/-- A cluster. -/
def State.cluster (s : State) (k : Nat) : Cluster := tget s.clusters k {}
/-- Put a cluster's record. -/
def State.setCluster (s : State) (k : Nat) (c : Cluster) : State := { s with clusters := tput s.clusters k c }
/-- A rail. -/
def State.rail (s : State) (k : Nat) : Rail := tget s.rails k {}
/-- Put a rail's record. -/
def State.setRail (s : State) (k : Nat) (r : Rail) : State := { s with rails := tput s.rails k r }

/-- An accumulator of a team. -/
def Team.accOf (t : Team) (k : Nat) : Acc := if h : k < 8 then t.acc[k] else {}
/-- Put an accumulator of a team. -/
def Team.setAcc (t : Team) (k : Nat) (a : Acc) : Team := { t with acc := t.acc.setIfInBounds k a }

/-- A core's cluster (R13: four cores to a cluster). -/
def clusterOf (core : Nat) : Nat := core / 4
/-- A cluster's slice and rail (R13: eight clusters to a slice). -/
def sliceOf (cluster : Nat) : Nat := cluster / 8
/-- A core's slice. -/
def coreSlice (core : Nat) : Nat := core / 32

/-- The slices of a partition (R364). -/
def Part.slices (p : Part) : List Nat := (List.range p.size).map (p.first + ·)
/-- Slice `i` belongs to the partition. -/
def Part.owns (p : Part) (i : Nat) : Bool := decide (p.first ≤ i) && decide (i < p.first + p.size)

/-- The partition that owns a slice: its tag and record. -/
def State.partOf (s : State) (slice : Nat) : Option (Nat × Part) := s.parts.find? fun e => e.2.owns slice

/-- The step of the step clock, 437.5 MHz from the start of stage 0 on (R405). -/
def State.stepNow (s : State) : Nat := (s.ns - s.dev.stage0At) * 7 / 16

/-- A partition's release rotation leaves `rho`: its rails keep the one that their current step began with (R429). -/
def State.noteRho (s : State) (tag rho : Nat) : State :=
  (s.part tag).slices.foldl (fun (st : State) i =>
    let r := st.rail i
    let known := match r.startRho with
      | some (n, _) => n == s.stepNow
      | none => false
    if known then st else st.setRail i { r with startRho := some (s.stepNow, rho) }) s

/-- A UNIT word (R434). -/
def unitWord (kind idx : Nat) : Nat := kind + idx * 256
/-- A unit is fenced (R397). -/
def State.isFenced (s : State) (kind idx : Nat) : Bool := s.dev.fenced.contains (unitWord kind idx)

/-- The cores of a partition that are not fenced, ascending. -/
def State.coresOf (s : State) (p : Part) : List Nat :=
  (List.range (32 * p.size)).map (32 * p.first + ·) |>.filter fun c => !s.isFenced 0 c

/-- Append to the outbox. -/
def State.send (s : State) (o : Out) : State := { s with out := s.out ++ [o] }

/-- The operations in flight that satisfy a test, oldest first. -/
def State.opsWhere (s : State) (p : Op → Bool) : List Op := s.ops.filter p
/-- The operation with an identifier. -/
def State.op? (s : State) (id : Nat) : Option Op := s.ops.find? fun o => o.id == id
/-- Replace an operation. -/
def State.setOp (s : State) (o : Op) : State := { s with ops := s.ops.map fun x => if x.id = o.id then o else x }
/-- Remove an operation. -/
def State.dropOp (s : State) (id : Nat) : State := { s with ops := s.ops.filter fun x => !(x.id == id) }

/-- Raise a report on a flag, or drop it when the operation was attached to none. -/
def CFlag.report (f : CFlag) (r : Report) : CFlag := { f with reports := f.reports ++ [r] }

/-- Flag `n` of a gang. -/
def Gang.flag (g : Gang) (n : Nat) : CFlag := if h : n < 12 then g.cf[n] else {}
/-- Put flag `n` of a gang; a number above 11 attaches to none (R75). -/
def Gang.setFlag (g : Gang) (n : Nat) (f : CFlag) : Gang := { g with cf := g.cf.setIfInBounds n f }

/-- Count one more operation on a flag (R77). -/
def Gang.attach (g : Gang) (n : Nat) : Gang := g.setFlag n { g.flag n with count := (g.flag n).count + 1 }
/-- Count one operation fewer on a flag (R77). -/
def Gang.detach (g : Gang) (n : Nat) : Gang := g.setFlag n { g.flag n with count := (g.flag n).count - 1 }

/-- The completion time of a store or atomic enters P (R141). -/
def Gang.notePend (g : Gang) (c : Nat) : Gang := { g with pend := some (max c (g.pend.getD 0)) }

/-- Draw a free value (log entry 15, DESIGN CHOICE). -/
def State.free (s : State) : Word × State := (Config.freeValue s.freeCtr, { s with freeCtr := s.freeCtr + 1 })

/-- An entry of a context's format table (R218, R224). -/
def Ctx.entry (c : Ctx) (n : Nat) : FtEntry := if n < 16 then fixedEntry n else tget c.ft n {}

end Sys2Proof.Machine
end

