-- ==== Sys2Proof/Machine/Layout.lean ====
section
/-! DEFINITION. Operand layouts in scratchpad (R299, R300, R311): where each array stands, how an element is read from
its planes, and the pieces that write one. -/

namespace Sys2Proof.Machine

/-- An operand layout: its offset, rows, columns, entry, scale mode (0 none, 1 delta-4, 2 Q16) and block size. -/
structure Lay where
  off : Nat
  rho : Nat
  k : Nat
  f : Fmt
  mode : Nat := 0
  bs : Nat := 16
  deriving DecidableEq, Repr

/-- The value planes of an entry (R299). -/
def Fmt.planes (f : Fmt) : Nat :=
  match f.kind with
  | 0 => f.fw + 1
  | 3 => 4
  | _ => f.width

/-- The plane count p of an operand entry (R297). -/
def Fmt.planeCount (f : Fmt) : Nat := if f.kind = 3 then 8 else f.planes

/-- An operand entry is within R297's limits. -/
def FtEntry.operandOk (e : FtEntry) : Bool :=
  let f := e.fmt
  e.usable && (match f.kind with
    | 0 => decide (f.width ≤ 16) && decide (f.ew ≤ 8)
    | 3 => true
    | _ => decide (f.width ≤ 16))

/-- An accumulator entry (R297). -/
def FtEntry.accOk (e : FtEntry) : Bool := e.usable && decide (e.fmt.kind ≤ 1) && decide (e.fmt.width ≤ 32)

/-- The bytes of one plane. -/
def Lay.plane (l : Lay) : Nat := l.rho * l.k / 8
/-- The bytes of the sign plane. -/
def Lay.signBytes (l : Lay) : Nat := if l.f.kind = 0 then l.plane else 0
/-- The offset of value plane `q`. -/
def Lay.valueAt (l : Lay) (q : Nat) : Nat := l.off + l.signBytes + q * l.plane
/-- The offset of the exponent array. -/
def Lay.expAt (l : Lay) : Nat := l.valueAt l.f.planes
/-- The offset of the scale array. -/
def Lay.scaleAt (l : Lay) : Nat := l.expAt + (if l.f.kind = 0 then l.rho * l.k else 0)
/-- The bytes of the scale array. -/
def Lay.scaleBytes (l : Lay) : Nat :=
  match l.mode with
  | 1 => l.rho * l.k / (2 * l.bs)
  | 2 => l.rho * l.k / 64
  | _ => 0
/-- The bytes of the layout. -/
def Lay.size (l : Lay) : Nat := l.scaleAt + l.scaleBytes - l.off

/-- A bit of a plane at linear index `idx`. -/
def planeBit (m : Memory) (at_ idx : Nat) : Bool := (m.byte (at_ + idx / 8)).getLsbD (idx % 8)

/-- The value planes' bits of an element. -/
def Lay.planeBits (l : Lay) (m : Memory) (idx : Nat) : Nat :=
  (List.range l.f.planes).foldl (fun n q => if planeBit m (l.valueAt q) idx then n + 2 ^ q else n) 0

/-- The sign bit and the exponent field of an element of a float layout. (Log entry 33, DEDUCED.) -/
def Lay.signExp (l : Lay) (m : Memory) (idx : Nat) : Bool × Nat :=
  (planeBit m l.off idx, (m.byte (l.expAt + idx)).toNat % 2 ^ l.f.ew)

/-- The delta or Q16 scale of an element (R299). -/
def Lay.scaleOf (l : Lay) (m : Memory) (idx : Nat) : Nat :=
  match l.mode with
  | 1 =>
    let n := idx / l.bs
    let b := (m.byte (l.scaleAt + n / 2)).toNat
    if n % 2 = 0 then b % 16 else b / 16
  | 2 => (m.byte (l.scaleAt + idx / 64)).toNat
  | _ => 0

/-- The base of a delta-4 scale scalar (R231). -/
def baseOf (x : Word) : Int := signedOf 13 (bits x 12 0)

/-- A Q16 element with level `lv`, scale `b` and scale scalar `x` (R233, R225). (Log entry 34, DEDUCED.)
Level 0 takes the sign of S times +0. (Log entry 67, DESIGN CHOICE.) -/
def q16Value (lv : Int) (b : Nat) (x : Word) : Num :=
  if b = 0 then .zero false
  else
    match f32 (x.toNat % 2 ^ 32) with
    | .nan sig => .nan sig
    | .inf neg => if lv = 0 then .nan true else .inf (neg != decide (lv < 0))
    | v => Num.roundBits 64 (Num.mul v (Num.ofFrac (lv * b) 32385 0 false))

/-- The value of an element without its scale (R300). -/
def Lay.plain (l : Lay) (m : Memory) (idx : Nat) : Num :=
  let f := l.f
  let v := l.planeBits m idx
  match f.kind with
  | 0 =>
    let se := l.signExp m idx
    let frac := v % 2 ^ f.fw
    match f.reserved se.1 se.2 frac with
    | some x => x
    | none => f.floatValue se.1 se.2 frac (v / 2 ^ f.fw)
  | 3 => levelValue (f.levels.getD v 0)
  | _ => Num.scale2 (-f.fw) (.ofInt ((if f.s = 1 then signedOf f.width v else (v : Int)) - f.bias))

/-- The value of an element (R300). (Log entry 33, DEDUCED.) -/
def Lay.value (l : Lay) (m : Memory) (scale : Word) (idx : Nat) : Num :=
  match l.mode with
  | 1 => (l.plain m idx).scale2 (baseOf scale - l.scaleOf m idx)
  | 2 => q16Value (l.f.levels.getD (l.planeBits m idx) 0) (l.scaleOf m idx) scale
  | _ => l.plain m idx

/-- The operand's rows, each along K. -/
def Lay.rows (l : Lay) (m : Memory) (scale : Word) : List (List Num) :=
  (List.range l.rho).map fun i => (List.range l.k).map fun k => l.value m scale (i * l.k + k)

/-- The code of an element, reassembled from its bits; the hidden plane is not read (R311). -/
def Lay.code (l : Lay) (m : Memory) (idx : Nat) : Nat :=
  let f := l.f
  let v := l.planeBits m idx
  if f.kind = 0 then
    let se := l.signExp m idx
    (if se.1 && f.s == 1 then 2 ^ (f.ew + f.fw) else 0) + se.2 * 2 ^ f.fw + v % 2 ^ f.fw
  else v

/-- The value planes of a code: a float's fraction with its hidden bit, else the code itself (R299, R311). -/
def Fmt.planesOf (f : Fmt) (c : Nat) : Nat :=
  if f.kind = 0 then
    c % 2 ^ f.fw + (if 0 < c / 2 ^ f.fw % 2 ^ f.ew ∨ f.subn = 2 then 2 ^ f.fw else 0)
  else c % 2 ^ f.planes

/-- The sign bit of a float code. -/
def Fmt.signOf (f : Fmt) (c : Nat) : Bool := f.s == 1 && c / 2 ^ (f.ew + f.fw) % 2 == 1

/-- The piece that writes one bit of a plane. -/
def bitPiece (at_ idx : Nat) (b : Bool) : Piece :=
  { addr := at_ + idx / 8, mask := BitVec.ofNat 8 (2 ^ (idx % 8)), byte := if b then 0xFF else 0 }

/-- The pieces that write an element's code into a layout (R311).  An exponent byte is written as two halves: no
write of PLST clears the poison of a word (R311, R175). -/
def Lay.put (l : Lay) (idx c : Nat) : List Piece :=
  let f := l.f
  let v := f.planesOf c
  let planes := (List.range f.planes).map fun q => bitPiece (l.valueAt q) idx (v.testBit q)
  if f.kind = 0 then
    let e : Byte := BitVec.ofNat 8 (c / 2 ^ f.fw % 2 ^ f.ew)
    bitPiece l.off idx (f.signOf c) :: { addr := l.expAt + idx, mask := 0x0F, byte := e } ::
      { addr := l.expAt + idx, mask := 0xF0, byte := e } :: planes
  else planes

/-- One byte of a plane, from the bits of eight elements. -/
def planeByte (f : Nat → Bool) : Byte := BitVec.ofNat 8 ((List.range 8).foldl (fun n i => if f i then n + 2 ^ i else n) 0)

/-- Every byte of a layout that holds given codes and scales (R299, R311). -/
def Lay.image (l : Lay) (codes : Array Nat) (scales : Array Nat) : List Byte :=
  let f := l.f
  let c (i : Nat) : Nat := codes.getD i 0
  let plane (g : Nat → Bool) : List Byte := (List.range l.plane).map fun b => planeByte fun i => g (c (8 * b + i))
  let sign := if f.kind = 0 then plane f.signOf else []
  let vals := (List.range f.planes).flatMap fun q => plane fun x => (f.planesOf x).testBit q
  let exps := if f.kind = 0 then (List.range (l.rho * l.k)).map fun i => BitVec.ofNat 8 (c i / 2 ^ f.fw % 2 ^ f.ew) else []
  let sc := (List.range l.scaleBytes).map fun i =>
    if l.mode = 1 then BitVec.ofNat 8 (scales.getD (2 * i) 0 + 16 * scales.getD (2 * i + 1) 0)
    else BitVec.ofNat 8 (scales.getD i 0)
  sign ++ vals ++ exps ++ sc

/-- The layout that a plane reference reads. -/
def PlaneRef.lay (p : PlaneRef) : Lay := { off := p.base, rho := p.rho, k := p.k, f := p.ent.fmt }

/-- Some bit that the code of an element is made of lies in a poisoned word; a float's hidden plane is not read (R311). -/
def Lay.marked (l : Lay) (m : Memory) (idx : Nat) : Bool :=
  ((List.range (if l.f.kind = 0 then l.f.fw else l.f.planes)).any fun q => m.poisoned (l.valueAt q + idx / 8) 1) ||
    (l.f.kind == 0 && (m.poisoned (l.off + idx / 8) 1 || m.poisoned (l.expAt + idx) 1))

/-- What a lane of PLLD receives: the codes of its elements, or the mark of the layout's offset (R175, R311). -/
def PlaneRef.read (p : PlaneRef) (m : Memory) (free : Word) : Slot :=
  let l := p.lay
  if (List.range p.e).any fun j => l.marked m (p.start + j) then { val := free, mark := some (BitVec.ofNat 64 p.base) }
  else
    let w := 64 / p.e
    { val := BitVec.ofNat 64 ((List.range p.e).foldl (fun n j => n + l.code m (p.start + j) * 2 ^ (w * j)) 0) }

end Sys2Proof.Machine
end

