-- ==== Sys2Proof/Machine/Xlate.lean ====
section
/-! DEFINITION. Two-stage translation (R360 to R363, R365), the TLBs (R165, R192), home banks and leases' G
(R140, R366), frame owners and their zeroing (R367), and the D bits with the dirty log (R362, R381, R382). -/

namespace Sys2Proof.Machine

/-- The kind of an access (R362). -/
inductive Access where
  | read
  | write
  | atomic
  | fetch
  deriving DecidableEq, Repr

/-- Why an access failed: XLATE or PERM, at which stage, whether poisoned bytes were read, and the intermediate
address concerned (R361, R362, R389). -/
structure XFail where
  xlate : Bool
  stage2 : Bool
  pzn : Bool := false
  ia : Nat := 0
  own : Option (Nat × Bool) := none
  deriving DecidableEq, Repr

/-- A leaf found by a walk of one stage (R361). -/
structure Leaf where
  base : Nat
  lg : Nat
  r : Bool
  w : Bool
  x : Bool
  u : Bool
  d : Bool
  ea : Nat
  sh : Bool
  deriving DecidableEq, Repr

/-- The lowest bit that level `k` of a walk indexes (R360). -/
def levelShift : Nat → Nat
  | 0 => 16
  | 1 => 21
  | 2 => 30
  | 3 => 39
  | _ => 48

/-- The number of entries of a table of level `k` (R360). -/
def levelEntries : Nat → Nat
  | 0 => 32
  | 4 => 256
  | _ => 512

/-- The alignment of a table of level `k` (R360). -/
def tableAlign (k : Nat) : Nat := 8 * levelEntries k

/-- Bits 51:8 of an entry, as an address (R361). -/
def entryAddr (e : Nat) : Nat := fld e 51 8 * 256

/-- An entry's valid and reserved bits are in order (R361). -/
def entryOk (e : Nat) : Bool := fld e 0 0 == 1 && fld e 63 52 == 0 && fld e 7 7 == 0

/-- An entry for an intermediate level serves a walk of a stage from a root (R165, R358). (Log entry 25, DEDUCED.) -/
def MidEntry.serves (e : MidEntry) (ctx : Nat) (stage2 : Bool) (root va : Nat) : Bool :=
  e.ctx == ctx && e.stage2 == stage2 && e.root == root && e.tag == va / 2 ^ levelShift (e.level + 1)

/-- An entry for an intermediate level of stage 1 covers a virtual address of a context (R192). -/
def MidEntry.covers (e : MidEntry) (ctx va : Nat) : Bool :=
  e.ctx == ctx && !e.stage2 && e.tag == va / 2 ^ levelShift (e.level + 1)

/-- What an entry read gives a walk: its value, its physical address, the SH of the stage-2 leaf that maps it, and the intermediate
entries of the walk that translated its address. -/
abbrev EntryRead := Except XFail (Nat × Nat × Bool × List MidEntry)

/-- Walk one stage from level `k`.  `rd` reads the entry at a table address; `bad` is this stage's own failure; `mid` is the
entry that holds the table of a level below the one just read. -/
def walk (rd : Nat → EntryRead) (bad : XFail) (mid : Nat → Nat → MidEntry) (va : Nat) :
    Nat → Nat → Except XFail (Leaf × List MidEntry)
  | k, table =>
    match rd (table + 8 * (va / 2 ^ levelShift k % levelEntries k)) with
    | .error f => .error f
    | .ok (e, pe, sh, ms) =>
      if entryOk e then
        if fld e 1 1 = 1 then
          if k ≥ 3 ∨ entryAddr e % 2 ^ levelShift k ≠ 0 then .error bad
          else .ok ({ base := entryAddr e, lg := levelShift k, r := fld e 2 2 == 1, w := fld e 3 3 == 1,
                      x := fld e 4 4 == 1, u := fld e 5 5 == 1, d := fld e 6 6 == 1, ea := pe, sh := sh }, ms)
        else
          match k with
          | 0 => .error bad
          | k' + 1 =>
            if entryAddr e % tableAlign k' ≠ 0 then .error bad
            else match walk rd bad mid va k' (entryAddr e) with
              | .error f => .error f
              | .ok (l, r) => .ok (l, ms ++ mid k' (entryAddr e) :: r)
      else .error bad

/-- Walk one stage of a context from its root, or from the lowest table that the entries held name (R165). -/
def walkStage (held : List MidEntry) (rd : Nat → EntryRead) (bad : XFail) (ctx : Nat) (stage2 : Bool) (root va : Nat) :
    Except XFail (Leaf × List MidEntry) :=
  let mid (k table : Nat) : MidEntry :=
    { ctx := ctx, stage2 := stage2, root := root, level := k, tag := va / 2 ^ levelShift (k + 1), table := table }
  match (List.range 4).findSome? fun k => held.find? fun e => e.level == k && e.serves ctx stage2 root va with
  | some e => walk rd bad mid va e.level e.table
  | none => walk rd bad mid va 4 root

/-- The slice whose stack holds a partition's save reserve: its lowest (R369; log entry 24, DEDUCED). -/
def Part.reserveSlice (p : Part) : Nat := p.first

/-- A physical address lies in a CXL window of the partition (R365, R439). -/
def State.inWindow (s : State) (tag pa : Nat) : Bool :=
  s.dev.windows.any fun w => w.tag == tag && decide (w.base ≤ pa) && decide (pa < w.base + w.size)

/-- A physical address lies in the partition's save reserve of 2 GiB (R369; log entry 24, DEDUCED). -/
def Part.inReserve (p : Part) (pa : Nat) : Bool :=
  decide ((p.reserveSlice + 1) * 2 ^ 36 - 2 ^ 31 ≤ pa) && decide (pa < (p.reserveSlice + 1) * 2 ^ 36)

/-- A physical address lies in the partition's stacks and windows, outside its reserve (R365, R369). -/
def State.physOk (s : State) (tag pa : Nat) : Bool :=
  let p := s.part tag
  (p.owns (pa / 2 ^ 36) && decide (pa / 2 ^ 36 < 12) && !s.isFenced 4 (pa / 2 ^ 36) && !p.inReserve pa) ||
    s.inWindow tag pa

/-- A physical address that the device itself may use for the partition, its reserve included. -/
def State.physMine (s : State) (tag pa : Nat) : Bool :=
  s.physOk tag pa || (s.part tag).inReserve pa

/-- Read a table entry at a physical address: outside the partition or poisoned it fails (R365, R395). -/
def State.readEntry (s : State) (tag : Nat) (bad : XFail) (pa : Nat) : EntryRead :=
  if s.physOk tag pa then
    if s.mem.poisoned pa 8 then .error { bad with pzn := true } else .ok (s.mem.value pa 8, pa, true, [])
  else .error bad

/-- The stage-2 walk of an intermediate address (R360), with the entries for intermediate levels that it may use and those
it found. -/
def State.stage2Walk (s : State) (held : List MidEntry) (ctx ia : Nat) : Except XFail (Leaf × List MidEntry) :=
  let c := s.ctx ctx
  let bad : XFail := { xlate := true, stage2 := true, ia := ia }
  match walkStage held (s.readEntry c.part bad) bad ctx true (bits c.s2base 51 11 * 2048) ia with
  | .error f => .error f
  | .ok l => if s.physOk c.part (l.1.base + ia % 2 ^ l.1.lg) then .ok l else .error bad

/-- The owner tag an access leaves on its frame, when it must zero the frame first (R367). -/
def State.newOwner (s : State) (num frame : Nat) (shared : Bool) : Option Owner :=
  if num = 0 then none
  else match tget? s.owners frame, shared with
    | none, true => some .shared
    | some _, true => none
    | some (.ctx c), false => if c = num then none else some (.ctx num)
    | _, false => some (.ctx num)

/-- Read a stage-1 table entry of a tenant: its intermediate address goes through stage 2, with R (R362).  The
read is an access of the context (R138): on a frame that must be zeroed for it first it finds an entry of zeros, which is not valid, and
the failure names the frame (R367). (Log entry 13, DEDUCED.) -/
def State.readEntry1 (s : State) (held : List MidEntry) (ctx ia : Nat) : EntryRead :=
  let c := s.ctx ctx
  let bad : XFail := { xlate := true, stage2 := true, ia := ia }
  match s.stage2Walk held ctx ia with
  | .error f => .error f
  | .ok (l, ms) =>
    if l.r then
      let pa := l.base + ia % 2 ^ l.lg
      if (s.newOwner c.num (pa / 65536) l.u).isSome then .error { bad with stage2 := false, own := some (pa / 65536, l.u) }
      else
        -- poison of the entry itself is stage 1's own failure (R386)
        match s.readEntry c.part { bad with stage2 := false } pa with
        | .error f => .error f
        | .ok (e, pe, _, _) => .ok (e, pe, l.u, ms)
    else .error { bad with xlate := false }

/-- Walk both stages for a virtual address of a context, giving the translation (R360 to R362) and the entries for
intermediate levels that the walk found. -/
def State.walkFrom (s : State) (held : List MidEntry) (ctx va : Nat) : Except XFail (TlbEntry × List MidEntry) :=
  let c := s.ctx ctx
  let bad : XFail := { xlate := true, stage2 := false }
  let rd := if c.num = 0 then s.readEntry c.part bad else s.readEntry1 held ctx
  match walkStage held rd bad ctx false (bits c.ptbase 51 11 * 2048) va with
  | .error f => .error f
  | .ok (l1, ms) =>
    let ia := l1.base + va % 2 ^ l1.lg
    if c.num = 0 then
      if s.physOk c.part ia then
        .ok ({ ctx := ctx, va := va / 2 ^ l1.lg * 2 ^ l1.lg, lg := l1.lg, pa := l1.base, ia := l1.base, r := l1.r,
               w := l1.w, x := l1.x, user := l1.u, shared := true, leaf1 := l1.ea, leaf2 := none, d1 := l1.d,
               d2 := true, r1 := l1.r, w1 := l1.w, x1 := l1.x }, ms)
      else .error bad
    else
      match s.stage2Walk held ctx ia with
      | .error f => .error f
      | .ok (l2, ms2) =>
        let lg := min l1.lg l2.lg
        .ok ({ ctx := ctx, va := va / 2 ^ lg * 2 ^ lg, lg := lg, pa := (l2.base + ia % 2 ^ l2.lg) / 2 ^ lg * 2 ^ lg,
               ia := ia / 2 ^ lg * 2 ^ lg, r := l1.r && l2.r, w := l1.w && l2.w, x := l1.x && l2.x, user := l1.u,
               shared := l2.u, leaf1 := l1.ea, leaf2 := some l2.ea, d1 := l1.d, d2 := l2.d, r1 := l1.r, w1 := l1.w,
               x1 := l1.x, lg2 := l2.lg, shared1 := l1.sh }, ms ++ ms2)

/-- Walk both stages from their roots, as ladles, inbound accesses and the device's own moves do (R165). -/
def State.walkBoth (s : State) (ctx va : Nat) : Except XFail TlbEntry :=
  match s.walkFrom [] ctx va with
  | .error f => .error f
  | .ok (e, _) => .ok e

/-- The entries for intermediate levels that a core's walks may use: its own and its cluster's (R165). -/
def State.midOf (s : State) (core : Nat) : List MidEntry := (s.core core).mid ++ (s.cluster (clusterOf core)).mid

/-- Walk both stages for a core, from the lowest tables its TLBs hold (R165). -/
def State.walkFor (s : State) (core ctx va : Nat) : Except XFail TlbEntry :=
  match s.walkFrom (s.midOf core) ctx va with
  | .error f => .error f
  | .ok (e, _) => .ok e

/-- A translation covers a virtual address of a context. -/
def TlbEntry.covers (e : TlbEntry) (ctx va : Nat) : Bool := e.ctx == ctx && e.va / 2 ^ e.lg == va / 2 ^ e.lg

/-- The physical address of a virtual address under a translation. -/
def TlbEntry.phys (e : TlbEntry) (va : Nat) : Nat := e.pa + va % 2 ^ e.lg
/-- The intermediate address of a virtual address under a translation. -/
def TlbEntry.inter (e : TlbEntry) (va : Nat) : Nat := e.ia + va % 2 ^ e.lg

/-- A translation as an access finds it: a physical address outside the partition's stacks and windows fails, at the last
stage (R365). -/
def State.inReach (s : State) (e : TlbEntry) (va : Nat) : Except XFail TlbEntry :=
  let c := s.ctx e.ctx
  if s.physOk c.part (e.phys va) then .ok e
  else .error { xlate := true, stage2 := c.num != 0, ia := e.inter va }

/-- Translate for a core: its TLB, else its cluster's, else a walk (R165, R192, R365). -/
def State.xlate (s : State) (core ctx va : Nat) : Except XFail TlbEntry :=
  match (s.core core).tlb.find? fun e => e.covers ctx va with
  | some e => s.inReach e va
  | none =>
    match (s.cluster (clusterOf core)).tlb.find? fun e => e.covers ctx va with
    | some e => s.inReach e va
    | none => s.walkFor core ctx va

/-- The entries for intermediate levels that the walk of a translation found, when no TLB held it (R165). -/
def State.newMid (s : State) (core : Nat) (e : TlbEntry) : List MidEntry :=
  if (s.core core).tlb.contains e || (s.cluster (clusterOf core)).tlb.contains e then []
  else match s.walkFrom (s.midOf core) e.ctx e.va with
    | .error _ => []
    | .ok (_, ms) => ms

/-- Add the entries of a list that another does not hold. -/
def addMid (l ms : List MidEntry) : List MidEntry := ms.foldl (fun r m => if r.contains m then r else m :: r) l

/-- Hold a translation in the core's and its cluster's TLB, with the entries for intermediate levels (R165, R403). -/
def State.installTlb (s : State) (core : Nat) (e : TlbEntry) : State :=
  let ms := s.newMid core e
  let c := s.core core
  let s1 := if c.tlb.contains e then s else s.setCore core { c with tlb := e :: c.tlb, mid := addMid c.mid ms }
  let k := s1.cluster (clusterOf core)
  if k.tlb.contains e then s1 else s1.setCluster (clusterOf core) { k with tlb := e :: k.tlb, mid := addMid k.mid ms }

/-- Permission is the AND of both stages; user level needs U at stage 1 (R362). -/
def TlbEntry.permit (e : TlbEntry) (k : Access) (level va : Nat) : Option XFail :=
  let s1 : XFail := { xlate := false, stage2 := false }
  let s2 : XFail := { xlate := false, stage2 := true, ia := e.inter va }
  if level = 0 ∧ !e.user then some s1
  else
    let one (ok both : Bool) : Option XFail := if both then none else if ok then some s2 else some s1
    match k with
    | .read => one e.r1 e.r
    | .write => one e.w1 e.w
    | .fetch => one e.x1 e.x
    | .atomic => match one e.r1 e.r with
      | some f => some f
      | none => one e.w1 e.w

/-! ## Home banks and leases -/

/-- A partition's L2 slices that are not fenced, in ascending device order (R366, R397). -/
def State.l2Of (s : State) (p : Part) : List Nat :=
  (List.range (8 * p.size)).map (8 * p.first + ·) |>.filter fun j => !s.isFenced 1 j

/-- The home of a physical address in a list of L2 slices: the slice and its bank, as one bank number (R366). -/
def homeIn (l2 : List Nat) (pa : Nat) : Nat :=
  let x := pa / 2 ^ 11
  let f := (x % 2 ^ 24) ^^^ (x / 2 ^ 24 % 2 ^ 17)
  l2.getD (f % l2.length) 0 * 16 + pa / 2 ^ 7 % 16

/-- The home bank of a physical address in a partition (R366). -/
def State.home (s : State) (tag pa : Nat) : Nat := homeIn (s.l2Of (s.part tag)) pa

/-- G of a line: the latest expiry granted, or the bank's eviction mark (R140). -/
def State.lineExpiry (s : State) (tag pa : Nat) : Nat :=
  match tget? s.lineG (pa / 128) with
  | some g => g
  | none =>
    let own := tget s.bankMark (s.home tag pa) 0
    -- in the forwarding window the new home uses the greater of its own G and the old home's (R171)
    match (s.part tag).oldHome with
    | some l2 => max own (tget s.bankMark (homeIn l2 pa) 0)
    | none => own



/-- A line of memory is a partition's: it stands on one of its stacks or in one of its windows (R13, R365). -/
def State.lineIn (s : State) (tag line : Nat) : Bool :=
  s.inWindow tag (line * 128) || (decide (line / 2 ^ 29 < 12) && (s.part tag).owns (line / 2 ^ 29))

/-- The bank of a partition evicts a line of its own: its G enters the bank's eviction mark (R140). -/
def State.evictL2 (s : State) (tag line : Nat) : State :=
  match tget? s.lineG line, s.lineIn tag line with
  | some g, true =>
    let b := s.home tag (line * 128)
    { s with lineG := tdel s.lineG line, bankMark := tput s.bankMark b (max g (tget s.bankMark b 0)) }
  | _, _ => s

/-- The lines of a partition that are at home in an L2 slice, each with its G (R13, R366). -/
def State.l2Held (s : State) (tag slice : Nat) : List (Nat × Nat) :=
  s.lineG.filter fun e => s.lineIn tag e.1 && s.home tag (e.1 * 128) / 16 == slice

/-- An L2 slice evicts lines, the one of least G first, until it holds `keep` at the most (R13). (Log entry 62, DESIGN CHOICE.) -/
def State.trimL2 (tag slice keep : Nat) : Nat → State → State
  | 0, s => s
  | n + 1, s =>
    let here := s.l2Held tag slice
    if here.length ≤ keep then s
    else match here.foldl (fun (b : Option (Nat × Nat)) e => match b with
      | none => some e
      | some x => if e.2 < x.2 then some e else some x) none with
      | some x => State.trimL2 tag slice keep n (s.evictL2 tag x.1)
      | none => s

/-- Every L2 slice of a partition holds at most the lines that it has room for (R13). -/
def State.trimSlices (s : State) (tag : Nat) : State :=
  (s.l2Of (s.part tag)).foldl (fun (st : State) j => State.trimL2 tag j Config.l2Lines (st.lineG.length - Config.l2Lines) st) s

/-- Record a lease granted on a line (R140); a full L2 slice makes room for it (R13). -/
def State.grantLine (s : State) (tag pa expiry : Nat) : State :=
  let keep := Config.l2Lines - 1
  let s1 := if (tget? s.lineG (pa / 128)).isSome then s
    else State.trimL2 tag (s.home tag pa / 16) keep (s.lineG.length - keep) s
  { s1 with lineG := tput s1.lineG (pa / 128) (max expiry (s1.lineExpiry tag pa)) }

/-! ## Frame owners -/

/-- Every line of a 64 KiB frame is past its G. -/
def State.frameQuiet (s : State) (tag frame : Nat) : Bool :=
  (List.range 512).all fun i => decide (s.lineExpiry tag (frame * 65536 + i * 128) ≤ s.ns)

/-- Drop the instruction lines of a frame from a cache. -/
def dropFrame (l : List ILine) (frame : Nat) : List ILine := l.filter fun x => !(x.line / 1024 == frame)

/-- Zero a frame and set its tag, when the access needs it (R367); no instruction cache keeps what stood in it.
(Log entry 13, DEDUCED.) -/
def State.own (s : State) (num frame : Nat) (shared : Bool) : State :=
  match s.newOwner num frame shared with
  | none => s
  | some o =>
    { s with
      mem := s.mem.zero (frame * 65536) 65536
      owners := tput s.owners frame o
      cores := s.cores.map fun e => (e.1, { e.2 with l0 := dropFrame e.2.l0 frame })
      clusters := s.clusters.map fun e => (e.1, { e.2 with ic := dropFrame e.2.ic frame }) }

/-- An access may be performed on its frame now: it needs no zeroing, or the completion time of every zero has
come when the zeroes are written (R367). (Log entry 13, DEDUCED.) -/
def State.ownReady (s : State) (tag num frame : Nat) (shared : Bool) : Bool :=
  (s.newOwner num frame shared).isNone || s.frameQuiet tag frame

/-- A walk of a context that fails on a table it must zero first leaves the table zeroed and its own; none while the frame is not ready
(R367). -/
def State.ownTable (s : State) (ctx : Nat) (f : XFail) : Option State :=
  match f.own with
  | none => some s
  | some (frame, shared) =>
    let c := s.ctx ctx
    if s.ownReady c.part c.num frame shared then some (s.own c.num frame shared) else none

/-- The tables on which walks of a context fail are zeroed and its own, and nothing else changes (R367, R383). -/
def State.ownTables (s : State) (ctx : Nat) (fs : List XFail) : State :=
  fs.foldl (fun (st : State) f => (st.ownTable ctx f).getD st) s

/-! ## D bits and the dirty log -/

/-- Set D in a leaf, at its home (R362). -/
def State.setD (s : State) (pa : Nat) : State :=
  { s with mem := s.mem.write [{ addr := pa, mask := 0x40, byte := 0x40 }] }

/-- The SIZE field of a dirty-log entry (R381). -/
def sizeCode (lg : Nat) : Nat := if lg = 16 then 0 else if lg = 21 then 1 else 2

/-- Append an entry for a stage-2 page to the context's dirty log, or mark overflow; a block or a ring slot outside the
partition's stacks and windows is not accessed, and nothing is logged (R365, R381, R382). -/
def State.logDirty (s : State) (ctx ia lg : Nat) : State :=
  let c := s.ctx ctx
  let blk := bits c.dlog 51 6 * 64
  let base := s.mem.value blk 8
  let logn := s.mem.value (blk + 8) 1
  let prod := s.mem.value (blk + 16) 8
  let cons := s.mem.value (blk + 24) 8
  let slot := base + 8 * (prod % 2 ^ logn)
  let ok := s.mem.value (blk + 9) 7 == 0 && s.mem.value (blk + 33) 31 == 0 && decide (6 ≤ logn) && decide (logn ≤ 20) &&
    base % 4096 == 0 && s.mem.value (blk + 32) 1 == 1
  if c.dlog = 0 ∨ !s.physOk c.part blk ∨ !ok ∨ !s.physOk c.part slot then s
  else
    let full := prod - cons == 2 ^ logn - 1
    let e : Nat := if full then 2 ^ 63
      else sizeCode lg * 2 ^ 60 + ia / 2 ^ lg * 2 ^ lg / 65536 % 2 ^ 36 * 65536 + c.num
    let m1 := s.mem.write (piecesOf slot 8 (BitVec.ofNat 64 e))
    let m2 := m1.write (piecesOf (blk + 16) 8 (BitVec.ofNat 64 (prod + 1)))
    { s with mem := if full then m2.write [{ addr := blk + 32, byte := 2 }] else m2 }

/-- The leaves a write through a translation must find with D set (R362). -/
def TlbEntry.dref (e : TlbEntry) (va : Nat) : DRef :=
  { va := va, leaf1 := if e.d1 then none else some e.leaf1, leaf2 := if e.d2 then none else e.leaf2, ia := e.inter va,
    lg := e.lg2, shared1 := e.shared1 }

/-- Before a write is performed, set the D bits of a page's leaves that are still 0, logging a stage-2 one (R362, R382). -/
def State.markDirty (s : State) (ctx : Nat) (d : DRef) : State :=
  let s1 := match d.leaf1 with
    | some pa => if (s.mem.byte pa).getLsbD 6 then s else s.setD pa
    | none => s
  match d.leaf2 with
  | some pa => if (s1.mem.byte pa).getLsbD 6 then s1 else (s1.logDirty ctx d.ia d.lg).setD pa
  | none => s1

/-- After a write through a translation, the TLBs that hold it read D = 1 (R362). -/
def State.tlbDirty (s : State) (core ctx va : Nat) : State :=
  let fix (l : List TlbEntry) : List TlbEntry :=
    l.map fun e => if e.covers ctx va then { e with d1 := true, d2 := true } else e
  let s1 := s.setCore core { s.core core with tlb := fix (s.core core).tlb }
  s1.setCluster (clusterOf core) { s1.cluster (clusterOf core) with tlb := fix (s1.cluster (clusterOf core)).tlb }

/-- The frames of the stage-1 leaves whose D bits a write must set are the context's: the walker's access to a leaf is an access of the
context (R362, R367). (Log entry 13, DEDUCED.) -/
def State.ownLeaves (s : State) (ctx : Nat) (l : List DRef) : State :=
  l.foldl (fun (st : State) d => match d.leaf1 with
    | some pa => st.own (s.ctx ctx).num (pa / 65536) d.shared1
    | none => st) s

/-- Those frames need no zeroing, or can be zeroed now. -/
def State.leavesReady (s : State) (ctx : Nat) (l : List DRef) : Bool :=
  l.all fun d => d.leaf1.all fun pa => s.ownReady (s.ctx ctx).part (s.ctx ctx).num (pa / 65536) d.shared1

/-- Before a core's write is performed: the D bits of every page it goes through are set, and the TLBs read them so
(R362). -/
def State.dirtyAll (s : State) (core ctx : Nat) (l : List DRef) : State :=
  l.foldl (fun (st : State) d => (st.markDirty ctx d).tlbDirty core ctx d.va) (s.ownLeaves ctx l)

end Sys2Proof.Machine
end

