-- ==== Sys2Proof/Machine/Mem.lean ====
section
/-! DEFINITION. Accesses in flight (R138 to R147, R154, R216): when one may be performed, what performing it does at
its bank or scratchpad, and how its operation completes. -/

namespace Sys2Proof.Machine

/-! ## Writing results into registers -/

/-- The value a vector register holds in a lane, with its mark (R53). -/
def VReg.lane (r : VReg) (l : Nat) : Slot :=
  match r with
  | .u x => { val := x }
  | .a b st => { val := b + BitVec.ofNat 64 l * st }
  | .p ls => if h : l < 32 then ls[l] else {}

/-- The 32 lanes of a vector register. -/
def VReg.lanes (r : VReg) : Vector Slot 32 := Vector.ofFn fun l => r.lane l

/-- A vector register; a number above 95 reads as zero. -/
def Gang.vreg (g : Gang) (n : Nat) : VReg := if h : n < 96 then g.v[n] else .u 0
/-- Put a vector register: a staged copy of it goes, and one that the clause's last word is about to stage (R71). -/
def Gang.setV (g : Gang) (n : Nat) (r : VReg) : Gang :=
  { g with
    v := g.v.setIfInBounds n r
    staged := g.staged.filter fun k => !(k == n)
    cl := g.cl.map fun c => if c.len < c.next then { c with staging := c.staging.filter fun k => !(k == n) } else c }

/-- A scalar register (R49). -/
def Gang.sreg (g : Gang) (n : Nat) : Slot := if h : n < 256 then g.s[n] else {}
/-- Put a scalar register, replacing any mark it carried (R271). -/
def Gang.setS (g : Gang) (n : Nat) (x : Slot) : Gang := { g with s := g.s.setIfInBounds n x }

/-- Write some lanes of a register that is P, leaving every other lane as it is (R56). -/
def VReg.merge (r : VReg) (e : Lanes) (f : Nat → Slot) : VReg :=
  .p (Vector.ofFn fun l => if inSet e l then f l else r.lane l)

/-! ## Ranges and order -/

/-- Two accesses share a byte. -/
def overlap (a n b m : Nat) : Bool := decide (a < b + m) && decide (b < a + n)

/-- The bytes of scratchpad that a lane of PLLD reads: those that hold a bit of its elements' codes (R310, R311). -/
def PlaneRef.bytes (p : PlaneRef) : List Nat :=
  let l := p.lay
  (List.range p.e).flatMap fun j =>
    let i := p.start + j
    (List.range (if l.f.kind = 0 then l.f.fw else l.f.planes)).map (fun q => l.valueAt q + i / 8) ++
      (if l.f.kind = 0 then [l.off + i / 8, l.expAt + i] else [])

/-- The bytes that an access touches, when they are not all those from its first on: those that a store's lanes write, or that a
lane of PLLD reads. -/
def Item.sparse (i : Item) : Option (List Nat) :=
  match i.plane with
  | some p => some p.bytes
  | none => if i.pieces.isEmpty then none else some (i.pieces.map (·.addr))

/-- The access touches a byte. -/
def Item.touches (i : Item) (a : Nat) : Bool :=
  match i.sparse with
  | some l => l.contains a
  | none => decide (i.pa ≤ a) && decide (a < i.pa + i.w)

/-- Two accesses share a byte (R145, R146). -/
def Item.meets (i j : Item) : Bool :=
  overlap i.pa i.w j.pa j.w && (match i.sparse, j.sparse with
    | none, none => true
    | some l, _ => l.any j.touches
    | _, some l => l.any i.touches)

/-- The operation acts on scratchpad. -/
def OpKind.onSpad : OpKind → Bool
  | .load _ _ sp => sp
  | .store sp => sp
  | _ => false

/-- The operation is a CHAPP. -/
def OpKind.isChapp : OpKind → Bool
  | .chapp .. => true
  | _ => false

/-- The operation is a load. -/
def OpKind.isLoad : OpKind → Bool
  | .load .. => true
  | _ => false

/-- The operation holds loads, stores or atomics. -/
def OpKind.isAccess : OpKind → Bool
  | .load .. | .store .. | .atomic .. | .red .. => true
  | _ => false

/-- The operation is an atomic. -/
def OpKind.isAtomic : OpKind → Bool
  | .atomic .. | .red .. => true
  | _ => false

/-- The operation is a store or an atomic to global memory, which a bank acknowledges (R138). -/
def OpKind.isAcked : OpKind → Bool
  | .store sp => !sp
  | .atomic .. | .red .. => true
  | _ => false

/-- An earlier operation `p` holds back an access `i` of operation `o` on the same space (R144, R145, R154): a store of the
core's queue not yet performed holds back a later store or atomic of the same context; an access of the gang itself holds
back a later one until it is performed, and an atomic of the gang until it is acknowledged; but a load is forwarded from
the gang's own queued stores. -/
def Op.holdsBack (p o : Op) (j : Item) : Bool :=
  if p.kind == .store false then !j.done && !o.kind.isLoad && p.core == o.core && (p.ctx == o.ctx || p.gang == o.gang)
  else p.gang == o.gang && (!j.done || p.kind.isAtomic)

/-- An item shares a byte with an access of an earlier operation that holds it back, or with an earlier item of its own
atomic (R145, R154, R184). (Log entry 11, DEDUCED.) -/
def State.blocked (s : State) (o : Op) (idx : Nat) (i : Item) : Bool :=
  (s.ops.any fun p => decide (p.id < o.id) && p.kind.isAccess && p.kind.onSpad == o.kind.onSpad &&
      p.items.any fun j => p.holdsBack o j && i.meets j) ||
  (o.kind.isAtomic && (o.items.take idx).any fun j => !j.done && i.meets j)

/-- The stores of a core's queue that a load of an operation sees: those of its context that issued before it and
have not been performed, each access by itself (R144, R175). -/
def State.queued (s : State) (core ctx before : Nat) : List (List Piece) :=
  (s.ops.filter fun p =>
      p.core == core && p.ctx == ctx && decide (p.id < before) && p.kind == .store false).flatMap fun p =>
    (p.items.filter fun j => !j.done).map fun j => j.pieces

/-- What a load of `w` bytes reads from a memory: the value, or the mark of the load's address when a byte is
poisoned (R175). (Log entry 15, DESIGN CHOICE.) -/
def State.readSlot (s : State) (m : Memory) (a w va : Nat) : Slot :=
  if m.poisoned a w then { val := Config.freeValue s.freeCtr, mark := some (BitVec.ofNat 64 va) }
  else { val := BitVec.ofNat 64 (m.value a w) }

/-! ## Performing -/

/-- Replace an item of an operation. -/
def Op.setItem (o : Op) (idx : Nat) (i : Item) : Op := { o with items := o.items.set idx i }

/-- The lease length of a context (R143). -/
def State.lease (s : State) (ctx : Nat) : Nat := (s.ctx ctx).leaselen

/-- The set of an L1 line. -/
def l1Set (line : Nat) : Nat := line % Config.l1Sets

/-- A core's L1 has a way free for a line once the lines named have been evicted (R15). -/
def Core.l1Room (c : Core) (line : Nat) (evict : List Nat) : Bool :=
  decide (((c.l1.filter fun x => l1Set x.line == l1Set line && !evict.contains x.line).length) < Config.l1Ways)

/-- Install a line in a core's L1, leased (R140). -/
def Core.install (c : Core) (l : L1Line) (evict : List Nat) : Core :=
  { c with l1 := l :: c.l1.filter fun x => !evict.contains x.line && !(x.ctx == l.ctx && x.line == l.line) }

/-- The home bank serves a load's item: after any zeroing of its frame it reads the line, grants a lease and
the L1 installs it; the item takes its value, with the core's earlier queued stores over it (R140, R144, R367).
A scratchpad item is served by its scratchpad bank. -/
def State.serveLoad (s : State) (o : Op) (idx : Nat) (i : Item) (evict evictL2 : List Nat) : State :=
  if o.kind.onSpad then
    let m := (s.team o.team).spad
    let s1 := if m.poisoned i.pa i.w then { s with freeCtr := s.freeCtr + 1 } else s
    let r := match i.plane with
      | some p => p.read m (Config.freeValue s.freeCtr)
      | none => s.readSlot m i.pa i.w i.va
    s1.setOp (o.setItem idx { i with done := true, res := some r })
  else
    let c := s.ctx o.ctx
    let s1 := s.own c.num (i.pa / 65536) i.shared
    let s2 := evictL2.foldl (fun (st : State) l => st.evictL2 c.part l) s1
    let line := i.pa / 128
    let exp := s2.ns + s2.lease o.ctx
    let s3 := s2.grantLine c.part i.pa exp
    let m := s3.mem.extract (line * 128) 128
    let seen := m.writes (s3.queued o.core o.ctx o.id)
    let copy := m.writes (s3.queued o.core o.ctx s3.nextOp)
    let s4 := s3.setCore o.core ((s3.core o.core).install
      { ctx := o.ctx, line := line, data := copy, grant := s3.ns, expiry := exp } evict)
    let s5 := if seen.poisoned i.pa i.w then { s4 with freeCtr := s4.freeCtr + 1 } else s4
    s5.setOp (o.setItem idx { i with done := true, res := some (s.readSlot seen i.pa i.w i.va) })

/-- The new value of an integer atomic on `w` bytes (R185, R188, R190), and whether it stores. (Log entry 39, DEDUCED.) -/
def AtomOp.apply (op : AtomOp) (w : Nat) (old x cmp : Nat) : Nat × Bool :=
  let m := 2 ^ (8 * w)
  let sg (n : Nat) : Int := signedOf (8 * w) n
  match op with
  | .add => ((old + x) % m, true)
  | .min => (if sg x < sg old then x else old, true)
  | .max => (if sg old < sg x then x else old, true)
  | .minu => (Nat.min old x, true)
  | .maxu => (Nat.max old x, true)
  | .and => (old &&& x, true)
  | .or => (old ||| x, true)
  | .xor => (old ^^^ x, true)
  | .xchg => (x, true)
  | .cas => (if old = cmp then x else old, old == cmp)
  | _ => (old, false)

/-- The result of FATOM and of REDUCE in an entry (R187, R208): the code and its flags.  Addition is exact and
rounded once; MIN and MAX order -0 below +0 and rank NaN by the entry's policy, and give the chosen operand's own code.
(Log entry 67, DESIGN CHOICE.) -/
def AtomOp.applyFmt (op : AtomOp) (f : Fmt) (m x : Nat) (mode : Mode) : Rounded :=
  let a := f.value m
  let b := f.value x
  let sig := if a.isSig || b.isSig then fNV else fNone
  let pick (greater : Bool) : Rounded :=
    if a.isNan && b.isNan then
      let r := f.deliverNan fNone
      (r.1, r.2 ||| sig)
    else if a.isNan then ((if f.spec = 3 ∧ greater then m else x), sig)
    else if b.isNan then ((if f.spec = 3 ∧ greater then x else m), sig)
    else ((if greater then (if Num.ltz a b then x else m) else (if Num.ltz b a then x else m)), sig)
  match op with
  | .fadd =>
    let v := Num.add (mode == .rdn) a b
    let inv := if v.isNan && !a.isNan && !b.isNan then fNV else fNone
    let r := f.round v mode false
    (r.1, r.2 ||| sig ||| inv)
  | .fmin => pick false
  | _ => pick true

/-- The rounding mode of a code: 1 RNE, 2 RTZ, 3 RUP, 4 RDN. -/
def modeOf : Nat → Mode
  | 2 => .rtz
  | 3 => .rup
  | 4 => .rdn
  | _ => .rne

/-- A store or an atomic of a core and context was performed: an earlier atomic of theirs that has not been acknowledged
will bring these bytes too, those that an atomic has only read among them: a copy never takes bytes older than a gang of the core
has seen (R145, R154). -/
def State.noteAfter (s : State) (core ctx : Nat) (ps : List Piece) : State :=
  { s with ops := s.ops.map fun p =>
      if p.core = core ∧ p.ctx = ctx ∧ p.kind.isAtomic = true then
        { p with items := p.items.map fun j =>
            if j.done then { j with after := j.after.write (ps.filter fun q => overlap q.addr 1 j.pa j.w) } else j }
      else p }

/-- An atomic was performed: the core's copies of its line for its context owe its bytes until the acknowledgement (R154). -/
def State.markOwes (s : State) (o : Op) (idx : Nat) (i : Item) : State :=
  let c := s.core o.core
  s.setCore o.core { c with l1 := c.l1.map fun x =>
    if x.ctx = o.ctx ∧ x.line = i.pa / 128 then { x with owes := (o.id, idx) :: x.owes } else x }

/-- The home bank applies a store's or an atomic's item: it zeroes the frame if it must, sets the D bits, applies
it, and answers the completion time `max G now` (R141, R362, R367).  An atomic on poisoned bytes is not
performed (R175, R186). (Log entry 39, DEDUCED.) -/
def State.performItem (s : State) (o : Op) (idx : Nat) (i : Item) : State :=
  match o.kind with
  | .store true =>
    let t := s.team o.team
    (s.setTeam o.team { t with spad := t.spad.write i.pieces }).setOp (o.setItem idx { i with done := true })
  | .store false =>
    let c := s.ctx o.ctx
    let s1 := s.own c.num (i.pa / 65536) i.shared
    let s2 := (s1.dirtyAll o.core o.ctx i.dirt).noteAfter o.core o.ctx i.pieces
    let comp := max (s2.lineExpiry c.part i.pa) s2.ns
    { s2 with mem := s2.mem.write i.pieces }.setOp (o.setItem idx { i with done := true, comp := comp })
  | .atomic op w _ fmt mode nf =>
    let c := s.ctx o.ctx
    let s1 := s.own c.num (i.pa / 65536) i.shared
    if s1.mem.poisoned i.pa w then
      { s1 with freeCtr := s1.freeCtr + 1 }.setOp (o.setItem idx
        { i with done := true, comp := s1.ns, res := some (s1.readSlot s1.mem i.pa w i.va),
                 after := s1.mem.extract i.pa w })
    else
      let old := s1.mem.value i.pa w
      let r : Nat × Bool × Byte :=
        match op with
        | .fadd | .fmin | .fmax =>
          let z := op.applyFmt fmt.fmt old (i.x.toNat % 2 ^ (8 * w)) (modeOf mode)
          (z.1, true, if nf then fNone else z.2)
        | _ =>
          let z := op.apply w old (i.x.toNat % 2 ^ (8 * w)) (i.cmp.toNat % 2 ^ (8 * w))
          (z.1, z.2, fNone)
      let s2 := if r.2.1 then
          let ps := piecesOf i.pa w (BitVec.ofNat 64 r.1)
          let t := (s1.dirtyAll o.core o.ctx i.dirt).noteAfter o.core o.ctx ps
          { t with mem := t.mem.write ps }
        else s1.noteAfter o.core o.ctx (piecesOf i.pa w (BitVec.ofNat 64 old))
      let comp := max (s2.lineExpiry c.part i.pa) s2.ns
      (s2.markOwes o idx i).setOp (o.setItem idx
        { i with done := true, comp := comp, res := some { val := BitVec.ofNat 64 old }, flags := r.2.2, after := s2.mem.extract i.pa w })
  | .red op w =>
    let c := s.ctx o.ctx
    let s1 := s.own c.num (i.pa / 65536) i.shared
    if s1.mem.poisoned i.pa w then
      s1.setOp (o.setItem idx { i with done := true, comp := s1.ns, res := some { mark := some (BitVec.ofNat 64 i.va) },
                                       after := s1.mem.extract i.pa w })
    else
      let z := op.apply w (s1.mem.value i.pa w) (i.x.toNat % 2 ^ (8 * w)) 0
      let ps := piecesOf i.pa w (BitVec.ofNat 64 z.1)
      let t := (s1.dirtyAll o.core o.ctx i.dirt).noteAfter o.core o.ctx ps
      let s2 := { t with mem := t.mem.write ps }
      (s2.markOwes o idx i).setOp (o.setItem idx
        { i with done := true, comp := max (s2.lineExpiry c.part i.pa) s2.ns, after := s2.mem.extract i.pa w })
  | _ => s

/-- An item may be performed now: it is not done, no earlier access to one of its bytes stands before it, and its frame and those of
the leaves whose D bits it sets are ready (R145, R362, R367); a prefetch is no access for ordering (R183). -/
def State.itemReady (s : State) (o : Op) (idx : Nat) (i : Item) : Bool :=
  !i.done && (!o.kind.isAccess || !s.blocked o idx i) &&
    (o.kind.onSpad || (s.ownReady (s.ctx o.ctx).part (s.ctx o.ctx).num (i.pa / 65536) i.shared &&
      (o.kind.isLoad || s.leavesReady o.ctx i.dirt)))

/-! ## Completing -/

/-- The value a load fills a lane with, from the bytes read (R178). -/
def extendLoad (t : Nat) (x : Slot) : Slot :=
  let n := x.val.toNat
  { x with val := match t with
    | 1 => BitVec.ofInt 64 (signedOf 32 n)
    | 2 => BitVec.ofInt 64 (signedOf 16 n)
    | 3 => BitVec.ofInt 64 (signedOf 8 n)
    | _ => x.val }

/-- The value that an operation returns for a lane. -/
def Op.result (o : Op) (l : Nat) : Slot :=
  match o.items.find? fun i => i.lane == l with
  | some i => i.res.getD {}
  | none => {}

/-- Write an operation's returned values to its destination (R179, R186, R189). -/
def Gang.deliver (g : Gang) (d : Dst) (f : Nat → Slot) : Gang :=
  match d with
  | .nowhere => g
  | .vec n e => g.setV n ((g.vreg n).merge e f)
  | .scl n => g.setS n (f 0)

/-- Every access of the operation has been performed. -/
def Op.allDone (o : Op) : Bool := o.items.all fun i => i.done

/-- OR flags into the sticky flags of lanes (R51). -/
def Gang.raise (g : Gang) (f : Nat → Byte) : Gang := { g with xf := Vector.ofFn fun l => g.xf[l] ||| f l }

/-- The bytes that an atomic's access left, as the pieces of a store. -/
def Item.left (i : Item) : List Piece := piecesOfBytes i.pa (i.after.bytes i.pa i.w)

/-- An atomic is acknowledged: the copies that owe its bytes take them, with the stores still queued over them (R144,
R154). -/
def State.takeAtomic (s : State) (o : Op) : State :=
  let c := s.core o.core
  let q := s.queued o.core o.ctx s.nextOp
  s.setCore o.core { c with l1 := c.l1.map fun x =>
    let mine := o.items.zipIdx.filter fun p => x.owes.contains (o.id, p.2)
    if mine.isEmpty then x
    else { x with data := ((x.data.writes (mine.map fun p => p.1.left)).writes q).extract (x.line * 128) 128,
                  owes := x.owes.filter fun w => !(w.1 == o.id) } }

/-- A store of a core and context is performed at once: their L1 copies of its line take its bytes, with the stores still
queued over them (R144). -/
def State.takeStore (s : State) (core ctx pa : Nat) (ps : List Piece) : State :=
  let s1 := s.noteAfter core ctx ps
  let q := s1.queued core ctx s1.nextOp
  let c := s1.core core
  s1.setCore core { c with l1 := c.l1.map fun x =>
    if x.ctx = ctx ∧ x.line = pa / 128 then { x with data := ((x.data.write ps).writes q).extract (x.line * 128) 128 } else x }

/-- An operation leaves the flag it is attached to (R77), unless its gang is gone. -/
def State.detachOp (s : State) (o : Op) : State :=
  match tget? s.gangs o.gang with
  | some g => s.setGang o.gang (g.detach o.flag)
  | none => s

/-- An operation of an engine ends: its flag counts one fewer, and carries its report if it has one (R201, R352). -/
def State.endOp (s : State) (o : Op) (r : Option Report) : State :=
  let s1 := (s.detachOp o).dropOp o.id
  match r, tget? s1.gangs o.gang with
  | some x, some g => s1.setGang o.gang (g.setFlag o.flag ((g.flag o.flag).report x))
  | _, _ => s1

/-- A load completes: every lane's value is written to its register (R216). -/
def State.completeLoad (s : State) (o : Op) : State :=
  match o.kind with
  | .load dst t _ =>
    let g := (s.gang o.gang).deliver dst fun l => extendLoad t (o.result l)
    ((s.setGang o.gang g).detachOp o).dropOp o.id
  | _ => s

/-- The reports a RED leaves for poisoned bytes: one for each lane that met them, each raised at a wait of its own (R175). (Log entry 73,
DESIGN CHOICE.) -/
def Op.reports (o : Op) : List Report :=
  o.items.filterMap fun i => match i.res with
    | some { mark := some a, .. } => some { engine := false, addr := a }
    | _ => none

/-- A store or an atomic is acknowledged: the gangs of its team whose later accesses it stands before have its completion time to wait
out (R152, R153). -/
def State.noteSeen (s : State) (o : Op) (comp : Nat) : State :=
  if o.kind.isAcked && !o.items.isEmpty then
    { s with gangs := s.gangs.map fun e =>
        if e.2.team = o.team ∧ e.1 ≠ o.gang ∧ o.id < e.2.seenOp then
          (e.1, { e.2 with seenPend := some (max comp (e.2.seenPend.getD 0)) })
        else e }
  else s

/-- A store or an atomic is acknowledged: its completion time enters P, returned values are written, L1 copies
take an atomic's bytes, flags are delivered and the operation completes (R141, R154, R187, R188, R216). -/
def State.ackOp (s : State) (o : Op) : State :=
  let comp := o.items.foldl (fun c i => max c i.comp) 0
  let s1 := if o.kind.isAtomic then s.takeAtomic o else s
  let g := s1.gang o.gang
  let g1 := if o.kind.isAcked && !o.items.isEmpty then g.notePend comp else g
  let g2 := match o.kind with
    | .atomic _ _ dst _ _ _ =>
      (g1.deliver dst o.result).raise fun l =>
        match o.items.find? fun i => i.lane == l with
        | some i => i.flags
        | none => fNone
    | .red .. =>
      let rs := o.reports
      let g' := { g1 with redReports := g1.redReports ++ rs }
      if o.flag < 12 then g'.setFlag o.flag { g'.flag o.flag with reports := (g'.flag o.flag).reports ++ rs } else g'
    | _ => g1
  (((s1.setGang o.gang g2).noteSeen o comp).detachOp o).dropOp o.id

/-! ## Taking up an access at issue -/

/-- A load's item as it stands at issue: forwarded from the store queue, or a hit in L1, when nothing earlier of
its gang stands before it; otherwise pending (R138, R140, R144). (Log entry 11, DEDUCED.) -/
def State.tryHit (s : State) (o : Op) (idx : Nat) (i : Item) : Item :=
  if s.blocked o idx i then i
  else
    let q := s.queued o.core o.ctx o.id
    if (List.range i.w).all fun k => q.any fun ps => ps.any fun p => decide (p.addr = i.pa + k) && decide (p.mask = 0xFF) then
      let m := (s.mem.extract (i.pa / 8 * 8) 8).writes q
      { i with done := true, res := some (s.readSlot m i.pa i.w i.va) }
    else
      match (s.core o.core).l1.find? fun x =>
          x.ctx == o.ctx && x.line == i.pa / 128 && decide (s.ns < x.expiry) &&
            decide ((s.gang o.gang).va ≤ x.grant) with
      | some x => { i with done := true, res := some (s.readSlot (x.data.writes q) i.pa i.w i.va) }
      | none => i

/-- Put an operation in flight and count it on its flag (R77). -/
def State.issueOp (s : State) (o : Op) : State :=
  let g := s.gang o.gang
  { s with ops := s.ops ++ [o], nextOp := s.nextOp + 1 }.setGang o.gang (g.attach o.flag)

/-- Issue a load: its items hit where they may (R138). -/
def State.issueLoad (s : State) (o : Op) : State :=
  let o1 : Op := if o.kind.onSpad then o else
    { o with items := o.items.zipIdx.map fun p => s.tryHit o p.2 p.1 }
  let bad := o1.items.any fun i => match i.res with
    | some { mark := some _, .. } => true
    | _ => false
  let s1 := if bad then { s with freeCtr := s.freeCtr + 1 } else s
  s1.issueOp o1

/-- Issue a store: it enters the core's store queue and updates its context's L1 copies (R144). -/
def State.issueStore (s : State) (o : Op) : State :=
  let s1 :=
    if o.kind.onSpad then s
    else
      let c := s.core o.core
      s.setCore o.core { c with l1 := c.l1.map fun x =>
        if x.ctx = o.ctx then
          { x with data := x.data.writes ((o.items.filter fun i => i.pa / 128 == x.line).map fun i => i.pieces) }
        else x }
  s1.issueOp o

/-- A load of `n` bytes that a word of a gang makes on its own account may not be performed yet: an earlier access of the
gang stands before it, or its frame is not ready (R145, R367). -/
def State.loadHeld (s : State) (gk : Nat) (shared : Bool) (pa n : Nat) : Bool :=
  let g := s.gang gk
  let o : Op := { id := s.nextOp, gang := gk, team := g.team, core := g.core, ctx := g.ctx, kind := .load .nowhere 0 false }
  s.blocked o 0 { pa := pa, w := n } || !s.ownReady (s.ctx g.ctx).part (s.ctx g.ctx).num (pa / 65536) shared

/-- An access to some of `n` bytes, which must be performed before a word of a gang reads or writes them at their bank, is in flight:
one of the gang's own, or a store or an atomic of the core's queue, whose bytes the gang may have read already, and which a release of
its gang has put before this word (R144, R145, R152). -/
def State.bankHeld (s : State) (gk pa n : Nat) : Bool :=
  let g := s.gang gk
  s.ops.any fun p => p.kind.isAccess && !p.kind.onSpad && p.items.any fun j =>
    ((p.gang == gk && (!j.done || p.kind.isAtomic)) || (p.core == g.core && p.ctx == g.ctx && !p.kind.isLoad && !j.done)) &&
      j.meets { pa := pa, w := n }

/-- A load that a word makes of memory on its own account, read at once where the table of R138 places it: from
the store queue and L1 where it hits, else from its bank with a lease (R66, R138, R241). (Log entry 11, DEDUCED.) -/
def State.loadNow (s : State) (gk : Nat) (shared : Bool) (va pa w : Nat) : State × Slot :=
  let g := s.gang gk
  let i : Item := { va := va, pa := pa, w := w, shared := shared }
  let o : Op := { id := s.nextOp, gang := gk, team := g.team, core := g.core, ctx := g.ctx, kind := .load .nowhere 0 false,
                  items := [i] }
  let h := s.tryHit o 0 i
  if h.done then (s, h.res.getD {})
  else
    let line := pa / 128
    let full := ((s.core g.core).l1.filter fun x => l1Set x.line == l1Set line).map (·.line)
    let s1 := ({ s with ops := s.ops ++ [o] }).serveLoad o 0 i (if full.length < Config.l1Ways then [] else full.take 1) []
    let r := match s1.op? o.id with
      | some o' => o'.result 0
      | none => {}
    (s1.dropOp o.id, r)

end Sys2Proof.Machine
end

