-- ==== Sys2Proof/Machine/Life.lean ====
section
/-! DEFINITION. The life of gangs, teams and grids: slabs (R60 to R64), traps and their entry (R383 to R389), the
exit of lanes and orphans (R42, R107, R332, R333), retirement (R42, R43, R337), and saving, flushing, discarding,
placing and restoring teams (R323, R326, R341, R367 to R372). -/

namespace Sys2Proof.Machine

/-! ## Events to sessions (R435) -/

/-- Send an event to a session; it is discarded when the session is closed. -/
def State.sendEvent (s : State) (sess op : Nat) (body : List Byte) : State :=
  match tget? s.sessions sess with
  | some x =>
    if x.isOpen then
      { s with sessions := tput s.sessions sess { x with events := x.events + 1 } }.send (.event sess 1 op (x.events + 1) body)
    else s
  | none => s

/-- The partition's hypervisor session: the open one of lowest number (R433). -/
def State.hypSession (s : State) (tag : Nat) : Option Nat :=
  (s.sessions.find? fun e => e.2.role == 1 && e.2.tag == tag && e.2.isOpen).map (·.1)

/-! ## Slabs -/

/-- A register holds a slab exactly when it is P (R53). -/
def VReg.isP : VReg → Bool
  | .p _ => true
  | _ => false

/-- The slabs a gang holds (R61). -/
def Gang.slabs (g : Gang) : Nat := (g.v.toList.filter VReg.isP).length

/-- The gangs resident on a core. -/
def State.residents (s : State) (core : Nat) : List (Nat × Gang) :=
  s.gangs.filter fun e => e.2.life == .resident && e.2.core == core

/-- The slabs of the pool that no gang holds and no reserve covers (R60, R61). -/
def State.overdraft (s : State) (core : Nat) : Nat :=
  Config.slabs - ((s.residents core).map fun e => max e.2.slabs e.2.floor).sum

/-- Gang `a` is older than gang `b`: admitted earlier, ties to the lower slot (R62). -/
def State.older (s : State) (a b : Gang) : Bool :=
  let x := (s.team a.team).admitted
  let y := (s.team b.team).admitted
  decide (x < y) || (x == y && decide (a.slot < b.slot))

/-- The gang is owed its turn before gang `gk` at the overdraft: it stalls on a slab, and `gk` does not, or is younger
(R62). -/
def State.owedFirst (s : State) (gk : Nat) (e : Nat × Gang) : Bool :=
  let g := s.gang gk
  !(e.1 == gk) && e.2.wait == .slab && (g.wait != .slab || s.older e.2 g)

/-- A gang may take one more slab now: from its reserve, or from the overdraft once every gang that is owed a slab first
has what its word needs (R61, R62). -/
def State.slabFree (s : State) (gk : Nat) : Bool :=
  let g := s.gang gk
  if g.slabs < g.floor then true
  else
    let ahead := (s.residents g.core).filter (s.owedFirst gk)
    decide (ahead.length < s.overdraft g.core)

/-! ## Waiting -/

/-- The wait is one of those that hold a gang through the interlock, and count in csr.slip (R96). -/
def Wait.slips : Wait → Bool
  | .operand | .slab | .flag | .queue | .grant _ | .fetch _ => true
  | _ => false

/-- The wait of a word that has issued and holds the gang's later groups until it is over. -/
def Wait.issued : Wait → Bool
  | .none | .operand | .slab | .flag | .queue | .grant _ | .fetch _ | .clause _ | .lutswap | .syncm | .trap _ => false
  | _ => true

/-- The word arrives at a team barrier only now, after it has waited for the gang's earlier accesses: it takes a slot for it, so that
no two arrivals of a team fall in one cycle (R346). -/
def Wait.arrivesAfter (w before : Wait) : Bool :=
  match w, before with
  | .bar .., .bar .. => false
  | .bar .., _ => true
  | _, _ => false

/-- A core with one of its issue slots taken in this cycle by gang `gk`, of index `gi` (R328). -/
def Core.take (c : Core) (t : Turn) (gk gi : Nat) : Core :=
  match t with
  | .lane => { c with laneWon := some gk, lastLane := some gi }
  | .uniform => { c with uniWon := some gk, lastUniform := some gi }
  | _ => c

/-- The gang takes the slot it was chosen for in this cycle (R328). -/
def State.useSlot (s : State) (gk : Nat) : State :=
  let g := s.gang gk
  s.setCore g.core ((s.core g.core).take g.turn gk g.gindex)

/-- The gang holds at its current group: it will issue from the group's first word again (R81).  A word whose wait is its
own has issued, and its words stay fetched; a group that the interlock holds has not (R96, R401). -/
def State.hold (s : State) (gk : Nat) (w : Wait) : State :=
  let g := s.gang gk
  let same := decide (g.wait = w)
  let first := w.issued && (!g.wait.issued || w.arrivesAfter g.wait)
  let s1 := if first then s.useSlot gk else s
  s1.setGang gk
    { g with
      cl := g.cl.map fun c => { c with next := c.first, words := if w.issued then c.words else [] }
      latch := none
      wait := w
      waitSince := if same then g.waitSince else s.ns
      turn := .no
      age := if first then 0 else g.age
      lastIssue := if first && !g.began then some s.cyc else g.lastIssue
      began := g.began || first
      chargedAt := if first then some (g.chargedAt.getD s.stepNow) else g.chargedAt
      slip := if w.slips then g.slip + 1 else g.slip }

/-- The operations of a gang that trap entry and RTE wait for: loads, special-function words, matrix operations,
atomics that return a value, XFC and LUTLD (R384). -/
def Op.holdsTrap (o : Op) : Bool :=
  match o.kind with
  | .load .. | .sfu .. | .xfc .. | .lutld .. | .matrix _ => true
  | .atomic _ _ dst _ _ _ => dst != .nowhere
  | _ => false

/-- Every earlier group of the gang has completed as trap entry needs (R384). -/
def State.drained (s : State) (gk : Nat) : Bool := !s.ops.any fun o => o.gang == gk && o.holdsTrap

/-! ## Trap frames (R386) -/

/-- csr.tinfo of a trap (R386). -/
def TrapInfo.word (t : TrapInfo) (level : Nat) : Nat :=
  2 ^ 31 + t.sword * 2 ^ 18 + level * 2 ^ 16 + t.pzn.toNat * 2 ^ 11 + t.fetch.toNat * 2 ^ 10 + t.write.toNat * 2 ^ 9 +
    t.stage2.toNat * 2 ^ 8 + t.next

/-- csr.tpos of a trap (R386). -/
def TrapInfo.pos (t : TrapInfo) : Nat := t.index * 2 ^ 56 + t.clause

/-- INH (R386). -/
def Gang.inh (g : Gang) : Bool := g.frame.info.getLsbD 31

/-- The 64-byte gang fault record (R387). -/
def State.faultRecord (s : State) (gk kind ticket addr : Nat) (t : TrapInfo) : List Byte :=
  let g := s.gang gk
  bytesOfNat 2 1 ++ bytesOfNat 1 g.part ++ bytesOfNat 1 (s.ctx g.ctx).num ++ bytesOfNat 4 (s.team g.team).num ++
    bytesOfNat 1 g.gindex ++ bytesOfNat 1 t.cause ++ bytesOfNat 1 kind ++ bytesOfNat 5 0 ++ bytesOfNat 8 t.pos ++
    bytesOfNat 8 addr ++ bytesOfNat 4 t.mask.toNat ++ bytesOfNat 4 ticket ++ bytesOfNat 8 (t.word g.level) ++
    bytesOfNat 8 (s.ptp / 1000000000 % 2 ^ 48 * 65536) ++ bytesOfNat 4 (s.ptp % 1000000000) ++ bytesOfNat 4 0

/-- Send a FAULT event to the partition's hypervisor session (R387, R389, R435). -/
def State.faultEvent (s : State) (tag : Nat) (body : List Byte) : State :=
  match s.hypSession tag with
  | some n => s.sendEvent n 0x8002 body
  | none => s

/-! ## Lanes leaving, and orphans -/

/-- A trap on a gang's current group (R383). (Log entry 58, DEDUCED.) -/
def Gang.trapAt (g : Gang) (cause : Nat) (addr : Word) (mask : Option Lanes) (next : Nat) : TrapInfo :=
  let c := g.cl.getD {}
  { cause := cause, addr := addr, mask := mask.getD c.active, clause := c.addr, index := c.first, next := next,
    act := c.active }

/-- The gangs of a team that still have live lanes, with their keys. -/
def State.liveGangs (s : State) (tk : Nat) : List (Nat × Gang) :=
  s.gangs.filter fun e => e.2.team == tk && e.2.life != .retired && e.2.live != 0

/-- The gang is blocked in BAR or BARW on barrier `k`, which is in phase `phase`. -/
def Gang.blockedOn (g : Gang) (k phase : Nat) : Bool :=
  match g.wait with
  | .bar j p => j == k && decide (phase ≤ p)
  | .barw j a => j == k && decide (phase ≤ a)
  | _ => false

/-- A barrier of a team. -/
def Team.bar (t : Team) (k : Nat) : Barrier := tget t.bars k {}

/-- Give ORPHAN to a gang at its waiting word (R333). -/
def State.orphan (s : State) (gk : Nat) (addr : Word) : State :=
  let g := s.gang gk
  s.setGang gk { g with wait := .trap (g.trapAt 0x0C addr none ((g.cl.getD {}).first + 1)) }

/-- When every live gang of the team is blocked on barrier `k`, each receives ORPHAN and the arrivals that blocked
gangs made are withdrawn (R333, R348). -/
def State.barOrphans (s : State) (tk k : Nat) : State :=
  let t := s.team tk
  let b := t.bar k
  let live := s.liveGangs tk
  if !live.isEmpty && live.all fun e => e.2.blockedOn k b.phase then
    let back := (live.filter fun e => match e.2.wait with
      | .bar .. => true
      | _ => false).length
    let n := b.arrivals - back
    let b1 : Barrier := { b with arrivals := n, target := if n = 0 then none else b.target }
    let s1 := s.setTeam tk { t with bars := tput t.bars k b1 }
    live.foldl (fun st e => st.orphan e.1 (BitVec.ofNat 64 k)) s1
  else s

/-- The team has arrived at its grid's barrier in phase `p`: some gang has executed GBAR in it, and every live
gang has (R349). -/
def State.teamArrived (s : State) (tk p : Nat) : Bool :=
  (s.gangs.any fun e => e.2.team == tk && e.2.gridPhase == p + 1) &&
    (s.liveGangs tk).all fun e => e.2.gridPhase == p + 1

/-- Release rotation: one step on (R342). -/
def rotate96 (n : Nat) : Nat := if n ≥ 95 then 0 else n + 1

/-- A barrier of the team has completed (R339). -/
def Team.noteBarrier (t : Team) (ns : Nat) : Team := { t with barDone := t.barDone + 1, barLast := ns }

/-- Re-evaluate a team's arrival at its grid's barrier, and the barrier: it completes when all teams have arrived,
and the partition's release rotation advances (R342, R349). -/
def State.gbarArrive (s : State) (tk : Nat) : State :=
  let t := s.team tk
  let gr := s.grid t.grid
  let arrived := if s.teamArrived tk gr.phase then insertNat gr.arrived t.num else gr.arrived
  if gr.record.teams ≤ arrived.length then
    let p := s.part gr.part
    let s1 := s.setGrid t.grid { gr with phase := gr.phase + 1, arrived := [] }
    let s2 : State := { s1.setPart gr.part { p with rho := rotate96 p.rho } with
      teams := s1.teams.map fun e => if e.2.grid = t.grid then (e.1, e.2.noteBarrier s.ns) else e }
    p.slices.foldl (fun st i =>
      let r := st.rail i
      let now := r.gbarRho.filter fun x => x.2.2 == s.stepNow
      st.setRail i { r with gbarRho := (t.grid, p.rho, s.stepNow) :: now }) (s2.noteRho gr.part p.rho)
  else s.setGrid t.grid { gr with arrived := arrived }

/-- A team that has not arrived at the grid's barrier has retired: every gang blocked there receives ORPHAN and
its arrival is withdrawn (R332, R333, R349). -/
def State.gbarOrphans (s : State) (grk : Nat) : State :=
  let gr := s.grid grk
  if gr.gone.any fun n => !gr.arrived.contains n then
    let blocked := s.gangs.filter fun e => e.2.grid == grk && (match e.2.wait with
      | .gbar p => decide (gr.phase ≤ p)
      | _ => false)
    let s1 := blocked.foldl (fun st e =>
      let st1 := st.orphan e.1 (BitVec.ofNat 64 gr.phase)
      st1.setGang e.1 { st1.gang e.1 with gridPhase := 0 }) s
    let gr1 := s1.grid grk
    let stays (n : Nat) : Bool := s1.teams.any fun e =>
      e.2.grid == grk && e.2.num == n && (e.2.life == .retired || s1.teamArrived e.1 gr.phase)
    s1.setGrid grk { gr1 with arrived := gr1.arrived.filter stays }
  else s

/-- Re-evaluate the waits of a team (R333). -/
def State.orphanCheck (s : State) (tk : Nat) : State :=
  let t := s.team tk
  let s1 := (List.range (s.grid t.grid).record.bars).foldl (fun st k => st.barOrphans tk k) s
  let s2 := if s1.gangs.any fun e => e.2.team == tk && decide (0 < e.2.gridPhase) then s1.gbarArrive tk else s1
  s2.gbarOrphans t.grid

/-- Lanes leave the live set (R42, R107): their PCs read all ones, and the team's waits are re-evaluated. -/
def State.exitLanes (s : State) (gk : Nat) (x : Lanes) : State :=
  let g := s.gang gk
  let live := g.live &&& ~~~x
  let g1 : Gang :=
    { g with
      live := live
      yielding := g.yielding &&& live
      pcv := Vector.ofFn fun l => if inSet live l then g.pcv[l] else 0xFFFFFFFFFFFFFFFF
      cl := if live = 0 then none else g.cl.map fun c => { c with active := c.active &&& ~~~x }
      latch := if live = 0 then none else g.latch
      wait := if live = 0 then .none else g.wait }
  (s.setGang gk g1).orphanCheck g.team

/-! ## Traps -/

/-- A double fault: the record goes to the hypervisor session, the gang's lanes retire as by EXIT, and its grid
is marked failed (R387). -/
def State.doubleFault (s : State) (gk : Nat) (t : TrapInfo) : State :=
  let g := s.gang gk
  let s1 := s.faultEvent g.part (s.faultRecord gk (if g.inh then 1 else 0) 0 t.addr.toNat t)
  let gr := s1.grid g.grid
  (s1.setGrid g.grid { gr with failed := true }).exitLanes gk g.live

/-- Entering a handler (R384): the frame is written, the bypass, yielding marks and sync-held groups go to its
hidden part, the level rises, and every live lane stands at csr.tvec. -/
def State.enterTrap (s : State) (gk : Nat) (t : TrapInfo) : State :=
  let g := s.gang gk
  let c := s.ctx g.ctx
  let g0 : Gang := { g with wait := .none, latch := none, cl := none, header := none }
  if g.inh || c.tvec == 0 then (s.setGang gk { g0 with cl := g.cl }).doubleFault gk t
  else
    -- an ORPHAN of a SYNCM group dissolves the group (R351)
    let groups := if t.cause = 0x0C ∧ t.index = 31 then g.groups.filter fun q => q.arrived != t.mask || q.mask.toNat != t.addr.toNat
      else g.groups
    s.setGang gk
      { g0 with
        frame := { cause := t.cause, pos := BitVec.ofNat 64 t.pos, mask := t.mask, addr := t.addr,
                   info := BitVec.ofNat 32 (t.word g.level), act := t.act, pcv := g.pcv, scr := g.frame.scr }
        hidden := { bp := g.bp, pushes := g.pushes, yielding := g.yielding, groups := groups }
        bp := []
        pushes := 0
        groups := []
        staged := []
        level := max 1 g.level
        pcv := Vector.ofFn fun l => if inSet g.live l then c.tvec else g.pcv[l]
        yielding := 0 }

/-- Enter the trap a gang holds, once every earlier group has completed (R384). -/
def State.tryTrap (s : State) (gk : Nat) : State :=
  match (s.gang gk).wait with
  | .trap t => if s.drained gk then s.enterTrap gk t else s
  | _ => s

/-- A tenant's XLATE, PERM or IFETCH whose failure lies at stage 2 (R389). -/
def State.isStage2 (s : State) (gk : Nat) (t : TrapInfo) : Bool :=
  t.stage2 && (s.ctx (s.gang gk).ctx).num != 0 && (t.cause == 0x09 || t.cause == 0x0A || t.cause == 0x0B)

/-- The tickets of a partition's outstanding stage-2 faults (R389). -/
def State.outstanding (s : State) (tag : Nat) : List Nat :=
  (s.teams.filter fun e => e.2.part == tag).flatMap fun e =>
    (match e.2.wake with
      | .ticket n => [n]
      | _ => []) ++ (match e.2.stopping with
      | some (.save (.ticket n)) => [n]
      | _ => [])

/-- A ticket that names no outstanding fault of the partition: the next number, past those that do (R389). -/
def State.newTicket (s : State) (tag : Nat) : Nat :=
  let l := s.outstanding tag
  let next := (s.part tag).tickets + 1
  (((List.range (l.length + 1)).map fun i => (next + i) % 2 ^ 32).find? fun n => !l.contains n).getD 0

/-- A stage-2 fault of a tenant: the event goes to the hypervisor session with a ticket, and the team is to be
saved until the session releases it; its clause position names the faulting group (R326, R389). -/
def State.stage2Fault (s : State) (gk : Nat) (t : TrapInfo) (ia : Nat) : State :=
  let g := s.gang gk
  let p := s.part g.part
  let n := s.newTicket g.part
  let s1 := s.setPart g.part { p with tickets := n }
  let s2 := s1.faultEvent g.part (s1.faultRecord gk 2 n ia t)
  let tm := s2.team g.team
  let s3 := s2.setTeam g.team { tm with stopping := some (.save (.ticket n)), stopFrom := s2.nextOp }
  s3.setGang gk { g with wait := .none, latch := none, cl := g.cl.map fun c => { c with next := c.first },
                         resumeTrap := some t }

/-- A trap of a gang: a stage-2 fault of a tenant, or a trap to enter when every earlier group has completed
(R384, R389).  `ia` is the intermediate address a stage-2 fault reports. -/
def State.raiseTrap (s : State) (gk : Nat) (t : TrapInfo) (ia : Nat) : State :=
  if s.isStage2 gk t then s.stage2Fault gk t ia
  else
    let g := s.gang gk
    (s.setGang gk
      { g with cl := g.cl.map fun c => { c with next := c.first }, latch := none, wait := .trap t,
               waitSince := s.ns }).tryTrap gk

/-! ## What a team holds on its core -/

/-- The context that used a scratchpad block of 256 bytes last, plus one (R368). -/
def Core.blockOwner (c : Core) (blk : Nat) : Nat := tget c.spadOwner blk 0

/-- Scratchpad as a placed team finds it: bytes that another context's team used last are zero (R368). -/
def Core.spadFor (c : Core) (ctx base len : Nat) : Memory :=
  let kept := (List.range (len / 256)).foldl
    (fun (m : Memory) i => if c.blockOwner (base / 256 + i) = ctx + 1 then m else m.zero (base + i * 256) 256)
    (c.leftSpad.extract base len)
  ({} : Memory).overlay kept base 0

/-- The residue a context finds in an accumulator, barrier or handle: zero when another context held it (R368). -/
def residue {α : Type} (t : Tbl (Nat × α)) (i ctx : Nat) (zero : α) : α :=
  match tget? t i with
  | some (c, x) => if c = ctx then x else zero
  | none => zero

/-- What the teams resident on a core use of a resource. -/
def State.inUse (s : State) (core : Nat) (f : Team → List Nat) : List Nat :=
  (s.teams.filter fun e => e.2.life == .resident && e.2.core == core).flatMap fun e => f e.2

/-- What is in use of a core's buffer handles: those of its resident teams, and those of teams that have left while a
round on their handles is open (R337). -/
def State.handlesInUse (s : State) (core : Nat) : List Nat :=
  (s.teams.filter fun e => e.2.core == core && (e.2.life == .resident ||
    ((e.2.life == .record || e.2.life == .retired) && e.2.handles.any fun h => h.2.isOpen))).flatMap fun e => e.2.hIdx

/-- The lowest `n` free indices below `m`. (Log entry 22, DESIGN CHOICE.) -/
def lowestFree (used : List Nat) (m n : Nat) : List Nat :=
  ((List.range m).filter fun i => !used.contains i).take n

/-- The scratchpad ranges in use on a core. -/
def State.spadRanges (s : State) (core : Nat) : List (Nat × Nat) :=
  (s.teams.filter fun e => e.2.life == .resident && e.2.core == core && decide (0 < e.2.spadLen)).map
    fun e => (e.2.spadBase, e.2.spadLen)

/-- The lowest base at which `len` free scratchpad bytes lie, in blocks of 256 (log entry 22, DESIGN CHOICE). -/
def State.spadFit (s : State) (core len : Nat) : Option Nat :=
  let used := s.spadRanges core
  (0 :: used.map fun r => r.1 + r.2).foldl
    (fun best b =>
      if b + len ≤ Config.spadBytes ∧ !(used.any fun r => overlap b len r.1 r.2) then
        match best with
        | none => some b
        | some x => some (min x b)
      else best) none

/-- The team's resources go back to the core: what it left there stays, marked with its context (R368). -/
def Core.leave (c : Core) (t : Team) : Core :=
  { c with
    leftSpad := (c.leftSpad.zero t.spadBase t.spadLen).overlay t.spad 0 t.spadBase
    spadOwner := (List.range (t.spadLen / 256)).foldl
      (fun o i => tput o (t.spadBase / 256 + i) (t.ctx + 1)) c.spadOwner
    leftAcc := (t.accIdx.zipIdx).foldl (fun o p => tput o p.1 (t.ctx, t.acc.toList.getD p.2 {})) c.leftAcc
    leftBar := (t.barIdx.zipIdx).foldl (fun o p => tput o p.1 (t.ctx, t.bar p.2)) c.leftBar
    leftHandle := (t.hIdx.zipIdx).foldl (fun o p =>
      tput o p.1 (t.ctx, let h := tget t.handles p.2 {}; if h.isOpen then {} else h)) c.leftHandle }

/-- The time a slice clock shows (R370). -/
def SliceClock.now (c : SliceClock) (ns : Nat) : Nat := c.count + (match c.since with
  | some t => ns - t
  | none => 0)

/-- A context's slice clock runs on a core where a team of it is resident, while its slice is not 0 (R370). -/
def State.startSlice (s : State) (core ctx : Nat) : State :=
  let c := s.core core
  let k := tget c.slices ctx {}
  if (s.ctx ctx).tslice = 0 ∨ k.since.isSome = true then s
  else s.setCore core { c with slices := tput c.slices ctx { k with since := some s.ns } }

/-- The slice clock stops when the last team of its context leaves the core (R370). -/
def Core.pauseSlice (c : Core) (ctx ns : Nat) : Core :=
  match tget? c.slices ctx with
  | some k => { c with slices := tput c.slices ctx { count := k.now ns } }
  | none => c

/-- The class-3 tokens of a partition go to teams in the order of request (R416). -/
def State.grantTokens (s : State) (tag : Nat) : Nat → State
  | 0 => s
  | n + 1 =>
    let p := s.part tag
    let held := (s.teams.filter fun e => e.2.part == tag && e.2.token).length
    match p.tokenQueue with
    | [] => s
    | t :: r =>
      if held < p.tokens * p.size then
        State.grantTokens ((s.setPart tag { p with tokenQueue := r }).setTeam t { s.team t with token := true }) tag n
      else s

/-- A team that retires, or leaves its core to run again, gives up its class-3 token or its request for one (R416). -/
def State.dropToken (s : State) (tk : Nat) : State :=
  let t := s.team tk
  let p := s.part t.part
  let queue := p.tokenQueue.filter fun k => k != tk
  ((s.setPart t.part { p with tokenQueue := queue }).setTeam tk { t with token := false }).grantTokens t.part queue.length

/-- The team leaves its core: its resources are free (R42, R337, R371). -/
def State.leaveCore (s : State) (tk : Nat) : State :=
  let t := s.team tk
  if t.life = .resident then
    let last := !s.teams.any fun e => !(e.1 == tk) && e.2.life == .resident && e.2.core == t.core && e.2.ctx == t.ctx
    let c := (s.core t.core).leave t
    let s1 := s.setCore t.core (if last then c.pauseSlice t.ctx s.ns else c)
    let p := s1.part t.part
    s1.setPart t.part
      { p with
        reservation := match p.reservation with
          | some (r, c) => if r = tk then none else some (r, c)
          | none => none }
  else s

/-! ## COPY rounds of a team -/

/-- A handle of a team. -/
def Team.handle (t : Team) (h : Nat) : Handle := tget t.handles h {}

/-- Some round on the team's handles has not ended. -/
def Team.roundsOpen (t : Team) : Bool := t.handles.any fun e => e.2.isOpen

/-- A round closes: its range runs from the lowest slice start to the highest slice end, over slices of nonzero length
(R197). -/
def Handle.close (h : Handle) : Handle :=
  let l := h.slices.filter fun x => decide (0 < x.len)
  { h with closed := true, lo := ((l.map fun x => x.spoff).min?).getD 0,
           hi := ((l.map fun x => x.spoff + x.len).max?).getD 0 }

/-- Close each open round to which every expected gang has contributed or which it has left by retiring; the
round's slice list then stands and its range is fixed (R197, R199). -/
def State.closeRounds (s : State) (tk : Nat) : State :=
  let t := s.team tk
  let fix (h : Handle) : Handle :=
    if h.isOpen && !h.closed && h.expected.all fun gk =>
        (h.slices.any fun x => x.gang == gk) || (s.gang gk).life == .retired then
      h.close
    else h
  s.setTeam tk { t with handles := t.handles.map fun e => (e.1, fix e.2) }

/-! ## Retirement -/

/-- The child grids of a team that have not retired, those of a run that was flushed among them (R43, R341). -/
def Team.openChildren (t : Team) : Nat := (t.children.filter fun e => !t.doneChildren.contains e.1).length + t.oldChildren.length

/-- A child grid of a team has retired: one of a flushed run counts no more, and the new run does not see it (R39, R43). -/
def Team.childDone (t : Team) (grid child : Nat) : Team :=
  if t.oldChildren.contains grid then { t with oldChildren := t.oldChildren.erase grid }
  else { t with doneChildren := insertNat t.doneChildren child }

/-- Remove a gang's or team's slot in an ended grid. -/
def State.forgetGrid (s : State) (grk : Nat) : State :=
  { s with gangs := s.gangs.filter fun e => !(e.2.grid == grk && e.2.life == .retired),
           teams := s.teams.filter fun e => !(e.2.grid == grk && e.2.life == .retired && !e.2.roundsOpen) }

/-- A team retires, with its grid and what that lets retire above it (R43, R435).  `fuel` bounds the nesting
depth (R44). -/
def State.retireTeam : Nat → Nat → State → State
  | 0, _, s => s
  | fuel + 1, tk, s =>
    let t := s.team tk
    let gone := (s.gangs.all fun e => !(e.2.team == tk) || e.2.life == .retired)
    -- a team that was flushed has not run again yet
    if !gone || t.life = .retired || t.life = .queued then s
    else if 0 < t.openChildren then
      -- the team remains only as a record (R337), with its token: it has not retired (R416)
      if t.life = .resident then (s.leaveCore tk).setTeam tk { t with life := .record, stopping := none } else s
    else
      let s1 := ((s.leaveCore tk).dropToken tk).setTeam tk { t with life := .retired, stopping := none, token := false }
      let gr := s1.grid t.grid
      let s2 := s1.setGrid t.grid
        { gr with retiredTeams := gr.retiredTeams + 1, gone := insertNat gr.gone t.num, lives := gr.lives + 1,
                  lifeSum := gr.lifeSum + (s1.ns - t.placedNs) }
      let s3 := s2.gbarOrphans t.grid
      let gr3 := s3.grid t.grid
      if gr3.retiredTeams < gr3.record.teams then s3
      else
        let s4 := s3.setGrid t.grid { gr3 with retired := true }
        let s5 := match gr3.sess with
          | some n => s4.sendEvent n 0x8001 (bytesOfNat 8 gr3.number ++ bytesOfNat 1 gr3.failed.toNat)
          | none => s4
        let s6 := s5.forgetGrid t.grid
        match gr3.parent with
        | none => s6
        | some pk =>
          State.retireTeam fuel pk (s6.setTeam pk ((s6.team pk).childDone t.grid gr3.child))

/-- A gang leaves its slot: the cycles it held it count for its context (R377). -/
def State.noteOcc (s : State) (gk : Nat) : State :=
  let g := s.gang gk
  let k := s.cluster (clusterOf g.core)
  if g.life = .resident then
    s.setCluster (clusterOf g.core)
      { k with occ := tput k.occ g.ctx (tget k.occ g.ctx 0 + (s.cyc - max g.placedCyc k.acctCyc)) }
  else s

/-- A gang retires: it frees its slot, slabs and reserve (R42).  The rounds and waits of its team are looked at
again, and the team retires when it can (R43, R199, R333). -/
def State.retireGang (s : State) (gk : Nat) : State :=
  let g := s.gang gk
  let s1 := (s.noteOcc gk).setGang gk { g with life := .retired, v := Vector.replicate 96 (.u 0), cl := none, latch := none, wait := .none }
  State.retireTeam 12 g.team ((s1.closeRounds g.team).orphanCheck g.team)

/-- The gang may retire: no live lane, none of its attached or register operations in flight, its stores
acknowledged and past their completion times (R42, R46, R107). -/
def State.mayRetire (s : State) (gk : Nat) : Bool :=
  let g := s.gang gk
  g.life == .resident && g.live == 0 && (match g.pend with
      | some p => decide (p ≤ s.ns)
      | none => true) &&
    !s.ops.any fun o => o.gang == gk && (decide (o.flag < 12) || o.kind.isAccess || o.holdsTrap)

/-! ## Saving, flushing, discarding -/

/-- The gang's part of stopping is done: its loads, special-function words and matrix operations have completed,
its stores are acknowledged and past their completion times (R150, R371); and so that it reads nothing older elsewhere, the stores
of its core's queue that were forwarded to it have been performed (R144, R145). -/
def State.quiet (s : State) (gk : Nat) (release : Bool) : Bool :=
  let g := s.gang gk
  !(s.ops.any fun o => o.gang == gk && (o.holdsTrap || (release && o.kind.isAcked) || o.kind.isAccess)) &&
    (!release || ((match g.pend with
      | some p => decide (p ≤ s.ns)
      | none => true) &&
      !s.ops.any fun o => o.core == g.core && o.ctx == g.ctx && o.kind == .store false &&
        decide (o.id < (s.team g.team).stopFrom) && !o.allDone))

/-- The wait that a saved gang keeps: a BAR or GBAR waits on for the phase it arrived in (R336, R371), a BARW for the phase
that its wake condition names (R326), a held trap stays; any other wait issues again (R371). -/
def Wait.kept : Wait → Wait
  | .bar k p => .bar k p
  | .barw k a => .barw k a
  | .gbar p => .gbar p
  | .trap t => .trap t
  | _ => .none

/-- The word has recorded an arrival, and does not issue again when its gang is restored (R371). -/
def Wait.arrived : Wait → Bool
  | .bar .. | .gbar _ => true
  | _ => false

/-- A gang as it is saved (R371); staged copies go (R71), and so does its request for boost (R418); what its clause's prefetch word
names is part of the clause, and is staged at its last word as ever (R70).  (Log entry 23, DESIGN CHOICE.) -/
def Gang.saved (g : Gang) : Gang :=
  { g with
    life := .saved
    pend := none
    seenPend := none
    staged := []
    latch := none
    boostReq := 0
    header := none
    cl := g.cl.map fun c => { c with next := c.first, words := if g.wait.arrived then c.words else [] }
    wait := g.wait.kept }

/-- The gangs of a team that are resident. -/
def State.teamGangs (s : State) (tk : Nat) : List (Nat × Gang) :=
  s.gangs.filter fun e => e.2.team == tk && e.2.life == .resident

/-- Finish stopping a team whose gangs are quiet: it is saved with its wake condition, queued to start afresh, or
discarded (R326, R341, R371, R434). (Log entry 23, DESIGN CHOICE.)  A grid barrier that the team had arrived at keeps its arrival
across a flush. (Log entry 72, DESIGN CHOICE.)  A COPY round that a flush finds open and not closed goes. (Log entry 82, DESIGN CHOICE.) -/
def State.finishStop (s : State) (tk : Nat) : State :=
  let t := s.team tk
  match t.stopping with
  | none => s
  | some (.save w) =>
    if (s.teamGangs tk).all fun e => s.quiet e.1 true then
      let s1 := ((s.leaveCore tk).dropToken tk).setTeam tk
        { t with life := .saved, wake := w, stopping := none, token := false, drainBy := none, headSince := none }
      (s.teamGangs tk).foldl (fun st e => (st.noteOcc e.1).setGang e.1 (st.gang e.1).saved) s1
    else s
  | some .flush =>
    if (s.teamGangs tk).all fun e => s.quiet e.1 false then
      let s0 := (s.teamGangs tk).foldl (fun st e => st.noteOcc e.1) s
      let s1 := ((s0.leaveCore tk).dropToken tk).setTeam tk
        { t with life := .queued, wake := .ready, stopping := none, token := false, drainBy := none, gangs := [],
                 headSince := none, launches := 0, children := [], doneChildren := [],
                 oldChildren := t.oldChildren ++ (t.children.filter fun e => !t.doneChildren.contains e.1).map (·.2),
                 handles := t.handles.map fun e => (e.1, if e.2.isOpen && !e.2.closed then {} else e.2) }
      { s1 with gangs := s1.gangs.filter fun e => !(e.2.team == tk) }
    else s
  | some .discard =>
    if (s.teamGangs tk).all fun e => s.quiet e.1 false then
      let s1 := ((s.teamGangs tk).foldl (fun st e => st.noteOcc e.1) s).leaveCore tk |>.dropToken tk
      { s1 with
        teams := tdel s1.teams tk
        gangs := s1.gangs.filter fun e => !(e.2.team == tk)
        -- a card that was handed off still becomes a job (R434)
        ops := s1.ops.filter fun o => !(o.team == tk) || o.kind.isChapp }
    else s

/-- Stop a team (R371): its gangs issue no more, and it leaves once they are quiet. -/
def State.stopTeam (s : State) (tk : Nat) (why : Stop) : State :=
  let t := s.team tk
  if t.life = .resident then (s.setTeam tk { t with stopping := some why, stopFrom := s.nextOp }).finishStop tk else s

/-- Gangs that may issue: resident, with a live lane, in a team that is not being stopped, of a partition that runs (R397). -/
def State.runnable (s : State) (g : Gang) : Bool :=
  g.life == .resident && g.live != 0 && (s.team g.team).stopping.isNone && !(s.part g.part).stopped

/-- What comes about without being an event of its own: held traps are entered and stopped teams leave. -/
def State.settle (s : State) : State :=
  let s1 := s.teams.foldl (fun st e => if e.2.stopping.isSome then st.finishStop e.1 else st) s
  s1.gangs.foldl (fun st e => match e.2.wait with
    | .trap _ => if st.runnable (st.gang e.1) then st.tryTrap e.1 else st
    | _ => st) s1

/-! ## Placing and restoring -/

/-- The number of gangs of a team (R26). -/
def LaunchRec.gangs (r : LaunchRec) : Nat := (r.threads + 31) / 32

/-- A team's save footprint F (R369). -/
def LaunchRec.footprint (r : LaunchRec) : Nat :=
  4096 + r.spad + 16384 * r.accs + r.gangs * (4096 + 256 * 96)

/-- The length of a context's save region (R369). -/
def Ctx.saveRegion (c : Ctx) : Nat := if c.savelen = 0 then 32 * 2 ^ 20 else c.savelen.toNat

/-- What the context's placed teams have reserved in its save region (R369). -/
def State.reserved (s : State) (ctx : Nat) : Nat :=
  ((s.teams.filter fun e => e.2.ctx == ctx && (e.2.life == .resident || e.2.life == .saved)).map
    fun e => (s.grid e.2.grid).record.footprint).sum

/-- The free gang slots of a core (R15, R27). -/
def State.freeSlots (s : State) (core : Nat) : List Nat :=
  lowestFree ((s.residents core).map fun e => e.2.slot) Config.slots Config.slots

/-- The gangs a team must find slots for, and the slabs they need: all of a new team's, or those of a saved one
with what they held (R64, R323). -/
def State.teamNeeds (s : State) (tk : Option Nat) (r : LaunchRec) : Nat × Nat :=
  match tk with
  | none => (r.gangs, r.gangs * r.wfloor)
  | some k =>
    if (s.team k).life = .saved then
      let gs := s.gangs.filter fun e => e.2.team == k && e.2.life == .saved
      (gs.length, (gs.map fun e => max e.2.slabs e.2.floor).sum)
    else (r.gangs, r.gangs * r.wfloor)

/-- The overdraft that is left once the gangs stalled on slabs have taken what their words need (R62).
(Log entry 8, DEDUCED.) -/
def State.spareSlabs (s : State) (core : Nat) : Nat :=
  s.overdraft core - ((s.residents core).filter fun e => e.2.wait == .slab).length

/-- A team of record `r` fits a core now (R27, R323). (Log entry 8, DEDUCED.) -/
def State.fits (s : State) (core : Nat) (tk : Option Nat) (r : LaunchRec) : Bool :=
  let n := s.teamNeeds tk r
  decide (n.1 ≤ (s.freeSlots core).length) && (s.spadFit core r.spad).isSome &&
    decide ((s.inUse core Team.accIdx).length + r.accs ≤ Config.accTiles) &&
    decide ((s.inUse core Team.barIdx).length + r.bars ≤ Config.barriers) &&
    decide ((s.handlesInUse core).length + r.handles ≤ Config.handles) && decide (n.2 ≤ s.spareSlabs core)

/-- The lanes of gang `i` of a team that are live from the start (R26). -/
def startLanes (threads i : Nat) : Lanes := BitVec.ofNat 32 (2 ^ min 32 (threads - 32 * i) - 1)

/-- A gang as it starts (R39 to R41). -/
def State.newGang (s : State) (tk core slot i : Nat) : Gang :=
  let t := s.team tk
  let gr := s.grid t.grid
  let r := gr.record
  let live := startLanes r.threads i
  let sv (n : Fin 256) : Slot := { val :=
    match n.val with
    | 0 => r.args
    | 1 => BitVec.ofNat 64 t.num
    | 2 => BitVec.ofNat 64 (r.threads * 2 ^ 16 + r.gangs * 2 ^ 8 + i)
    | 3 => BitVec.ofNat 64 (r.teams * 2 ^ 32 + gr.depth)
    | _ => 0 }
  { team := tk, gindex := i, slot := slot, core := core, grid := t.grid, ctx := t.ctx, part := t.part, level := gr.level,
    live := live, pcv := Vector.ofFn fun l => if inSet live l then BitVec.ofNat 64 r.entry else 0xFFFFFFFFFFFFFFFF,
    s := Vector.ofFn sv, ef := r.ef, seed := r.seed, va := s.ns, floor := r.wfloor, drawMax := r.drawMax,
    placedCyc := s.cyc }

/-- A context has no team on a core. -/
def State.ctxAbsent (s : State) (core ctx : Nat) : Bool :=
  !s.teams.any fun e => e.2.life == .resident && e.2.core == core && e.2.ctx == ctx

/-- A team of a context arrives on a core: when it is the first there, its function-table banks are zeroed (R287, R368), and
its slice clock runs (R370). -/
def State.arriveTables (s : State) (core ctx : Nat) : State :=
  (if s.ctxAbsent core ctx then
    let c := s.core core
    s.setCore core { c with luts := tput c.luts ctx {} }
  else s).startSlice core ctx

/-- Give a team its resources on a core: the lowest free ones, holding what their last owner left or zero (R39,
R368; log entry 22, DESIGN CHOICE).  A restored team brings its own contents. -/
def State.takeCore (s : State) (tk core : Nat) (restore : Bool) : State :=
  let t := s.team tk
  let r := (s.grid t.grid).record
  let c := s.core core
  let base := (s.spadFit core r.spad).getD 0
  let ai := lowestFree (s.inUse core Team.accIdx) Config.accTiles r.accs
  let bi := lowestFree (s.inUse core Team.barIdx) Config.barriers r.bars
  let hi := lowestFree (s.handlesInUse core) Config.handles r.handles
  let t1 : Team := { t with core := core, life := .resident, spadBase := base, spadLen := r.spad, accIdx := ai, barIdx := bi,
                            hIdx := hi, placedNs := s.ns, barDone := 0, barFirst := s.ns, barLast := s.ns,
                            headSince := none, admitted := s.nextOrder, requeue := t.order, wake := .ready }
  let t2 : Team :=
    if restore then t1
    else
      { t1 with
        spad := c.spadFor t.ctx base r.spad
        acc := Vector.ofFn fun i => match ai[i.val]? with
          | some j => residue c.leftAcc j t.ctx {}
          | none => {}
        bars := (bi.zipIdx).map fun p => (p.2, residue c.leftBar p.1 t.ctx {})
        handles := (hi.zipIdx).map fun p => (p.2, residue c.leftHandle p.1 t.ctx {}) }
  { (s.arriveTables core t.ctx) with nextOrder := s.nextOrder + 1 }.setTeam tk t2

/-- Place a team that starts at its entry (R39, R323). -/
def State.placeNew (s : State) (tk core : Nat) : State :=
  let r := (s.grid (s.team tk).grid).record
  let slots := (s.freeSlots core).take r.gangs
  let s1 := s.takeCore tk core false
  let s2 := (slots.zipIdx).foldl (fun (st : State) p =>
    let k := st.nextKey
    let st1 := { st with nextKey := k + 1 }.setGang k (st.newGang tk core p.1 p.2)
    let t := st1.team tk
    st1.setTeam tk { t with gangs := t.gangs ++ [k] }) s1
  s2

/-- Restore a saved team: a .p acquire for each gang (R64, R73, R150, R372). -/
def State.restore (s : State) (tk core : Nat) : State :=
  let gs := s.gangs.filter fun e => e.2.team == tk && e.2.life == .saved
  let slots := (s.freeSlots core).take gs.length
  let s1 := s.takeCore tk core true
  (gs.zip slots).foldl (fun (st : State) p =>
    st.setGang p.1.1 { p.1.2 with life := .resident, core := core, slot := p.2, va := s.ns, pend := none, waitSince := s.ns,
                                  turn := .fresh, lastIssue := some s.cyc, placedCyc := s.cyc }) s1

/-- The wake condition of a saved team holds (R326), and no round on its handles is open (R371). -/
def State.awake (s : State) (tk : Nat) : Bool :=
  let t := s.team tk
  !t.roundsOpen && !(s.ctx t.ctx).stopped && (match t.wake with
    | .ready => true
    | .barrier p => decide (p < (s.grid t.grid).phase) || (s.gangs.any fun e => e.2.team == tk && (match e.2.wait with
        | .bar k q => decide (q < (t.bar k).phase)
        | .barw k a => decide (a < (t.bar k).phase)
        | .trap _ => true
        | _ => false))
    | .child ns => ns.any fun n => t.doneChildren.contains n
    | .ticket _ => false
    | .reforge => match (s.part t.part).reforge with
      | some r => r.ticked && !r.stop
      | none => true)

/-- A team the dispatcher may place: an existing one that is queued or saved and awake, or the next team of a grid. -/
inductive Waiting where
  | team (tk : Nat)
  | grid (grk : Nat)
  deriving DecidableEq, Repr

/-- Insert by key: greater priority first, then the lower order. -/
def insertBy (x : Nat × Nat × Waiting) : List (Nat × Nat × Waiting) → List (Nat × Nat × Waiting)
  | [] => [x]
  | y :: r => if y.1 < x.1 ∨ (y.1 = x.1 ∧ x.2.1 < y.2.1) then x :: y :: r else y :: insertBy x r

/-- The dispatcher's order in a partition (R322, R323); ember work stands below queue 0 (R415). -/
def State.dispatchOrder (s : State) (tag : Nat) : List Waiting :=
  let old := (s.teams.filter fun e => e.2.part == tag && (e.2.life == .saved || e.2.life == .queued) && e.2.stopping.isNone &&
      s.awake e.1).map fun e => (if e.2.ember then 0 else (s.grid e.2.grid).record.queue + 1, e.2.requeue, Waiting.team e.1)
  let new := (s.grids.filter fun e => e.2.part == tag && !e.2.retired && decide (e.2.nextTeam < e.2.record.teams) &&
      !(s.ctx e.2.ctx).stopped).map
    fun e => (if e.2.ember.isSome then 0 else min 7 (e.2.record.queue + e.2.age) + 1, e.2.order, Waiting.grid e.1)
  ((old.foldl (fun l x => insertBy x l) []) ++ (new.foldl (fun l x => insertBy x l) [])).map (·.2.2)

/-- The launch record of a waiting team. -/
def State.waitingRec (s : State) : Waiting → LaunchRec
  | .team tk => (s.grid (s.team tk).grid).record
  | .grid grk => (s.grid grk).record

/-- The context of a waiting team. -/
def State.waitingCtx (s : State) : Waiting → Nat
  | .team tk => (s.team tk).ctx
  | .grid grk => (s.grid grk).ctx

/-- The cores of a partition that accept teams: not fenced, and not on a slice that a reforge is taking away; none of a partition that
is stopped, or that the fence under way stops (R374, R397). -/
def State.openCores (s : State) (tag : Nat) : List Nat :=
  let p := s.part tag
  if p.stopped || decide (s.dev.stage < 4) then []
  else
    (s.coresOf p).filter fun c =>
      match p.reforge with
      | some r => decide (r.first ≤ coreSlice c) && decide (coreSlice c < r.first + r.size) &&
          !(r.fenceUnit == some (unitWord 0 c)) && !r.stop
      | none => true

/-- A waiting team's reservation room (R369): a saved team keeps the one it has. -/
def State.mayReserve (s : State) (w : Waiting) : Bool :=
  match w with
  | .team tk =>
    (s.team tk).life == .saved ||
      decide (s.reserved (s.team tk).ctx + (s.waitingRec w).footprint ≤ (s.ctx (s.team tk).ctx).saveRegion)
  | .grid grk =>
    decide (s.reserved (s.grid grk).ctx + (s.waitingRec w).footprint ≤ (s.ctx (s.grid grk).ctx).saveRegion)

/-- The key of a waiting team that already exists. -/
def Waiting.key? : Waiting → Option Nat
  | .team tk => some tk
  | .grid _ => none

/-- The identity under which a waiting team reserves a core. -/
def Waiting.ident : Waiting → Nat
  | .team tk => tk
  | .grid grk => grk

/-- The waiting team is an ember team (R415). -/
def State.waitingEmber (s : State) : Waiting → Bool
  | .team tk => (s.team tk).ember
  | .grid grk => (s.grid grk).ember.isSome

/-- The cores that fit a waiting team, reserved cores apart (R323, R324); an ember team goes to candidate cores only
(R415). -/
def State.fitting (s : State) (tag : Nat) (w : Waiting) : List Nat :=
  if s.mayReserve w then
    (s.openCores tag).filter fun c =>
      s.fits c w.key? (s.waitingRec w) && (!s.waitingEmber w || (s.core c).candidate) &&
        match (s.part tag).reservation with
        | some (r, rc) => !(rc == c) || r == w.ident
        | none => true
  else []

/-- Of the cores that fit, the one with the fewest free slots, then the first at or after the start index (R323). -/
def State.bestCore (s : State) (tag : Nat) (cs : List Nat) : Option Nat :=
  let start := (s.part tag).start
  let key (c : Nat) : Nat := (s.freeSlots c).length * 1000 + (c + Config.cores - start) % Config.cores
  cs.foldl (fun best c => match best with
    | none => some c
    | some b => if key c < key b then some c else some b) none

/-- The core after one, cyclically over a partition's cores (R323). -/
def nextCore (cs : List Nat) (c : Nat) : Nat :=
  match cs.find? fun x => decide (c < x) with
  | some x => x
  | none => cs.headD c

/-- Place a waiting team on a core; the start index advances (R323), and a reservation that the team holds ends, on whichever core it
stands (R324; log entry 82, DESIGN CHOICE). -/
def State.placeOn (s : State) (tag : Nat) (w : Waiting) (core : Nat) : State :=
  let p := s.part tag
  let s1 := s.setPart tag
    { p with start := nextCore (s.coresOf p) p.start,
             reservation := match p.reservation with
               | some (r, c) => if r = w.ident then none else some (r, c)
               | none => none }
  match w with
  | .team tk => if (s.team tk).life = .saved then s1.restore tk core else s1.placeNew tk core
  | .grid grk =>
    let gr := s1.grid grk
    let tk := s1.nextKey
    let t : Team := { grid := grk, num := gr.nextTeam, ctx := gr.ctx, part := gr.part, order := s1.nextOrder,
                      requeue := s1.nextOrder, ember := gr.ember.isSome }
    ({ s1 with nextKey := tk + 1 }.setGrid grk { gr with nextTeam := gr.nextTeam + 1, headSince := none }).setTeam tk t
      |>.placeNew tk core

/-- The first waiting team in the dispatcher's order that fits a core, and that core (R323). -/
def State.placeable (s : State) (tag : Nat) : Option (Waiting × Nat) :=
  (s.dispatchOrder tag).foldl (fun found w =>
    match found with
    | some x => some x
    | none => (s.bestCore tag (s.fitting tag w)).map fun c => (w, c)) none

end Sys2Proof.Machine
end

