-- ==== Sys2Proof/Machine/Bellows.lean ====
section
/-! DEFINITION. Bellows: what a core needs (R408), the requests and excesses that rails serve and their ranks (R343, R409, R429), and
the step boundaries of a rail (R405, R410, R412); class-3 tokens (R416). -/

namespace Sys2Proof.Machine

/-! ## Needs -/

/-- The gang waits in the sense of R63: HREL is not among its words. -/
def State.isWaiting (s : State) (gk : Nat) (g : Gang) : Bool :=
  match g.wait with
  | .bar .. | .barw .. | .gbar _ | .syncm | .waitf _ | .hwait _ | .seqw _ | .waitch _ | .waitchAll _ => true
  | .clause set => s.ops.any fun o => o.gang == gk && set.testBit o.flag && (match o.kind with
      | .copy _ | .chapp .. | .demote .. => true
      | _ => false)
  | _ => false

/-- The draw of an MMA in flight, when the operation is one. -/
def Op.mmaDraw (o : Op) : Option Nat :=
  match o.kind with
  | .matrix m => match m.kind with
    | .mma _ => some m.draw
    | _ => none
  | _ => none

/-- The draw of the MMAs in flight on a core, of the teams that a test picks (R406). -/
def State.running (s : State) (core : Nat) (pick : Nat → Bool := fun _ => true) : Nat :=
  s.ops.foldl (fun n o => match o.mmaDraw with
    | some d => if o.core = core ∧ pick o.team = true then max n d else n
    | none => n) 0

/-- The draw of the MMAs that wait for a grant on a core, of the teams that a test picks and up to a level (R408). -/
def State.asked (s : State) (core : Nat) (pick : Nat → Bool := fun _ => true) (upto : Nat → Bool := fun _ => true) : Nat :=
  (s.residents core).foldl (fun n e => match e.2.wait with
    | .grant d => if pick e.2.team && upto d then max n d else n
    | _ => n) 0

/-- The pre-charge target of a gang's current clause (R416): class 3 without a token counts as class 2. -/
def State.chargeOf (s : State) (g : Gang) : Nat :=
  match g.drawNow with
  | 0 => 0
  | 1 => 4
  | 2 => 16
  | _ => if (s.team g.team).token then 64 else 16

/-- A core's pre-charge target at boundary `n`: the greatest among its resident gangs that are not waiting, of clauses whose first
group issued before that boundary's step (R63, R416). -/
def State.precharge (s : State) (n core : Nat) : Nat :=
  (s.residents core).foldl (fun x e =>
    if s.isWaiting e.1 e.2 then x
    else match e.2.chargedAt with
      | some m => if m < n then max x (s.chargeOf e.2) else x
      | none => x) 0

/-- The need of a core at boundary `n` (R408).  A request counts from the boundary after the step in which it arose. (Log entry 48,
DEDUCED.) -/
def State.need (s : State) (n core : Nat) : Nat :=
  let x := max (max (s.running core) (s.asked core)) (s.precharge n core)
  match (s.core core).needSince with
  | some (m, _) => if n ≤ m then min x (s.core core).level else x
  | none => x

/-- A core's need as the clock stands. -/
def State.needNow (s : State) (core : Nat) : Nat := s.need (s.stepNow + 1) core

/-! ## Ranks -/

/-- The rotation in force at the start of step `n` of a rail (R429). -/
def State.rhoAt (s : State) (rail n : Nat) : Nat :=
  let now := match s.partOf rail with
    | some p => p.2.rho
    | none => 0
  match (s.rail rail).startRho with
  | some (m, rho) => if n ≤ m then rho else now
  | none => now

/-- The rank key of a core under a rotation: (cluster − ρ) mod 96, then the core within its cluster (R343, R409). -/
def rankKey (rho core : Nat) : Nat := (clusterOf core + 96 - rho % 96) % 96 * 4 + core % 4

/-- The rotation in the key of a request that a gang of a grid makes now: the one of the grid barrier that has released it in this
step, else the one at the step's start (R429). -/
def State.requestRho (s : State) (rail grid : Nat) : Nat :=
  match (s.rail rail).gbarRho.find? fun x => x.1 == grid && x.2.2 == s.stepNow with
  | some x => x.2.1
  | none => s.rhoAt rail s.stepNow

/-- The current gang requests a grant: the step and the key are fixed as the request arises, and its core stands no longer above
its need (R409, R429). -/
def State.requestGrant (s : State) : State :=
  let k := s.g.core
  let c := s.core k
  s.setCore k
    { c with
      needSince := some (c.needSince.getD (s.stepNow, rankKey (s.requestRho (coreSlice k) s.g.grid) k))
      excessSince := none
      overSince := none }

/-- Set down where a core stands against its need at boundary `b`: `n` is the step in which a difference that is not known yet arose,
`key` its rank (R409, R415).  A request that arises in that boundary's step or later stays. -/
def State.noteCore (s : State) (b n key need core : Nat) : State :=
  let c := s.core core
  let above := decide (need < c.level)
  let later := match c.needSince with
    | some (m, _) => decide (b ≤ m)
    | none => false
  let c1 : Core :=
    { c with
      needSince := if later then c.needSince else if c.level < need then some (c.needSince.getD (n, key)) else none
      excessSince := if above then some (c.excessSince.getD (n, key)) else none
      overSince := if above then some (c.overSince.getD s.ns) else none }
  if c1 = c then s else s.setCore core c1

/-- The MMAs in flight on a core have changed: an excess arises or ends (R409, R415). -/
def State.noteMma (s : State) (core : Nat) : State :=
  if (s.core core).needSince.isSome then s
  else s.noteCore s.stepNow s.stepNow (rankKey (s.rhoAt (coreSlice core) s.stepNow) core) (s.needNow core) core

/-! ## Step boundaries -/

/-- Insert a core by its rank. -/
def insertRank (k : Nat → Nat × Nat) (c : Nat) : List Nat → List Nat
  | [] => [c]
  | x :: r => if (k c).1 < (k x).1 ∨ ((k c).1 = (k x).1 ∧ (k c).2 < (k x).2) then c :: x :: r else x :: insertRank k c r

/-- The cores of a rail. -/
def railCores (rail : Nat) : List Nat := (List.range 32).map (32 * rail + ·)

/-- The sum of a rail's levels: its draw in a step (R405). -/
def State.railSum (s : State) (rail : Nat) : Nat := ((railCores rail).map fun c => (s.core c).level).sum

/-- A rail's ceiling: at most RAILCAP, halved under a hot stack or lost coolant, never below the needs of the MMAs already
granted (R410, R411, R422, R443). -/
def State.ceiling (s : State) (rail : Nat) : Nat :=
  let c := min (s.rail rail).cap s.dev.railCap
  let hot := s.dev.therm.hot.toList.getD rail false || s.dev.throttled
  max (if hot then c / 2 else c) ((railCores rail).map fun k => s.running k).sum

/-- Lower the cores above their needs, in rank order (R410). -/
def State.lower (s : State) (need : Nat → Nat) (floor rail : Nat) : List Nat → Nat → State
  | [], _ => s
  | c :: r, down =>
    let l := (s.core c).level
    let x := min (min (l - need c) down) (s.railSum rail - floor)
    (s.setCore c { s.core c with level := l - x }).lower need floor rail r (down - x)

/-- Raise the cores below their needs, in rank order (R410). -/
def State.lift (s : State) (need : Nat → Nat) (cap rail : Nat) : List Nat → Nat → State
  | [], _ => s
  | c :: r, up =>
    let l := (s.core c).level
    let x := min (min (need c - l) up) (cap - s.railSum rail)
    (s.setCore c { s.core c with level := l + x }).lift need cap rail r (up - x)

/-- The milliwatts that a unit stands for on a rail (R411). -/
def State.unitPower (s : State) (rail : Nat) : Nat := s.dev.site.milliWattsPerUnit.getD rail 0

/-- What a core's MMAs draw of its level in the step that begins: those in flight, and those that the level grants (R405, R410). -/
def State.mmaDraw (s : State) (core : Nat) (pick : Nat → Bool := fun _ => true) : Nat :=
  max (s.running core pick) (s.asked core pick fun d => decide (d ≤ (s.core core).level))

/-- A core's draw books half its units in a step while its cluster's clock is stretched (R405, R420): units × 8 half-steps of 16/7 ns. -/
def State.booked (s : State) (core units : Nat) : Nat :=
  units * (if (s.cluster (clusterOf core)).stretched.isSome then 8 else 16) * s.unitPower (coreSlice core)

/-- The partition whose accounts a rail's energy enters: the one that owns the slice, or that owned it last, while its levels taper off
(R377, R413). -/
def State.payer (s : State) (rail : Nat) : Option (Nat × Part) :=
  match s.partOf rail with
  | some e => some e
  | none => (s.rail rail).last.bind fun tag => (tget? s.parts tag).map fun p => (tag, p)

/-- Book `n` steps of a rail's draw: synthetic ember fills what its MMAs leave of the levels, and the MMAs of ember teams are useful
ember work (R405, R413, R415). -/
def State.book (s : State) (rail n : Nat) : State :=
  match s.payer rail with
  | some (tag, p) =>
    let synth := ((railCores rail).map fun k => s.booked k ((s.core k).level - s.mmaDraw k)).sum
    let useful := ((railCores rail).map fun k => s.booked k (s.mmaDraw k fun t => (s.team t).ember)).sum
    s.setPart tag { p with synthUnits := p.synthUnits + synth * n, usefulUnits := p.usefulUnits + useful * n }
  | none => s

/-- The next step boundary of a rail (R408 to R410, R412). -/
def State.boundary (s : State) (rail : Nat) : State :=
  let r := s.rail rail
  let n := r.step + 1
  let need (k : Nat) : Nat := s.need n k
  let s1 := (railCores rail).foldl (fun (st : State) k =>
    let late := decide ((s.core k).level < need k)
    st.noteCore n (if late then n else r.step) (rankKey (s.rhoAt rail (if late then n else r.step)) k) (need k) k) s
  let byNeed (k : Nat) : Nat × Nat := (s1.core k).needSince.getD (0, 0)
  let byExcess (k : Nat) : Nat × Nat := (s1.core k).excessSince.getD (0, 0)
  let low := ((railCores rail).filter fun k => (s1.core k).excessSince.isSome).foldl (fun l k => insertRank byExcess k l) []
  let high := ((railCores rail).filter fun k => (s1.core k).needSince.isSome).foldl (fun l k => insertRank byNeed k l) []
  let s2 := (s1.lower need r.floor rail low s1.dev.fall).lift need (s1.ceiling rail) rail high s1.dev.rise
  let held := (railCores rail).any fun k => (s2.core k).level != need k
  let s3 := (railCores rail).foldl (fun (st : State) k => st.noteCore n n 0 (need k) k) s2
  (s3.setRail rail { r with step := n, events := if held then r.events + 1 else r.events }).book rail 1

/-- The rail's levels stand at their needs, and nothing is pending: its boundaries change nothing until something arises. -/
def State.railSteady (s : State) (rail : Nat) : Bool :=
  let n := (s.rail rail).step + 1
  (railCores rail).all fun k =>
    let c := s.core k
    c.level == s.need n k && c.excessSince.isNone && c.overSince.isNone && (match c.needSince with
      | some (m, _) => decide (n ≤ m)
      | none => true)

/-- The last boundary, up to `upto`, before which nothing new arises on a steady rail: a request, or a pre-charge. -/
def State.steadyTo (s : State) (rail upto : Nat) : Nat :=
  let n := (s.rail rail).step + 1
  let arise := (railCores rail).flatMap fun k =>
    ((s.core k).needSince.map (·.1)).toList ++ (s.residents k).filterMap fun e => e.2.chargedAt
  (arise.filter fun m => decide (n ≤ m)).foldl min upto

/-- The boundaries of a rail up to `upto`, each in its turn. -/
def State.boundaries (s : State) (rail upto : Nat) : Nat → State
  | 0 => s
  | fuel + 1 =>
    let r := s.rail rail
    if upto ≤ r.step then s
    else if s.railSteady rail then
      let m := s.steadyTo rail upto
      State.boundaries ((s.setRail rail { r with step := m }).book rail (m - r.step)) rail upto fuel
    else State.boundaries (s.boundary rail) rail upto fuel

/-! ## Class-3 tokens -/

/-- The team requests a class-3 token when its first class-3 clause issues (R416). -/
def State.takeToken (s : State) (tk eff : Nat) : State :=
  let t := s.team tk
  let p := s.part t.part
  if eff = 3 ∧ !t.token ∧ !p.tokenQueue.contains tk then
    (s.setPart t.part { p with tokenQueue := p.tokenQueue ++ [tk] }).grantTokens t.part (p.tokenQueue.length + 1)
  else s

end Sys2Proof.Machine
end

