-- ==== Sys2Proof/Machine/Ops.lean ====
section
/-! DEFINITION. The shared operations of instruction words: how a word ends (its group, a trap, a hold), the end of
a clause (R30), prefix acceptance (R86), register writes under the partial-mask rule (R56), the bypass (R67, R68),
scalar reads and writes (R271), and the checks of an access (R173, R174).  Taking an exception is `State.raiseTrap`
and `State.enterTrap` of Machine/Life.lean (R384); the return from one is `State.returnTrap` here (R390). -/

namespace Sys2Proof.Machine

/-! ## How a word may end early -/

/-- A word ends early: it traps, with the intermediate address a stage-2 fault reports; it traps for walks that fail on tables they
must zero first; it traps for a report, in the state without it; or it holds the gang in a state that keeps what it has recorded. -/
inductive Halt where
  | trap (t : TrapInfo) (ia : Nat)
  | walk (fs : List XFail) (t : TrapInfo) (ia : Nat)
  | report (s : State) (t : TrapInfo) (ia : Nat := 0)
  | hold (s : State) (w : Wait)

/-- A computation of a word. -/
abbrev R (α : Type) := Except Halt α

/-- The clause the current gang is in. -/
def State.cl (s : State) : Clause := s.g.cl.getD {}
/-- The active set of the clause (R30). -/
def State.act (s : State) : Lanes := s.cl.active
/-- The prefix of the current group; without one, every field stands at its default (R85). -/
def State.pfx (s : State) : Latch := s.g.latch.getD {}
/-- A mask register; m0 reads as the active set (R49). -/
def State.mask (s : State) (k : Nat) : Lanes := if h : 0 < k ∧ k < 8 then s.g.m[k]'h.2 else s.act
/-- The lanes that execute the word (R32). -/
def State.exec_ (s : State) : Lanes := s.act &&& s.mask s.pfx.m
/-- The lanes that the zeroing modifier gives 0 (R56), when some lane executes (R36). -/
def State.zeroed (s : State) : Lanes :=
  if s.pfx.z = 1 ∧ s.exec_ ≠ 0 then s.act &&& ~~~s.exec_ else 0

/-- Trap on the current group, precisely (R383).  Without a mask the active set stands in csr.tmask. -/
def State.trapR {α : Type} (s : State) (cause : Nat) (addr : Word) (mask : Option Lanes := none) : R α :=
  .error (.trap (s.g.trapAt cause addr mask s.cl.next) 0)

/-- UNDEF at the word's own position, not at its prefix's (R81, R91): its encoding decides it, or its specification `x` does. -/
def State.undefWord {α : Type} (s : State) (x : Word := 0) : R α :=
  let t := s.g.trapAt 0x01 x none s.cl.next
  .error (.trap { t with index := s.cl.first + (if s.g.latch.isSome then 1 else 0) } 0)

/-- UNDEF at the group's first position: at the prefix when there is one (R86). -/
def State.undefFirst {α : Type} (s : State) : R α := s.trapR 0x01 0

/-- Hold the gang at its current group. -/
def State.holdR {α : Type} (s : State) (w : Wait) : R α := .error (.hold s w)

/-! ## The end of a group and of a clause -/

/-- The address of the clause after one, in memory (R74), modulo 2^56, as the words of a clause too. (Log entry 63, DESIGN CHOICE.) -/
def Clause.after (c : Clause) : Nat :=
  (c.addr + (8 + (if c.pfq then 4 else 0) + 4 * (c.len + 1) + 7) / 8 * 8) % 2 ^ 56

/-- End the clause: each lane still active takes its new PC (R30).  The copies staged for it go, and when its last word has issued
those of the registers it named take their place, but for those that this word has written (R70, R71). -/
def Gang.endClause (g : Gang) (newpc : Nat → Word) : Gang :=
  match g.cl with
  | none => g
  | some c =>
    { g with
      pcv := Vector.ofFn fun l => if inSet c.active l then newpc l else g.pcv[l]
      cl := none
      staged := if c.len < c.next then c.staging else [] }

/-- The wait is that of a trap which a clause's header raises, or the end of a SYNCM group, and no group of a clause (R81, R351). -/
def Wait.atHeader : Wait → Bool
  | .trap t => t.index == 31
  | _ => false

/-- A group of the gang has issued in a cycle and a step of the step clock: its age returns to 0 (R327), its clause's pre-charge counts
from the next boundary on (R416), and the group after it may pair with it while the gang stands in the clause (R38).  One that had issued, and waited, issued
then, and a fault in a clause's header is no group's (R79). -/
def Gang.issue (g : Gang) (step cyc : Nat) : Gang :=
  { g with
    age := 0
    lastIssue := if g.began || g.wait.atHeader then g.lastIssue else some cyc
    began := false
    chargedAt := some (g.chargedAt.getD step)
    turn := if (g.turn == .lane || g.turn == .uniform) && g.cl.isSome && g.wait == .none then .pair else .no }

/-- A group of the current gang has issued: it takes its slot (R328), and its cluster has issued in the coal interval (R419). -/
def State.issued (s : State) : State :=
  let s1 := s.useSlot s.cur
  { s1.setCluster (clusterOf s.g.core) { s1.cluster (clusterOf s.g.core) with busy := true } with
    phase := .select
    gangs := s.gangs.map fun e => if e.1 = s.cur then (e.1, e.2.issue s.stepNow s.cyc) else e }

/-- The group is complete: its prefix is used up, and the next group begins, or the clause ends (R30, R81). -/
def State.finish (s : State) : State :=
  let g := s.g
  let g1 : Gang := { g with latch := none, wait := .none }
  match g.cl with
  | none => (s.setG g1).issued
  | some c =>
    if c.len < c.next ∨ c.active = 0 then
      (s.setG (g1.endClause fun _ => BitVec.ofNat 64 c.after)).issued
    else (s.setG { g1 with cl := some { c with first := c.next, words := [], prev := c.words } }).issued

/-- What a word of the current gang does: it completes, traps or holds in the state it has recorded.  A gang that
stands in no clause executes no word. -/
def State.concludeKeep (s : State) (r : R State) : Host.Outcome State Fault Refusal :=
  match s.g.cl with
  | none => .fault .noGang
  | some _ =>
    match r with
    | .ok t => .next t.finish
    | .error (.trap t ia) => .next (s.raiseTrap s.cur t ia).issued
    | .error (.walk fs t ia) => .next ((s.ownTables s.g.ctx fs).raiseTrap s.cur t ia).issued
    | .error (.report u t ia) => .next (u.raiseTrap u.cur t ia).issued
    | .error (.hold t w) => .next { (t.hold t.cur w).orphanCheck t.g.team with phase := .select }

/-- A word that holds does so with none of its effect, but for the request of an MMA that waits for its grant (R409). -/
def State.undone {α : Type} (s : State) (r : R α) : R α :=
  match r with
  | .error (.hold t w) => match w with
    | .grant _ => .error (.hold t w)
    | _ => .error (.hold s w)
  | x => x

/-- What a word of the current gang does: it completes, or it traps or holds with none of its effect (R96, R383). -/
def State.conclude (s : State) (r : R State) : Host.Outcome State Fault Refusal := s.concludeKeep (s.undone r)

/-! ## Prefix fields -/

/-- The prefix fields a word accepts (R86). -/
structure Accept where
  m : Bool := true
  z : Bool := true
  rm : Bool := false
  nf : Bool := false
  sat : Bool := false
  c : Bool := false

/-- The prefix's fields are ones the word accepts, and its C operand a legal code when the word has one (R83, R86);
a masked STOCH feature makes RM = 3 undefined (R379). (Log entry 6, DEDUCED.) -/
def State.accept (s : State) (k : Accept) : R Unit :=
  match s.g.latch with
  | none => .ok ()
  | some p =>
    if (!k.m && p.m != 0) || (!k.z && p.z != 0) || (!k.rm && p.rm != 0) || (!k.nf && p.nf != 0) || (!k.sat && p.sat != 0) ||
        (!k.c && p.c != 0) || (k.c && !srcCode p.c) ||
        (p.rm == 3 && !((s.ctx s.g.ctx).featmask.getLsbD 2)) then s.undefFirst
    else .ok ()

/-- The fourth operand (R85, R86): without a prefix it is ZERO. -/
def State.srcC (s : State) : Src := ⟨s.pfx.c, s.pfx.lit⟩

/-! ## Registers in use by operations in flight -/

/-- The operation will write vector register `n`. -/
def OpKind.writesV (k : OpKind) (n : Nat) : Bool :=
  match k with
  | .load (.vec d _) _ _ => d == n
  | .atomic _ _ (.vec d _) _ _ _ => d == n
  | .sfu d .. => d == n
  | .xfc d _ => d == n
  | .matrix m => match m.kind with
    | .mrd d .. => d == n
    | .qmax d => d == n
    | _ => false
  | _ => false

/-- The operation will write scalar `n`. -/
def OpKind.writesS (k : OpKind) (n : Nat) : Bool :=
  match k with
  | .load (.scl d) _ _ => d == n
  | .atomic _ _ (.scl d) _ _ _ => d == n
  | _ => false

/-- An earlier operation of the gang has yet to write the vector register (R76). -/
def State.vBusy (s : State) (n : Nat) : Bool := s.ops.any fun o => o.gang == s.cur && o.kind.writesV n
/-- An earlier operation of the gang has yet to write the scalar (R76). -/
def State.sBusy (s : State) (n : Nat) : Bool := s.ops.any fun o => o.gang == s.cur && o.kind.writesS n

/-- A word that would trap before it has what it needs holds instead: a group issues, and so raises a trap, only when the interlock finds
what it needs ready (R62, R94). -/
def State.stallFirst {α : Type} (need : Unit → R Unit) (r : R α) : R α :=
  match r with
  | .ok x => .ok x
  | .error (.hold u w) => .error (.hold u w)
  | .error e =>
    match need () with
    | .error (.hold u w) => .error (.hold u w)
    | _ => .error e

/-- Hold until an operand or destination is available (R96). -/
def State.ready (s : State) (busy : Bool) : R Unit := if busy then s.holdR .operand else .ok ()

/-! ## Scalars -/

/-- Read a scalar: it must be available, and a mark raises POISON with the marking load's address (R175, R271). -/
def State.sget (s : State) (n : Nat) : R Word :=
  if s.sBusy n then s.holdR .operand
  else match (s.g.sreg n).mark with
    | some a => s.trapR 0x0E a
    | none => .ok (s.g.sreg n).val

/-- Write a scalar, replacing any mark (R271). -/
def State.sput (s : State) (n : Nat) (x : Word) : R State :=
  if s.sBusy n then s.holdR .operand else .ok (s.setG (s.g.setS n { val := x }))

/-! ## Vector registers -/

/-- The write of R56: the register's shape and contents from the old register, the result, the live lanes, the
executing lanes and the zeroed lanes. -/
def mergeReg (old new : VReg) (live e z : Lanes) : VReg :=
  let k := live &&& ~~~e
  let asP : VReg := .p (Vector.ofFn fun l =>
    if inSet e l then new.lane l else if inSet z l then {} else old.lane l)
  match new with
  | .u x => if k = 0 ∨ ((k &&& ~~~z = 0 ∨ old = .u x) ∧ (z = 0 ∨ x = 0)) then .u x else asP
  | .a b st => if k = 0 ∨ (z = 0 ∧ old = .a b st) then .a b st else asP
  | .p _ => asP

/-- Take the slab that a write needs, or stall (R57, R61, R62). -/
def State.needSlab (s : State) (old new : VReg) : R Unit :=
  if new.isP && !old.isP && !s.slabFree s.cur then s.holdR .slab else .ok ()

/-- What a word that writes a vector register finds ready before it issues: the register, and a slab when `wide` says that the write
would make a compact register P (R57, R62, R94). -/
def State.destReady (s : State) (d : Nat) (wide : Bool) : R Unit := do
  s.ready (decide (d < 96) && s.vBusy d)
  if d < 96 ∧ wide = true ∧ (s.g.vreg d).isP = false ∧ s.slabFree s.cur = false then s.holdR .slab else .ok ()

/-- A result would make the destination P.  Where no result is known, for the word traps on the way to one, it would when a source is
not U or the mask leaves out a live lane (R55, R56). (Log entry 68, DEDUCED.) -/
def State.widens (s : State) (d : Nat) (xs : List VReg) (r : R VReg) : Bool :=
  match r with
  | .ok v => (mergeReg (s.g.vreg d) v s.g.live s.exec_ s.zeroed).isP
  | .error _ => (xs.any fun x => match x with
      | .u _ => false
      | _ => true) || s.g.live &&& ~~~s.exec_ != 0

/-- Write a vector register: it must be available, its slab is taken, and any staged copy of it goes (R57, R71). -/
def State.vput (s : State) (d : Nat) (new : VReg) (e z : Lanes) : R State := do
  s.ready (s.vBusy d)
  let old := s.g.vreg d
  let r := mergeReg old new s.g.live e z
  s.needSlab old r
  pure (s.setG (s.g.setV d r))

/-- The bypass entry of a result: a P result holds 0 outside the executing lanes (R68). -/
def bypassOf (r : VReg) (e : Lanes) : VReg :=
  match r with
  | .p ls => .p (Vector.ofFn fun l => if inSet e l then ls[l] else {})
  | x => x

/-- Push a result into the bypass (R67). -/
def State.push (s : State) (r : VReg) (e : Lanes) : State :=
  let g := s.g
  s.setG { g with bp := (bypassOf r e :: g.bp).take 3, pushes := g.pushes + 1 }

/-- Put a lane word's result into its destination: a vector register, TR (104) or ZERO (112) (R56, R67, R68). -/
def State.result (s : State) (d : Nat) (r : VReg) : R State := do
  let s1 ← if d < 96 then s.vput d r s.exec_ s.zeroed else pure s
  pure (s1.push r s.exec_)

/-- The result of a lane word that executes in no lane: nothing is written, and U 0 is pushed (R36, R67).
(Log entry 32, DEDUCED.) -/
def State.noLanes (s : State) (pushes : Bool) : R State := .ok (if pushes then s.push (.u 0) 0 else s)

/-- Write a mask register in the executing lanes, and 0 in the zeroed ones (R253). -/
def State.mput (s : State) (k : Nat) (p : Nat → Bool) : State :=
  let g := s.g
  let e := s.exec_
  let z := s.zeroed
  let old := s.mask k
  let new := setOf fun l => if inSet e l then p l else if inSet z l then false else inSet old l
  s.setG { g with m := g.m.setIfInBounds k new }

/-! ## Checks of an access (R173, R174) -/

/-- The lanes of a list of addresses that satisfy a test. -/
def lanesWhere (l : List (Nat × Nat)) (p : Nat → Bool) : Lanes :=
  l.foldl (fun e x => if p x.2 then e ||| laneBit x.1 else e) 0

/-- Raise a cause of R174 for the lowest lane that fails it.  `uni` says that the word is uniform, whose mask is
the active set; `fs` are the failures of the walks made, whose tables are zeroed first where they must be (R367). -/
def State.failAccess {α : Type} (s : State) (cause : Nat) (uni : Bool) (l : List (Nat × Nat)) (p : Nat → Bool)
    (k : Access) (f : Option XFail) (fs : List XFail := []) : R α :=
  let addr := ((l.find? fun x => p x.2).getD (0, 0)).2
  let x := f.getD { xlate := false, stage2 := false }
  let t := s.g.trapAt cause (BitVec.ofNat 64 addr) (if uni then none else some (lanesWhere l p)) s.cl.next
  let t1 : TrapInfo := { t with stage2 := x.stage2, pzn := x.pzn, write := k == .write || k == .atomic }
  if fs.all fun f => f.own.isNone then .error (.trap t1 x.ia)
  else if fs.all fun f => (s.ownTable s.g.ctx f).isSome then
    .error (.walk fs t1 x.ia)
  else s.holdR .operand

/-- Check global accesses of width `w` aligned to `al`, cause by cause; `l` lists lanes, ascending, with their
effective addresses.  Answers the translation of each (R174). -/
def State.checkGlobal (s : State) (k : Access) (al : Nat) (uni : Bool) (l : List (Nat × Nat)) :
    R (List TlbEntry) :=
  let misaligned (a : Nat) : Bool := a % al != 0
  let look (a : Nat) : Except XFail TlbEntry :=
    if a < 2 ^ 56 then s.xlate s.g.core s.g.ctx a else .error { xlate := true, stage2 := false }
  let unmapped (a : Nat) : Bool := match look a with
    | .error f => f.xlate
    | .ok _ => false
  let denied (a : Nat) : Option XFail := match look a with
    | .error f => some f
    | .ok e => e.permit k s.g.level a
  let first (p : Nat → Bool) : Option XFail := match l.find? fun x => p x.2 with
    | some x => match look x.2 with
      | .error f => some f
      | .ok e => e.permit k s.g.level x.2
    | none => none
  if l.any fun x => misaligned x.2 then s.failAccess 0x08 uni l misaligned k none
  else if l.any fun x => unmapped x.2 then
    s.failAccess 0x09 uni l unmapped k (first unmapped) (l.filterMap fun x => match look x.2 with
      | .error f => some f
      | .ok _ => none)
  else if l.any fun x => (denied x.2).isSome then
    s.failAccess 0x0B uni l (fun a => (denied a).isSome) k (first fun a => (denied a).isSome)
  else .ok (l.filterMap fun x => match look x.2 with
    | .ok e => some e
    | .error _ => none)

/-- Check scratchpad accesses of width `w` (R173, R174). -/
def State.checkSpad (s : State) (k : Access) (w : Nat) (uni : Bool) (l : List (Nat × Nat)) : R Unit :=
  let size := (s.team s.g.team).spadLen
  let misaligned (a : Nat) : Bool := a % w != 0
  let outside (a : Nat) : Bool := decide (size < a + w)
  if l.any fun x => misaligned x.2 then s.failAccess 0x08 uni l misaligned k none
  else if l.any fun x => outside x.2 then s.failAccess 0x0B uni l outside k none
  else .ok ()

/-- Hold the translations that a word used in the TLBs (R165). -/
def State.useTlb (s : State) (es : List TlbEntry) : State := es.foldl (fun st e => st.installTlb st.g.core e) s

/-- An access of one lane through its translation. -/
def itemOf (lane va w : Nat) (e : TlbEntry) : Item :=
  { lane := lane, va := va, pa := e.phys va, w := w, shared := e.shared, dirt := [e.dref va] }

/-- An access of one lane to scratchpad. -/
def spadItem (lane off w : Nat) : Item := { lane := lane, va := off, pa := off, w := w }

/-- A flag field's operations: one more may be attached (R77). -/
def State.flagRoom (s : State) (n : Nat) : R Unit :=
  if n < 12 ∧ Config.flagLimit ≤ (s.g.flag n).count then s.holdR .flag else .ok ()

/-- An operation of the current gang, not yet in flight. -/
def State.newOp (s : State) (flag : Nat) (kind : OpKind) (items : List Item) : Op :=
  { id := s.nextOp, gang := s.cur, team := s.g.team, core := s.g.core, ctx := s.g.ctx, flag := flag, kind := kind,
    items := items }

/-! ## Earlier accesses of the gang (R149, R155) -/

/-- The gang has loads that have not returned. -/
def State.loadsPending (s : State) : Bool := s.ops.any fun o => o.gang == s.cur && (match o.kind with
  | .load .. => true
  | .atomic _ _ dst _ _ _ => dst != .nowhere
  | _ => false)

/-- The gang has stores or atomics, to global memory or scratchpad, that their banks have not acknowledged. -/
def State.ownAcks (s : State) : Bool := s.ops.any fun o => o.gang == s.cur && o.kind.isAccess && !o.kind.isLoad

/-- The operation is one of another gang of the team that stands before this gang's later accesses (R152, R153): it was issued before
the gang's last acquire. -/
def State.seenBefore (s : State) (o : Op) : Bool := o.gang != s.cur && o.team == s.g.team && decide (o.id < s.g.seenOp)

/-- The gang has stores or atomics that their banks have not acknowledged; or a gang of its team has, from before its last acquire
(R149, R153). -/
def State.acksPending (s : State) : Bool :=
  s.ownAcks || s.ops.any fun o => s.seenBefore o && o.kind.isAccess && !o.kind.isLoad

/-- The gang has scratchpad accesses that have not been performed, or atomics that have not been acknowledged: until then a copy in L1
may still show what an atomic has replaced (R149, R152, R154). (Log entry 27, DEDUCED.) -/
def State.teamPending (s : State) : Bool := s.ops.any fun o => o.gang == s.cur && o.kind.isAccess &&
  ((o.kind.onSpad && o.items.any fun i => !i.done) || o.kind.isAtomic)

/-- The completion time that a .p release waits out: the gang's own P, and what its team's earlier stores and atomics have left
(R149, R153). -/
def Gang.lastPend (g : Gang) : Nat := max (g.pend.getD 0) (g.seenPend.getD 0)

/-- Hold while the test is true. -/
def State.waitFor (s : State) (w : Wait) (busy : Bool) : R Unit := if busy then s.holdR w else .ok ()

/-- Hold while a load of `n` bytes of a page, which a word makes on its own account, may not be performed yet (R145, R367). -/
def State.settled (s : State) (w : Wait) (e : TlbEntry) (va n : Nat) : R Unit :=
  s.waitFor w (s.loadHeld s.cur e.shared (e.phys va) n)

/-- Hold while an access of the gang to `n` bytes that a word reads or writes at their bank is in flight (R145). -/
def State.banked (s : State) (e : TlbEntry) (va n : Nat) : R Unit := s.waitFor .fence (s.bankHeld s.cur (e.phys va) n)

/-- A hand-off waits until every earlier store and atomic is acknowledged (R155). -/
def State.handOff (s : State) : R Unit := s.waitFor .acks s.acksPending

/-- A report is raised once: it leaves its flag and the gang's list. -/
def Gang.dropReport (g : Gang) (n : Nat) (r : Report) : Gang :=
  let f := g.flag n
  let g1 := g.setFlag n { f with reports := f.reports.erase r }
  { g1 with redReports := g1.redReports.erase r, lutReports := g1.lutReports.erase r }

/-- The flag that carries a report loses it (R175: the report is raised at whichever wait comes first). -/
def dropFrom (r : Report) : List CFlag → List CFlag
  | [] => []
  | f :: fs => if f.reports.contains r then { f with reports := f.reports.erase r } :: fs else f :: dropFrom r fs

/-- A report raised elsewhere than at a wait on its flag leaves the flag it also stands on. -/
def Gang.dropAnywhere (g : Gang) (r : Report) : Gang :=
  let l := dropFrom r g.cf.toList
  { g with cf := Vector.ofFn fun i => l.getD i.val {}, redReports := g.redReports.erase r, lutReports := g.lutReports.erase r }

/-- The cause of a report: POISON or ENGINE. -/
def Report.cause (r : Report) : Nat := if r.engine then 0x0F else 0x0E

/-- Raise a report's trap at the current group; the report is gone from the gang. -/
def State.reportR {α : Type} (s : State) (g : Gang) (r : Report) : R α :=
  .error (.report (s.setG g) (s.g.trapAt r.cause r.addr none s.cl.next))

/-- Poison that RED met is raised at a release at .p or .s (R175). -/
def State.redRelease (s : State) : R Unit :=
  match s.g.redReports with
  | r :: _ => s.reportR (s.g.dropAnywhere r) r
  | [] => .ok ()

/-- A .p release: every earlier store and atomic acknowledged, then `now()` at or past P, which is cleared (R149). -/
def State.releaseP (s : State) : R State := do
  s.waitFor .fence s.loadsPending
  s.waitFor .fence s.acksPending
  s.redRelease
  s.waitFor .lease (decide (s.ns < s.g.lastPend))
  pure (s.setG { s.g with pend := none, seenPend := none })

/-- A .t acquire: what the gangs of the team have issued so far stands before the gang's later accesses, with the completion times they
have yet to wait out (R149, R152, R153). -/
def State.acquireT (s : State) : State :=
  let p := (s.gangs.filter fun e => e.2.team == s.g.team && e.1 != s.cur).foldl (fun n e => max n (e.2.pend.getD 0))
    (s.g.seenPend.getD 0)
  s.setG { s.g with seenOp := s.nextOp, seenPend := if p = 0 then none else some p }

/-- A .p acquire: as a .t one, and VA := `now()` (R149). -/
def State.acquireP (s : State) : State :=
  let t := s.acquireT
  t.setG { t.g with va := t.ns }

/-- A .t release (R149). -/
def State.releaseT (s : State) : R Unit := do
  s.waitFor .fence s.loadsPending
  s.waitFor .fence s.teamPending

/-! ## The return from an exception (R390) -/

/-- RTE: the level, the lane PCs, the yielding marks and the held groups come back, and the clause at csr.tpos
resumes at INDEX with the lanes of csr.tact that still stand there, its header to be fetched again; with INDEX 31,
or no such lane, issue resumes under R29. -/
def Gang.returnTrap (g : Gang) : Gang :=
  let f := g.frame
  let live := g.live
  let pcv : Vector Word 32 := Vector.ofFn fun l => if inSet live l then f.pcv[l] &&& ~~~7 else g.pcv[l]
  let index := bits f.pos 60 56
  let a := bits f.pos 55 0
  let e := f.act &&& live &&& setOf fun l => decide (pcv[l].toNat = a)
  let held (q : SyncGroup) : SyncGroup := { q with arrived := q.arrived &&& live }
  let g1 : Gang :=
    { g with
      level := bits (BitVec.zeroExtend 64 f.info) 17 16
      frame := { f with info := f.info &&& 0x7FFFFFFF }
      pcv := pcv
      yielding := g.hidden.yielding &&& live
      groups := (g.hidden.groups.map held).filter fun q => q.arrived != 0
      cl := none
      latch := none
      wait := .none
      bp := []
      pushes := 0 }
  if index = 31 ∨ e = 0 then g1
  else
    { g1 with bp := g.hidden.bp, pushes := g.hidden.pushes,
              cl := some { addr := a, active := e, first := index, next := index, refetch := true } }

end Sys2Proof.Machine
end

