-- ==== Sys2Proof/Machine/Flags.lean ====
section
/-! DEFINITION. The sticky flags of a lane word (R51, R235) and the traps that csr.xftrap enables on them (R236);
and the conditions of the compares (R253, R279). -/

namespace Sys2Proof.Machine

/-- The flags a word raises: those of each lane. -/
abbrev LaneFlags := Nat → Byte

/-- Raise a lane word's flags in its executing lanes, unless NF is 1; an enabled one raises ARITH instead, with the
lanes that would set an enabled bit and the OR of every bit the word would set (R235, R236). -/
def State.flags (s : State) (f : LaneFlags) : R State :=
  if s.pfx.nf = 1 then .ok s
  else
    let e := s.exec_
    let on := (s.ctx s.g.ctx).xftrap
    let bad := setOf fun l => inSet e l && f l &&& on != 0
    if bad ≠ 0 then
      let all := (lanesOf e).foldl (fun (b : Byte) l => b ||| f l.val) 0
      s.trapR 0x12 (BitVec.zeroExtend 64 all) (some bad)
    else .ok (s.setG (s.g.raise fun l => if inSet e l then f l else 0))

/-- The condition of ICMP on one element, read as signed and as unsigned (R253). -/
def icmpHolds (cond : Nat) (sa sb : Int) (ua ub : Nat) : Bool :=
  match cond with
  | 0 => ua == ub
  | 1 => ua != ub
  | 2 => decide (sa < sb)
  | 3 => decide (sa ≤ sb)
  | 4 => decide (sb < sa)
  | 5 => decide (sb ≤ sa)
  | 6 => decide (ua < ub)
  | 7 => decide (ua ≤ ub)
  | 8 => decide (ub < ua)
  | _ => decide (ub ≤ ua)

/-- The condition of FCMP on one element (R279): whether the elements are unordered, and how they compare. -/
def fcmpHolds (cond : Nat) (a b : Num) : Bool :=
  let un := a.isNan || b.isNan
  match cond with
  | 0 => !un && Num.eqv a b
  | 1 => un || !Num.eqv a b
  | 2 => !un && Num.lt a b
  | 3 => !un && Num.le a b
  | 4 => !un && Num.lt b a
  | 5 => !un && Num.le b a
  | 6 => un
  | _ => !un

end Sys2Proof.Machine
end

