-- ==== Sys2Proof/Machine/Operands.lean ====
section
/-! DEFINITION. The operands of lane words: literals and constants through a view (R50, R84), registers, streams
(R65, R66), the bypass (R67, R68) and scalars (R54), with BYPASS, the checks of stream elements and POISON in their
order (R92, R175); elements of a view (R247); and the shape algebra (R55). -/

namespace Sys2Proof.Machine

/-! ## Views -/

/-- The element width of a T value (R50). -/
def viewWidth : Nat → Nat
  | 1 | 5 => 32
  | 2 | 6 => 16
  | 3 | 7 => 8
  | _ => 64

/-- The number of elements of a view. -/
def viewCount (t : Nat) : Nat := 64 / viewWidth t

/-- Element `j` of a lane value under width `w` (R8, R50). -/
def elem (w : Nat) (x : Word) (j : Nat) : Nat := x.toNat / 2 ^ (w * j) % 2 ^ w

/-- A lane value from its elements (R50). -/
def packElems (w : Nat) (f : Nat → Nat) : Word :=
  BitVec.ofNat 64 ((List.range (64 / w)).foldl (fun n j => n + f j % 2 ^ w * 2 ^ (w * j)) 0)

/-- One value in every element. -/
def splat (w n : Nat) : Word := packElems w fun _ => n

/-- A binary32 code widened exactly to binary64, a NaN keeping its sign, its payload and its kind (R84). -/
def widenF32 (w : Nat) : Nat :=
  let s := fld w 31 31
  let e := fld w 30 23
  let m := fld w 22 0
  if e = 255 ∧ m ≠ 0 then s * 2 ^ 63 + 0x7FF * 2 ^ 52 + m * 2 ^ 29
  else (fmtF64.round (fmtF32.value w) .rne false).1

/-- The constants 1, 2, 4 and -1 (codes 116 to 119) through a view (R84). (Log entry 16, DEDUCED.) -/
def constView (t k : Nat) : Word :=
  let i : Int := match k with
    | 116 => 1
    | 117 => 2
    | 118 => 4
    | _ => -1
  match t with
  | 4 => BitVec.ofNat 64 (match k with
    | 116 => 0x3FF0000000000000
    | 117 => 0x4000000000000000
    | 118 => 0x4010000000000000
    | _ => 0xBFF0000000000000)
  | 5 => splat 32 (match k with
    | 116 => 0x3F800000
    | 117 => 0x40000000
    | 118 => 0x40800000
    | _ => 0xBF800000)
  | _ => splat (viewWidth t) (i % (2 ^ 64 : Nat)).toNat

/-- A literal through a view (R84). (Log entry 16, DEDUCED.) -/
def litView (t : Nat) (a : Src) : Word :=
  if a.code = 115 then BitVec.ofNat 64 a.lit
  else match t with
    | 0 => BitVec.ofInt 64 (signedOf 32 a.lit)
    | 4 => BitVec.ofNat 64 (widenF32 (a.lit % 2 ^ 32))
    | _ => splat (viewWidth t) a.lit

/-! ## Streams (R65, R66) -/

/-- The element size of a stream. -/
def StreamReg.size (st : StreamReg) : Nat := 2 ^ st.zc

/-- The number of positions of a stream. -/
def StreamReg.total (st : StreamReg) : Nat := st.extents.toList.foldl (fun n e => n * e.toNat) 1

/-- The byte offset of a position, from the extents and strides of the dimensions from the lowest up (R66, R209). -/
def gridOffset : List Nat → List Int → Nat → Int
  | [], _, _ => 0
  | _ :: _, [], _ => 0
  | e :: es, d :: ds, q => ((q % e : Nat) : Int) * d + gridOffset es ds (q / e)

/-- The address of position `q`; none past the end. -/
def StreamReg.addr (st : StreamReg) (q : Nat) : Option Nat :=
  if st.total ≤ q then none
  else
    some (((st.base.toNat : Int) +
      gridOffset (st.extents.toList.map BitVec.toNat) (st.strides.toList.map BitVec.toInt) q) % (2 ^ 56 : Nat)).toNat

/-- A stream after a word has read `n` positions of it. -/
def StreamReg.step (st : StreamReg) (n : Nat) : StreamReg :=
  { st with pos := st.pos + BitVec.ofNat 64 n, fin := st.fin || decide (st.total < st.pos.toNat + n) }

/-- The streams that a word names, each once. -/
def streamsOf (srcs : List (Src × Nat)) : List Nat :=
  srcs.foldl (fun l a => if 96 ≤ a.1.code ∧ a.1.code ≤ 103 ∧ !l.contains (a.1.code - 96) then l ++ [a.1.code - 96] else l) []

/-- A stream register. -/
def Gang.stream (g : Gang) (n : Nat) : StreamReg := if h : n < 8 then g.st[n] else {}

/-- The element of a stream that each executing lane receives: lane and address (R66). -/
def State.streamElems (s : State) (n : Nat) : List (Nat × Option Nat) :=
  let st := s.g.stream n
  (lanesOf s.exec_).zipIdx.map fun p => (p.1.val, st.addr (st.pos.toNat + p.2))

/-- The elements of several streams in lane order, with their sizes. -/
def State.allElems (s : State) (ns : List Nat) : List (Nat × Nat × Nat) :=
  (lanesOf s.exec_).flatMap fun l => ns.filterMap fun n =>
    match (s.streamElems n).find? fun e => e.1 == l.val with
    | some (_, some a) => some (l.val, a, (s.g.stream n).size)
    | _ => none

/-- Advance the streams that a word names. -/
def State.advance (s : State) (ns : List Nat) : State :=
  let n := countLanes s.exec_
  s.setG (ns.foldl (fun (g : Gang) k => { g with st := g.st.setIfInBounds k ((g.stream k).step n) }) s.g)

/-- Load the elements of streams, each through the translation given for it; an element that has none leaves its lane marked. -/
def State.loadStreams (s : State) (ns : List Nat) (find : Nat → Nat → Option TlbEntry) :
    State × List (Nat × Vector Slot 32) :=
  let one (st : State × List (Nat × Vector Slot 32)) (n : Nat) : State × List (Nat × Vector Slot 32) :=
    let r := (s.streamElems n).foldl (fun (acc : State × Vector Slot 32) e =>
      match e.2 with
      | none => acc
      | some a =>
        let size := (s.g.stream n).size
        match find size a with
        | some t =>
          let q := acc.1.loadNow s.cur t.shared a (t.phys a) size
          (q.1, acc.2.setIfInBounds e.1 q.2)
        | none => (acc.1, acc.2.setIfInBounds e.1 { mark := some (BitVec.ofNat 64 a) })) (st.1, Vector.replicate 32 {})
    (r.1, st.2 ++ [(n, r.2)])
  ns.foldl one (s, [])

/-- The translation of an address for the current gang. -/
def State.look (s : State) (a : Nat) : Option TlbEntry :=
  match s.xlate s.g.core s.g.ctx a with
  | .ok t => some t
  | .error _ => none

/-- Read the streams that a word names: every element is checked before any is loaded (R66, R174); then each is
loaded and the positions advance. (Log entry 17, DEDUCED.) -/
def State.readStreams (s : State) (ns : List Nat) : R (State × List (Nat × Vector Slot 32)) := do
  let all := s.allElems ns
  let bad := all.filter fun x => x.2.1 % x.2.2 != 0
  if !bad.isEmpty then
    let l := bad.map fun x => (x.1, x.2.1)
    s.failAccess 0x08 false l (fun a => l.any fun y => y.2 == a) .read none
  else
    let l := all.map fun x => (x.1, x.2.1)
    let es ← s.checkGlobal .read 1 false l
    let _ ← (es.zip all).mapM fun x => s.settled .operand x.1 x.2.2.1 x.2.2.2
    let r := (s.useTlb es).loadStreams ns fun _ a => s.look a
    pure (r.1.advance ns, r.2)

/-! ## Operands -/

/-- The operand names a bypass entry that the clause has not pushed yet (R68). -/
def State.bypassMissing (s : State) (a : Src) : Bool :=
  decide (104 ≤ a.code) && decide (a.code ≤ 106) && decide (s.g.pushes ≤ a.code - 104)

/-- The operand waits on an operation in flight (R76). -/
def State.srcBusy (s : State) (a : Src) : Bool :=
  (decide (a.code < 96) && s.vBusy a.code) || (decide (120 ≤ a.code) && s.sBusy (a.code - 120))

/-- The value of an operand through a view, with the mark of a scalar (R54, R83, R84). (Log entry 21, DEDUCED.) -/
def State.operand (s : State) (sts : List (Nat × Vector Slot 32)) (a : Src) (t : Nat) : VReg × Option Word :=
  let c := a.code
  if c < 96 then (s.g.vreg c, none)
  else if c < 104 then (.p (tget sts (c - 96) (Vector.replicate 32 {})), none)
  else if c < 107 then (s.g.bp.getD (c - 104) (.u 0), none)
  else if c = 113 then (.a 0 1, none)
  else if c = 114 ∨ c = 115 then (.u (litView t a), none)
  else if 116 ≤ c ∧ c ≤ 119 then (.u (constView t c), none)
  else if 120 ≤ c then (.u (s.g.sreg (c - 120)).val, (s.g.sreg (c - 120)).mark)
  else (.u 0, none)

/-- Operands as the state shows them before the word has read any: their shapes tell whether its result needs a slab (R62). -/
def State.shown (s : State) (srcs : List (Src × Nat)) : List VReg := srcs.map fun a => (s.operand [] a.1 a.2).1

/-- The mark that an operand shows in some lane of a set: that of the lowest such lane (log entry 14, DEDUCED). -/
def markIn (x : VReg × Option Word) (look : Lanes) (l : Nat) : Option Word :=
  if inSet look l then
    match x.2 with
    | some a => some a
    | none => (x.1.lane l).mark
  else none

/-- The first mark over the lanes in ascending order, and over the operands in theirs (log entry 14, DEDUCED). -/
def firstMark (xs : List ((VReg × Option Word) × Lanes)) : Option Word :=
  (List.range 32).findSome? fun l => xs.findSome? fun x => markIn x.1 x.2 l

/-- Read a lane word's operands (R66, R68, R92, R175): BYPASS, availability, stream checks, then POISON over the
lanes that the word reads (`look`; a stream's only those that execute).  Streams advance. (Log entry 17, DEDUCED.) -/
def State.sources (s : State) (look : Lanes) (srcs : List (Src × Nat)) : R (State × List VReg) := do
  match srcs.find? fun a => s.bypassMissing a.1 with
  | some a => s.trapR 0x07 (BitVec.ofNat 64 (a.1.code - 104))
  | none =>
    s.ready (srcs.any fun a => s.srcBusy a.1)
    let ns := streamsOf srcs
    let r ← if ns.isEmpty then pure (s, []) else s.readStreams ns
    let xs := srcs.map fun a => r.1.operand r.2 a.1 a.2
    let marks := (xs.zip srcs).map fun p =>
      (p.1, if 96 ≤ p.2.1.code ∧ p.2.1.code ≤ 103 then s.exec_ else look)
    match firstMark marks with
    | some a => s.trapR 0x0E a
    | none => pure (r.1, xs.map (·.1))

/-- Operand `i` of those read. -/
def opnd (xs : List VReg) (i : Nat) : VReg := xs.getD i (.u 0)

/-- The bits of an operand in a lane. -/
def VReg.at (r : VReg) (l : Nat) : Word := (r.lane l).val

/-- The operand is U. -/
def VReg.isU : VReg → Bool
  | .u _ => true
  | _ => false

/-- The operand is A. -/
def VReg.isA : VReg → Bool
  | .a _ _ => true
  | _ => false

/-! ## Results (R55) -/

/-- A per-lane result over the executing lanes. -/
def perLane (f : Nat → Word) : VReg := .p (Vector.ofFn fun l => { val := f l })

/-- What a lane word computes: its result and the flags of each lane. -/
abbrev Computed := VReg × LaneFlags

/-- A word computed lane by lane, or once when all its sources are U and nothing makes its lanes differ (R55).
(Log entry 21, DEDUCED.) -/
def laneWise (xs : List VReg) (differ : Bool) (f : Nat → Word × Byte) : Computed :=
  if xs.all VReg.isU && !differ then
    let r := f 0
    (.u r.1, fun _ => r.2)
  else (perLane fun l => (f l).1, fun l => (f l).2)

/-- R55's rows for IADD.i64. -/
def affAdd : VReg → VReg → Option VReg
  | .u x, .u y => some (.u (x + y))
  | .u x, .a b st => some (.a (x + b) st)
  | .a b st, .u x => some (.a (b + x) st)
  | .a b st, .a b' st' => some (.a (b + b') (st + st'))
  | _, _ => none

/-- R55's rows for ISUB.i64. -/
def affSub : VReg → VReg → Option VReg
  | .u x, .u y => some (.u (x - y))
  | .u x, .a b st => some (.a (x - b) (-st))
  | .a b st, .u x => some (.a (b - x) st)
  | .a b st, .a b' st' => some (.a (b - b') (st - st'))
  | _, _ => none

/-- R55's rows for IMUL.i64. -/
def affMul : VReg → VReg → Option VReg
  | .u x, .u y => some (.u (x * y))
  | .u x, .a b st => some (.a (x * b) (x * st))
  | .a b st, .u x => some (.a (x * b) (x * st))
  | _, _ => none

/-- R55's rows for SHL.i64. -/
def affShl : VReg → VReg → Option VReg
  | .u x, .u k => some (.u (if k.toNat < 64 then x <<< k.toNat else 0))
  | .a b st, .u k => some (if k.toNat < 64 then .a (b <<< k.toNat) (st <<< k.toNat) else .a 0 0)
  | _, _ => none

/-- The generic frame of a lane word that writes a vector destination through its lanes (R32, R36, R55, R56, R67):
prefix, operands, computation, flags, write and push. (Log entry 32, DEDUCED.)  A slab that the write needs is
there before the word raises a trap (R62, R94; log entry 68, DEDUCED). -/
def State.laneWord (s : State) (k : Accept) (d : Nat) (srcs : List (Src × Nat))
    (f : State → List VReg → R (State × Computed)) : Host.Outcome State Fault Refusal :=
  s.conclude do
    s.accept k
    if s.exec_ = 0 then s.noLanes true
    else
      let all := if k.c then srcs ++ [(s.srcC, (srcs.getD 0 (s.srcC, 0)).2)] else srcs
      State.stallFirst (fun _ => s.destReady d (s.widens d (s.shown all) ((f s (s.shown all)).map fun c => c.2.1))) do
        let r ← s.sources s.exec_ all
        let c ← f r.1 r.2
        let s2 ← c.1.flags c.2.2
        s2.result d c.2.1

end Sys2Proof.Machine
end

