-- ==== Sys2Proof/Machine/Control.lean ====
section
/-! DEFINITION. The control-flow words (R97 to R108): they decide where each lane of the active set goes when the
clause ends. -/

namespace Sys2Proof.Machine

/-- The direct target of a branch: the clause start plus eight times the signed offset (R97). -/
def Clause.target (c : Clause) (width off : Nat) : Word :=
  BitVec.ofNat 64 (((c.addr : Int) + signedOf width off * 8) % (2 ^ 56 : Nat)).toNat

/-- End the clause with a branch: the lanes that take it go to `tgt`, the others fall through (R30, R97, R100). -/
def State.branch (s : State) (tgt : Nat → Word) (taken : Nat → Bool) : R State :=
  let next : Word := BitVec.ofNat 64 s.cl.after
  .ok (s.setG (s.g.endClause fun l => if taken l then tgt l else next))

/-- BRA (R100). -/
def execBra (off : Nat) (s : State) : Host.Outcome State Fault Refusal :=
  s.conclude (s.branch (fun _ => s.cl.target 24 off) fun _ => true)

/-- BRZ (R100). -/
def execBrz (n off : Nat) (s : State) : Host.Outcome State Fault Refusal :=
  s.conclude do
    let x ← s.sget n
    s.branch (fun _ => s.cl.target 16 off) fun _ => x == 0

/-- BRNZ (R100). -/
def execBrnz (n off : Nat) (s : State) : Host.Outcome State Fault Refusal :=
  s.conclude do
    let x ← s.sget n
    s.branch (fun _ => s.cl.target 16 off) fun _ => x != 0

/-- BRM (R100). -/
def execBrm (k off : Nat) (s : State) : Host.Outcome State Fault Refusal :=
  s.conclude (s.branch (fun _ => s.cl.target 21 off) fun l => inSet (s.mask k) l)

/-- The per-lane pointers of a register over the active set: available and unmarked (R104, R106, R175). -/
def State.pointers (s : State) (v : Nat) : R VReg := do
  let r ← s.sources s.act [(⟨v, 0⟩, 0)]
  pure (opnd r.2 0)

/-- Raise a cause for the lowest lane of the active set whose pointer fails a test (R104, R106); csr.tmask receives the lanes
that fail it. (Log entry 64, DESIGN CHOICE.) -/
def State.pointerCheck (s : State) (cause : Nat) (p : VReg) (bad : Word → Bool) : R Unit :=
  let fail := setOf fun l => inSet s.act l && bad (p.at l)
  match lanesOf fail with
  | l :: _ => s.trapR cause (p.at l) (some fail)
  | [] => .ok ()

/-- Write the link register with the address of the next clause (R103, R105). -/
def State.link (s : State) (v : Nat) : R State := s.vput v (.u (BitVec.ofNat 64 s.cl.after)) s.act 0

/-- CALL (R103). -/
def execCall (link off : Nat) (s : State) : Host.Outcome State Fault Refusal :=
  s.conclude do
    let s1 ← s.link link
    s1.branch (fun _ => s.cl.target 16 off) fun _ => true

/-- A pointer's address, its class dropped (R101, R104, R106). -/
def ptrAddr (x : Word) : Word := x &&& 0x00FFFFFFFFFFFFFF

/-- CALLI (R104). -/
def execCalli (link ptr cls : Nat) (s : State) : Host.Outcome State Fault Refusal :=
  s.conclude do
    let wide := (mergeReg (s.g.vreg link) (.u (BitVec.ofNat 64 s.cl.after)) s.g.live s.act 0).isP
    let p ← State.stallFirst (fun _ => s.destReady link wide) (do
      let p ← s.pointers ptr
      s.pointerCheck 0x13 p fun x => bits x 63 56 != cls
      s.pointerCheck 0x08 p fun x => bits x 2 0 != 0
      pure p)
    let s1 ← s.link link
    s1.branch (fun l => ptrAddr (p.at l)) fun _ => true

/-- Go to the lanes' pointers (R106). -/
def State.jump (s : State) (v : Nat) : R State := do
  let p ← s.pointers v
  s.pointerCheck 0x08 p fun x => bits x 2 0 != 0
  s.branch (fun l => ptrAddr (p.at l)) fun _ => true

/-- RET (R106). -/
def execRet (link : Nat) (s : State) : Host.Outcome State Fault Refusal := s.conclude (s.jump link)

/-- JMPI (R106). -/
def execJmpi (ptr : Nat) (s : State) : Host.Outcome State Fault Refusal := s.conclude (s.jump ptr)

/-- EXIT (R107): the masked active lanes leave the live set; with none active the clause ends at once. -/
def execExit (k : Nat) (s : State) : Host.Outcome State Fault Refusal :=
  s.conclude (.ok (s.exitLanes s.cur (s.act &&& s.mask k)))

/-- YIELD (R108): every lane of the active set is marked as yielding. -/
def execYield (s : State) : Host.Outcome State Fault Refusal :=
  s.conclude (.ok (s.setG { s.g with yielding := s.g.yielding ||| s.act }))

end Sys2Proof.Machine
end

