-- ==== Sys2Proof/Machine/Float.lean ====
section
/-! DEFINITION. The lane-pipe floating-point words (R273 to R280): their entries and rounding modes, the stochastic
draws (R229, R292), and the arithmetic of each word. -/

namespace Sys2Proof.Machine

/-! ## Entries, modes and draws -/

/-- The gang generator's output at a position (R292). -/
def draw64 (seed q : Word) : Word :=
  let z := q * 0x9E3779B97F4A7C15 + seed
  let z1 := (z ^^^ (z >>> 30)) * 0xBF58476D1CE4E5B9
  let z2 := (z1 ^^^ (z1 >>> 27)) * 0x94D049BB133111EB
  z2 ^^^ (z2 >>> 31)

/-- The draw of element `j` of lane `l` (R229). -/
def Gang.draw (g : Gang) (j l : Nat) : Nat :=
  (draw64 g.seed ((g.ctr + BitVec.ofNat 64 j) * 32 + BitVec.ofNat 64 l)).toNat % 2 ^ 32

/-- The word rounds stochastically (R227). -/
def State.stoch (s : State) : Bool := s.pfx.rm == 3

/-- The rounding mode of element `j` of lane `l` (R227, R274). -/
def State.modeAt (s : State) (j l : Nat) : Mode :=
  match s.pfx.rm with
  | 1 => .rne
  | 2 => .rtz
  | 3 => .stoch (s.g.draw j l)
  | _ => match s.g.fround with
    | 1 => .rtz
    | 2 => .rup
    | 3 => .rdn
    | _ => .rne

/-- A stochastic word advances the counter by its elements per lane, whichever lanes execute (R229). -/
def State.drawn (s : State) (e : Nat) : State :=
  if s.stoch then s.setG { s.g with ctr := s.g.ctr + BitVec.ofNat 64 e } else s

/-- The number of the entry that a view names (R242, R273). -/
def State.viewEntry (s : State) (t : Nat) : Nat :=
  match t with
  | 4 => 0
  | 5 => 1
  | 6 => (s.g.ef &&& 0xFF).toNat
  | _ => (s.g.ef >>> 8).toNat

/-- Capture the entry that a view names: an invalid one, or one of another width, raises FMTENTRY (R244, R273). -/
def State.captureEntry (s : State) (t : Nat) : R Fmt :=
  let n := s.viewEntry t
  let e := (s.ctx s.g.ctx).entry n
  if e.usable && e.fmt.width == viewWidth t && e.fmt.kind != 3 then .ok e.fmt else s.trapR 0x04 (BitVec.ofNat 64 n)

/-- BYPASS for the operands of a word (R68). -/
def State.bypassCheck (s : State) (srcs : List (Src × Nat)) : R Unit :=
  match srcs.find? fun a => s.bypassMissing a.1 with
  | some a => s.trapR 0x07 (BitVec.ofNat 64 (a.1.code - 104))
  | none => .ok ()

/-- One lane of a floating-point word: the codes of its elements, each with its flags ORed (R274). -/
def floatLane (t : Nat) (f : Fmt) (op : Nat → List Nat → Rounded) (vals : List Word) : Word × Byte :=
  let w := viewWidth t
  let r (j : Nat) : Rounded := op j (vals.map fun x => elem w x j % 2 ^ f.width)
  (packElems w fun j => (r j).1, (List.range (64 / w)).foldl (fun b j => b ||| (r j).2) 0)

/-- A floating-point word over its operands: once when every source is U and no draw makes the lanes differ (R55). -/
def floatWord (t : Nat) (f : Fmt) (differ : Bool) (op : Nat → Nat → List Nat → Rounded) (xs : List VReg) : Computed :=
  laneWise xs differ fun l => floatLane t f (fun j cs => op j l cs) (xs.map fun x => x.at l)

/-- The frame of a floating-point lane word (R273, R274, R295): BYPASS, FMTENTRY, POISON, then ARITH. -/
def State.fpWord (s : State) (k : Accept) (d t : Nat) (srcs : List Src) (op : Fmt → (Nat → Nat → Mode) → Bool → Nat → Nat →
    List Nat → Rounded) : Host.Outcome State Fault Refusal :=
  s.conclude do
    s.accept k
    let views := (if k.c then srcs ++ [s.srcC] else srcs).map fun a => (a, t)
    if s.exec_ = 0 then (s.drawn (viewCount t)).noLanes true
    else
      let value (f : Fmt) : List VReg → Computed := floatWord t f s.stoch (op f s.modeAt (s.pfx.sat == 1))
      State.stallFirst (fun _ => s.destReady d (s.widens d (s.shown views)
          ((s.captureEntry t).map fun f => (value f (s.shown views)).1))) do
        s.bypassCheck views
        let f ← s.captureEntry t
        let r ← s.sources s.exec_ views
        let c := value f r.2
        let s2 ← r.1.flags c.2
        (s2.drawn (viewCount t)).result d c.1

/-! ## The arithmetic words (R275, R276) -/

/-- Operand `i` of an element, as a code. -/
def codeAt (cs : List Nat) (i : Nat) : Nat := cs.getD i 0

/-- NV for a signalling operand. -/
def sigFlag (vs : List Num) : Byte := if vs.any Num.isSig then fNV else fNone

/-- NV when an operation on operands that are not NaN gives NaN (R276). -/
def invalidFlag (r : Num) (vs : List Num) : Byte := if r.isNan && !vs.any Num.isNan then fNV else fNone

/-- Round an operation's exact value, with the flags of its operands (R274). -/
def roundOp (f : Fmt) (v : Num) (vs : List Num) (mode : Mode) (sat : Bool) : Rounded :=
  let r := f.round v mode sat
  (r.1, r.2 ||| sigFlag vs ||| invalidFlag v vs)

/-- a + b. -/
def addOp (f : Fmt) (mode : Mode) (sat : Bool) (a b : Num) : Rounded :=
  roundOp f (Num.add (mode == .rdn) a b) [a, b] mode sat

/-- a · b + c, rounded once; 0 · ∞ is invalid whatever c is (R276). -/
def fmaOp (f : Fmt) (mode : Mode) (sat : Bool) (a b c : Num) : Rounded :=
  let p := Num.mul a b
  let r := roundOp f (Num.add (mode == .rdn) p c) [a, b, c] mode sat
  (r.1, r.2 ||| invalidFlag p [a, b])

/-- The prefix fields of the arithmetic words. -/
def fpAccept : Accept := { rm := true, nf := true, sat := true }

/-- FADD (R275). -/
def execFadd (d : Nat) (a b : Src) (t : Nat) (s : State) : Host.Outcome State Fault Refusal :=
  s.fpWord fpAccept d t [a, b] fun f mode sat j l cs => addOp f (mode j l) sat (f.value (codeAt cs 0)) (f.value (codeAt cs 1))

/-- FSUB (R275). -/
def execFsub (d : Nat) (a b : Src) (t : Nat) (s : State) : Host.Outcome State Fault Refusal :=
  s.fpWord fpAccept d t [a, b] fun f mode sat j l cs =>
    addOp f (mode j l) sat (f.value (codeAt cs 0)) (f.value (codeAt cs 1)).neg

/-- FMUL (R275). -/
def execFmul (d : Nat) (a b : Src) (t : Nat) (s : State) : Host.Outcome State Fault Refusal :=
  s.fpWord fpAccept d t [a, b] fun f mode sat j l cs =>
    let x := f.value (codeAt cs 0)
    let y := f.value (codeAt cs 1)
    roundOp f (Num.mul x y) [x, y] (mode j l) sat

/-- FFMA (R275, R276). -/
def execFfma (d : Nat) (a b : Src) (t : Nat) (s : State) : Host.Outcome State Fault Refusal :=
  s.fpWord { fpAccept with c := true } d t [a, b] fun f mode sat j l cs =>
    fmaOp f (mode j l) sat (f.value (codeAt cs 0)) (f.value (codeAt cs 1)) (f.value (codeAt cs 2))

/-- FMIN (R277). -/
def execFmin (d : Nat) (a b : Src) (t : Nat) (s : State) : Host.Outcome State Fault Refusal :=
  s.fpWord { nf := true } d t [a, b] fun f _ _ _ _ cs => AtomOp.applyFmt .fmin f (codeAt cs 0) (codeAt cs 1) .rne

/-- FMAX (R277). -/
def execFmax (d : Nat) (a b : Src) (t : Nat) (s : State) : Host.Outcome State Fault Refusal :=
  s.fpWord { nf := true } d t [a, b] fun f _ _ _ _ cs => AtomOp.applyFmt .fmax f (codeAt cs 0) (codeAt cs 1) .rne

/-- FABS and FNEG (R278): a sign-bit change on a signed float entry, else a saturating rounding under RNE. -/
def signOp (f : Fmt) (negate : Bool) (c : Nat) : Rounded :=
  if f.kind = 0 ∧ f.s = 1 then
    let top := 2 ^ (f.ew + f.fw)
    let low := c % top
    let on := c / top % 2 == 1
    (if negate && !on then low + top else low, fNone)
  else
    let v := f.value c
    roundOp f (if negate then v.neg else v.abs) [v] .rne true

/-- FABS (R278). -/
def execFabs (d : Nat) (a : Src) (t : Nat) (s : State) : Host.Outcome State Fault Refusal :=
  s.fpWord { nf := true } d t [a] fun f _ _ _ _ cs => signOp f false (codeAt cs 0)

/-- FNEG (R278). -/
def execFneg (d : Nat) (a : Src) (t : Nat) (s : State) : Host.Outcome State Fault Refusal :=
  s.fpWord { nf := true } d t [a] fun f _ _ _ _ cs => signOp f true (codeAt cs 0)

/-- FRINT of one element (R276): a value that is already integral, or is not a finite non-integral one, is
returned unchanged, its code as it is: a raw zero code too (log entry 77, DESIGN CHOICE); but under SAT an infinity becomes ±maxf
(R228). -/
def rintOp (f : Fmt) (mode : Mode) (sat : Bool) (c : Nat) : Rounded :=
  let v := f.value c
  match v with
  | .nan _ => roundOp f v [v] mode sat
  | .inf _ => if sat then roundOp f v [v] mode sat else (c, fNone)
  | .fin _ n _ _ =>
    let r := Num.rint mode v
    if f.kind = 1 ∨ n = 0 ∨ Num.eqv r v then (c, fNone)
    else
      let q := roundOp f r [v] mode sat
      (q.1, q.2 ||| fNX)

/-- FRINT (R275, R276). -/
def execFrint (d : Nat) (a : Src) (t : Nat) (s : State) : Host.Outcome State Fault Refusal :=
  s.fpWord fpAccept d t [a] fun f mode sat j l cs => rintOp f (mode j l) sat (codeAt cs 0)

/-- FSCALE of one element: `a * 2^k` (R275, R276).  Beyond 40,000 either way every entry has overflowed or underflowed.  A NaN, an
infinity and a zero return as the code they are, a zero's raw code too (log entry 77, DESIGN CHOICE); but under SAT an infinity becomes
±maxf (R228). -/
def scaleOp (f : Fmt) (mode : Mode) (sat : Bool) (c : Nat) (k : Int) : Rounded :=
  let v := f.value c
  match v with
  | .nan sig => (c, if sig then fNV else fNone)
  | .inf _ => if sat then roundOp f v [v] mode sat else (c, fNone)
  | .fin _ n _ _ =>
    if n = 0 then (c, fNone) else roundOp f (v.scale2 (max (-40000) (min 40000 k))) [v] mode sat

/-- FSCALE (R275): element j of B is read as a signed integer of the element's width. (Log entry 19, DEDUCED.) -/
def execFscale (d : Nat) (a b : Src) (t : Nat) (s : State) : Host.Outcome State Fault Refusal :=
  s.conclude do
    s.accept fpAccept
    let views := [(a, t), (b, t)]
    if s.exec_ = 0 then (s.drawn (viewCount t)).noLanes true
    else
      let w := viewWidth t
      let op (f : Fmt) (xs : List VReg) (j l : Nat) : Rounded :=
        scaleOp f (s.modeAt j l) (s.pfx.sat == 1) (elem w ((opnd xs 0).at l) j % 2 ^ f.width)
          (signedOf w (elem w ((opnd xs 1).at l) j))
      let value (f : Fmt) (xs : List VReg) : Computed := laneWise xs s.stoch fun l =>
        (packElems w fun j => (op f xs j l).1, (List.range (64 / w)).foldl (fun b j => b ||| (op f xs j l).2) 0)
      State.stallFirst (fun _ => s.destReady d (s.widens d (s.shown views)
          ((s.captureEntry t).map fun f => (value f (s.shown views)).1))) do
        s.bypassCheck views
        let f ← s.captureEntry t
        let r ← s.sources s.exec_ views
        let c := value f r.2
        let s2 ← r.1.flags c.2
        (s2.drawn (viewCount t)).result d c.1

/-! ## Compare and classify (R279, R280) -/

/-- NV of a compare: a signalling operand, or a quiet NaN under an ordering condition (R279). -/
def fcmpFlags (cond : Nat) (a b : Num) : Byte :=
  if a.isSig || b.isSig || ((a.isNan || b.isNan) && decide (2 ≤ cond) && decide (cond ≤ 5)) then fNV else fNone

/-- FCMP (R279). -/
def execFcmp (cond k : Nat) (a b : Src) (t : Nat) (s : State) : Host.Outcome State Fault Refusal :=
  s.conclude do
    s.accept { nf := true }
    if s.exec_ = 0 then s.noLanes false
    else
      s.bypassCheck [(a, t), (b, t)]
      let f ← s.captureEntry t
      let r ← s.sources s.exec_ [(a, t), (b, t)]
      let w := viewWidth t
      let va (l j : Nat) : Num := f.value (elem w ((opnd r.2 0).at l) j % 2 ^ f.width)
      let vb (l j : Nat) : Num := f.value (elem w ((opnd r.2 1).at l) j % 2 ^ f.width)
      let es := List.range (viewCount t)
      let s2 ← r.1.flags fun l => es.foldl (fun b j => b ||| fcmpFlags cond (va l j) (vb l j)) 0
      pure (s2.mput k fun l => es.all fun j => fcmpHolds cond (va l j) (vb l j))

/-- The class of an element (R280). -/
def classOf (f : Fmt) (c : Nat) : Nat :=
  match f.value c with
  | .nan sig => if sig then 8 else 9
  | .inf neg => if neg then 0 else 7
  | .fin neg n _ _ =>
    if f.kind = 0 then
      let sub := f.subn != 2 && c / 2 ^ f.fw % 2 ^ f.ew == 0
      if n = 0 then (if neg then 3 else 4)
      else if sub then (if neg then 2 else 5)
      else (if neg then 1 else 6)
    else if n = 0 then 4
    else (if neg then 1 else 6)

/-- FCLASS (R280). -/
def execFclass (d : Nat) (a : Src) (t : Nat) (s : State) : Host.Outcome State Fault Refusal :=
  s.fpWord {} d t [a] fun f _ _ _ _ cs => (classOf f (codeAt cs 0), fNone)

end Sys2Proof.Machine
end

