-- ==== Sys2Proof/Machine/Convert.lean ====
section
/-! DEFINITION. The conversion words CVT, CVTFI and CVTIF (R281, R282). -/

namespace Sys2Proof.Machine

/-- A conversion specification's fields (R281). -/
structure CvtSpec where
  src : Nat
  dst : Nat
  sv : Nat
  part : Nat
  deriving DecidableEq, Repr

/-- The fields of a specification. -/
def cvtSpec (x : Word) : CvtSpec := { src := bits x 7 0, dst := bits x 15 8, sv := bits x 18 16, part := bits x 21 19 }

/-- The lane of lowest number in a set. -/
def firstLane (e : Lanes) : Nat :=
  match lanesOf e with
  | l :: _ => l.val
  | [] => 0

/-- The lanes of a set whose value of an operand differs from the lowest lane's: a vote (R32). -/
def disagree (e : Lanes) (r : VReg) (f : Word → Nat) : Lanes :=
  setOf fun l => inSet e l && f (r.at l) != f (r.at (firstLane e))

/-- CVT's operands: A in the source view, B in the i64 view, and the fourth operand when its value is read or it names a
stream, which every word that names it reads (R66, R281). (Log entry 37, DEDUCED.) -/
def State.cvtSources (s : State) (a b : Src) (t : Nat) : List (Src × Nat) :=
  let sp := match s.sources s.exec_ [(b, 0)] with
    | .ok r => cvtSpec ((opnd r.2 0).at (firstLane s.exec_))
    | .error _ => cvtSpec 0
  (a, sp.sv) :: (b, 0) :: (if viewCount sp.sv ≤ viewCount t ∨ !(streamsOf [(s.srcC, t)]).isEmpty then
    [(s.srcC, t)] else [])

/-- One lane of CVT: the codes converted, and every other element from C (R281). (Log entry 37, DEDUCED.) -/
def cvtLane (sp : CvtSpec) (t : Nat) (sf df : Fmt) (mode : Nat → Mode) (sat : Bool) (a c : Word) : Word × Byte :=
  let ws := viewWidth sp.sv
  let wd := viewWidth t
  let es := viewCount sp.sv
  let ed := viewCount t
  let conv (i j : Nat) : Rounded := convert (elem ws a i % 2 ^ sf.width) sf df (mode j) sat
  if es ≤ ed then
    (packElems wd fun j => if sp.part * es ≤ j ∧ j < (sp.part + 1) * es then (conv (j - sp.part * es) j).1 else elem wd c j,
      (List.range es).foldl (fun b i => b ||| (conv i (sp.part * es + i)).2) 0)
  else
    (packElems wd fun j => (conv (sp.part * ed + j) j).1,
      (List.range ed).foldl (fun b j => b ||| (conv (sp.part * ed + j) j).2) 0)

/-- CVT's result from its operands, with the checks of its specification (R281, R295). -/
def State.cvtValue (s : State) (t : Nat) (xs : List VReg) : R Computed :=
  let spec := opnd xs 1
  let bad := disagree s.exec_ spec fun x => x.toNat
  if bad ≠ 0 then s.trapR 0x03 0 (some bad)
  else
    let x := spec.at (firstLane s.exec_)
    let sp := cvtSpec x
    let c := s.ctx s.g.ctx
    let se := c.entry sp.src
    let de := c.entry sp.dst
    let es := viewCount sp.sv
    let ed := viewCount t
    if !se.usable || !de.usable || viewWidth sp.sv < se.fmt.width || viewWidth t < de.fmt.width ||
        max es ed / min es ed ≤ sp.part then s.trapR 0x04 x
    else .ok (laneWise xs s.stoch fun l =>
      cvtLane sp t se.fmt de.fmt (fun j => s.modeAt j l) (s.pfx.sat == 1) ((opnd xs 0).at l) ((opnd xs 2).at l))

/-- CVT (R281, R295). -/
def execCvt (d : Nat) (a b : Src) (t : Nat) (s : State) : Host.Outcome State Fault Refusal :=
  s.conclude do
    s.accept { fpAccept with c := true }
    if s.exec_ = 0 then (s.drawn (viewCount t)).noLanes true
    else
      let srcs := s.cvtSources a b t
      State.stallFirst (fun _ => s.destReady d (s.widens d (s.shown srcs) ((s.cvtValue t (s.shown srcs)).map (·.1)))) do
        let r ← s.sources s.exec_ srcs
        let w ← s.cvtValue t r.2
        let s2 ← r.1.flags w.2
        (s2.drawn (viewCount t)).result d w.1

/-- The signed integer entry of a width, with BIAS 0 (R282). -/
def intFmt (w : Nat) : Fmt :=
  { valid := true, kind := 1, spec := 2, subn := 0, width := w, s := 1, ew := 0, fw := 0, bias := 0, levels := [] }

/-- CVTFI and CVTIF (R282): the codes of the source entry's width convert to the destination entry's. -/
def State.intConvert (s : State) (k : Accept) (d : Nat) (a : Src) (t : Nat) (toInt : Bool) :
    Host.Outcome State Fault Refusal :=
  s.conclude do
    s.accept k
    if s.exec_ = 0 then (s.drawn (viewCount t)).noLanes true
    else
      let i := intFmt (viewWidth t)
      let value (f : Fmt) : List VReg → Computed :=
        let sf := if toInt then f else i
        let df := if toInt then i else f
        floatWord t sf s.stoch fun j l cs => convert (codeAt cs 0) sf df (s.modeAt j l) (s.pfx.sat == 1)
      State.stallFirst (fun _ => s.destReady d (s.widens d (s.shown [(a, t)])
          ((s.captureEntry t).map fun f => (value f (s.shown [(a, t)])).1))) do
        s.bypassCheck [(a, t)]
        let f ← s.captureEntry t
        let r ← s.sources s.exec_ [(a, t)]
        let c := value f r.2
        let s2 ← r.1.flags c.2
        (s2.drawn (viewCount t)).result d c.1

/-- CVTFI (R282). -/
def execCvtfi (d : Nat) (a : Src) (t : Nat) (s : State) : Host.Outcome State Fault Refusal :=
  s.intConvert { rm := true, nf := true } d a t true

/-- CVTIF (R282). -/
def execCvtif (d : Nat) (a : Src) (t : Nat) (s : State) : Host.Outcome State Fault Refusal :=
  s.intConvert fpAccept d a t false

end Sys2Proof.Machine
end

