-- ==== Sys2Proof/Machine/Cross.lean ====
section
/-! DEFINITION. The cross-lane words (R260 to R268). -/

namespace Sys2Proof.Machine

/-- A P bypass entry as a cross-lane word reads it: 0 outside the executing lanes (R260). (Log entry 18, DEDUCED.) -/
def VReg.within (r : VReg) (e : Lanes) : VReg :=
  match r with
  | .p v => .p (Vector.ofFn fun l => if inSet e l then v[l] else {})
  | x => x

/-- The operands as a cross-lane word reads them (R260). (Log entry 18, DEDUCED.) -/
def crossReads (e : Lanes) (srcs : List (Src × Nat)) (xs : List VReg) : List VReg :=
  (srcs.zip xs).map fun p => if 104 ≤ p.1.1.code ∧ p.1.1.code ≤ 106 then p.2.within e else p.2

/-- The frame of a cross-lane word: it reads its register sources in all 32 lanes, a stream or a P bypass entry
only in the executing ones, and raises POISON for any lane it reads (R260). -/
def State.crossWord (s : State) (d : Nat) (srcs : List (Src × Nat)) (f : Lanes → List VReg → VReg) :
    Host.Outcome State Fault Refusal :=
  s.conclude do
    s.accept {}
    if s.exec_ = 0 then s.noLanes true
    else
      let value (xs : List VReg) : VReg := f s.exec_ (crossReads s.exec_ srcs xs)
      State.stallFirst (fun _ => s.destReady d (s.widens d [] (.ok (value (s.shown srcs))))) do
        let r ← s.sources 0xFFFFFFFF srcs
        r.1.result d (value r.2)

/-- SHFL, SHFLUP, SHFLDN and SHFLX: the source lane of each lane, within segments of `32 >> T` (R261). -/
def shuffle (t : Nat) (src : Nat → Nat → Nat → Nat → Nat) (xs : List VReg) : VReg :=
  let w := 32 >>> t
  perLane fun l => (opnd xs 0).at (src w (l - l % w) (l % w) ((opnd xs 1).at l).toNat)

/-- SHFL (R261). -/
def execShfl (d : Nat) (a b : Src) (t : Nat) (s : State) : Host.Outcome State Fault Refusal :=
  s.crossWord d [(a, 0), (b, 0)] fun _ xs => shuffle t (fun w base _ k => base + k % w) xs

/-- SHFLUP (R261). -/
def execShflup (d : Nat) (a b : Src) (t : Nat) (s : State) : Host.Outcome State Fault Refusal :=
  s.crossWord d [(a, 0), (b, 0)] fun _ xs => shuffle t (fun _ base i k => if k ≤ i then base + i - k else base + i) xs

/-- SHFLDN (R261). -/
def execShfldn (d : Nat) (a b : Src) (t : Nat) (s : State) : Host.Outcome State Fault Refusal :=
  s.crossWord d [(a, 0), (b, 0)] fun _ xs =>
    shuffle t (fun w base i k => if i + k < w then base + i + k else base + i) xs

/-- SHFLX (R261). -/
def execShflx (d : Nat) (a b : Src) (t : Nat) (s : State) : Host.Outcome State Fault Refusal :=
  s.crossWord d [(a, 0), (b, 0)] fun _ xs => shuffle t (fun w base i k => base + (i ^^^ (k % w))) xs

/-- The lowest lane of a set. -/
def lowLane (e : Lanes) : Nat := match lanesOf e with
  | l :: _ => l.val
  | [] => 0

/-- BCAST (R262). -/
def execBcast (d : Nat) (a b : Src) (s : State) : Host.Outcome State Fault Refusal :=
  s.crossWord d [(a, 0), (b, 0)] fun e xs =>
    .u ((opnd xs 0).at (((opnd xs 1).at (lowLane e)).toNat % 32))

/-- VOTE (R263). -/
def execVote (d : Nat) (a : Src) (t : Nat) (s : State) : Host.Outcome State Fault Refusal :=
  s.crossWord d [(a, 0)] fun e xs =>
    let yes := setOf fun l => inSet e l && (opnd xs 0).at l != 0
    .u (match t with
      | 0 => BitVec.zeroExtend 64 yes
      | 1 => if yes ≠ 0 then 1 else 0
      | 2 => if yes = e then 1 else 0
      | _ => BitVec.ofNat 64 (countLanes yes))

/-- MATCH (R264). -/
def execMatchLane (d : Nat) (a : Src) (t : Nat) (s : State) : Host.Outcome State Fault Refusal :=
  s.crossWord d [(a, 0)] fun e xs =>
    let same := setOf fun l => inSet e l && (opnd xs 0).at l == (opnd xs 0).at (lowLane e)
    .u (if t = 0 then BitVec.zeroExtend 64 same else if same = e then 1 else 0)

/-- The executing lanes up to `l`, itself included or not. -/
def lanesTo (e : Lanes) (l : Nat) (incl : Bool) : List (Fin 32) :=
  (lanesOf e).filter fun k => decide (k.val < l) || (incl && k.val == l)

/-- The sum of each element over some lanes (R265, R266). -/
def elemSum (w : Nat) (r : VReg) (ls : List (Fin 32)) : Word :=
  packElems w fun j => (ls.map fun (l : Fin 32) => elem w (r.at l.val) j).sum

/-- SCAN (R265). -/
def execScan (d : Nat) (a : Src) (t : Nat) (s : State) : Host.Outcome State Fault Refusal :=
  s.crossWord d [(a, t)] fun e xs => perLane fun l => elemSum (viewWidth t) (opnd xs 0) (lanesTo e l true)

/-- SCANX (R265). -/
def execScanx (d : Nat) (a : Src) (t : Nat) (s : State) : Host.Outcome State Fault Refusal :=
  s.crossWord d [(a, t)] fun e xs => perLane fun l => elemSum (viewWidth t) (opnd xs 0) (lanesTo e l false)

/-- RSUM (R266). -/
def execRsum (d : Nat) (a : Src) (t : Nat) (s : State) : Host.Outcome State Fault Refusal :=
  s.crossWord d [(a, t)] fun e xs => .u (elemSum (viewWidth t) (opnd xs 0) (lanesOf e))

/-- The best of an element over some lanes, read as signed. -/
def elemBest (w : Nat) (r : VReg) (ls : List (Fin 32)) (better : Int → Int → Bool) : Word :=
  packElems w fun j =>
    match ls with
    | [] => 0
    | l0 :: rest => rest.foldl (fun best (l : Fin 32) =>
        if better (signedOf w (elem w (r.at l.val) j)) (signedOf w best) then elem w (r.at l.val) j else best)
        (elem w (r.at l0.val) j)

/-- RMIN (R266). -/
def execRmin (d : Nat) (a : Src) (t : Nat) (s : State) : Host.Outcome State Fault Refusal :=
  s.crossWord d [(a, t)] fun e xs => .u (elemBest (viewWidth t) (opnd xs 0) (lanesOf e) fun x y => decide (x < y))

/-- RMAX (R266). -/
def execRmax (d : Nat) (a : Src) (t : Nat) (s : State) : Host.Outcome State Fault Refusal :=
  s.crossWord d [(a, t)] fun e xs => .u (elemBest (viewWidth t) (opnd xs 0) (lanesOf e) fun x y => decide (y < x))

/-- CMPRS (R267): the selected lanes' values go to the lowest-ranked executing lanes. -/
def execCmprs (d : Nat) (a b : Src) (s : State) : Host.Outcome State Fault Refusal :=
  s.crossWord d [(a, 0), (b, 0)] fun e xs =>
    let chosen := (lanesOf e).filter fun (l : Fin 32) => (opnd xs 1).at l.val != 0
    perLane fun l =>
      match chosen[(lanesTo e l false).length]? with
      | some k => (opnd xs 0).at k
      | none => 0

end Sys2Proof.Machine
end

