-- ==== Sys2Proof/Machine/Record.lean ====
section
/-! DEFINITION. Aligned blocks that words read and write at once (R147), launch records (R344, R345) and the acceptance of a
grid into its queue (R321). -/

namespace Sys2Proof.Machine

/-! ## Blocks -/

/-- Read an aligned block of 8-byte words at a virtual address of the current gang as one access, checked under R174, when
it may be performed (R138, R145, R147). (Log entry 28, DEDUCED.) -/
def State.readBlock (s : State) (va words : Nat) : R (State × List Slot) := do
  let es ← s.checkGlobal .read (8 * words) true [(0, va)]
  match es with
  | [e] =>
    s.settled .fence e va (8 * words)
    let s1 := s.useTlb [e]
    pure ((List.range words).foldl (fun (acc : State × List Slot) i =>
      let r := acc.1.loadNow s.cur e.shared (va + 8 * i) (e.phys va + 8 * i) 8
      (r.1, acc.2 ++ [r.2])) (s1, []))
  | _ => pure (s, [])

/-- Word `i` of a block. -/
def wordAt (l : List Slot) (i : Nat) : Word := (l.getD i {}).val

/-- POISON for a block that holds poisoned bytes, with its address (R175). -/
def State.blockPoison (s : State) (l : List Slot) (va : Word) : R Unit :=
  if l.any fun x => x.mark.isSome then s.trapR 0x0E va else .ok ()

/-! ## Launch records (R344) -/

/-- A launch record from its eight 8-byte words. -/
def recordOf (w : Nat → Word) : LaunchRec :=
  let b (x : Word) (lo n : Nat) : Nat := bits x (lo + n - 1) lo
  { ver := b (w 0) 0 16
    queue := b (w 0) 16 3
    restart := b (w 0) 24 1 == 1
    sup := b (w 0) 25 1 == 1
    teams := b (w 0) 32 32
    entry := (w 1).toNat
    args := w 2
    threads := b (w 3) 0 11
    wfloor := b (w 3) 16 8
    accs := b (w 3) 24 8
    bars := b (w 3) 32 8
    handles := b (w 3) 40 8
    drawMax := b (w 3) 48 2
    spad := b (w 4) 0 32
    ef := BitVec.ofNat 16 (b (w 4) 32 16)
    lambda := b (w 5) 0 32
    seed := w 6
    reservedZero := b (w 0) 19 5 == 0 && b (w 0) 26 6 == 0 && b (w 3) 11 5 == 0 && b (w 3) 50 6 == 0 && b (w 3) 56 8 == 0 &&
      b (w 4) 48 16 == 0 && b (w 5) 32 32 == 0 && w 7 == 0 }

/-- The entries that an `ef` value names are valid ones of widths 16 and 8, not codebooks (R244, R345). -/
def Ctx.efOk (c : Ctx) (ef : BitVec 16) : Bool :=
  let one (n w : Nat) : Bool :=
    let e := c.entry n
    e.usable && e.fmt.kind != 3 && e.fmt.width == w
  one (ef.toNat % 256) 16 && one (ef.toNat / 256) 8

/-- The refusal code of a record, 0 when none (R345): `user` says that the launcher is at user level, `full` that its
team has 64 child grids, `crowded` that the partition has 4,096 grids. -/
def Ctx.refusal (c : Ctx) (r : LaunchRec) (user full crowded : Bool) : Nat :=
  if r.ver ≠ 1 then 1
  else if !r.reservedZero then 2
  else if r.threads = 0 ∨ 1024 < r.threads then 3
  else if r.teams = 0 then 4
  else if 96 < r.wfloor ∨ 2048 < r.gangs * r.wfloor then 5
  else if 8 < r.accs ∨ 16 < r.bars ∨ 64 < r.handles ∨ r.spad % 256 ≠ 0 ∨ 393216 < r.spad then 6
  else if !c.efOk r.ef then 7
  else if r.entry % 8 ≠ 0 ∨ 2 ^ 56 ≤ r.entry then 8
  else if r.sup && user then 9
  else if full then 10
  else if crowded then 11
  else if c.saveRegion < r.footprint then 14
  else 0

/-- Accept a grid into its partition's queues (R321). -/
def State.acceptGrid (s : State) (gr : Grid) : State × Nat :=
  let k := s.nextKey
  ({ s with nextKey := k + 1, nextOrder := s.nextOrder + 1 }.setGrid k { gr with order := s.nextOrder, since := s.ns, ageMark := s.ns }, k)

end Sys2Proof.Machine
end

