-- ==== Sys2Proof/Machine/Move.lean ====
section
/-! DEFINITION. Pages and where they stand: the pages that a partition uses, free space, and the movement of a page with
everything that names it (R214, R215, R373, R374, R423). -/

namespace Sys2Proof.Machine

/-! ## Pages in use -/

/-- The root of the tables that place a context's pages: stage 2 of a tenant, stage 1 of context 0. -/
def Ctx.root (c : Ctx) : Nat := bits (if c.num = 0 then c.ptbase else c.s2base) 51 11 * 2048

/-- The valid entries under a table: the address of each, and its value. -/
def State.entriesUnder (s : State) : Nat → Nat → List (Nat × Nat)
  | k, table => (List.range (levelEntries k)).flatMap fun i =>
      let ea := table + 8 * i
      let e := s.mem.value ea 8
      if entryOk e then
        if fld e 1 1 = 1 then [(ea, e)]
        else (ea, e) :: (match k with
          | 0 => []
          | k' + 1 => s.entriesUnder k' (entryAddr e))
      else []

/-- The physical ranges that the valid leaves under a table map. -/
def State.leavesUnder (s : State) : Nat → Nat → List (Nat × Nat)
  | k, table => (List.range (levelEntries k)).flatMap fun i =>
      let e := s.mem.value (table + 8 * i) 8
      if entryOk e then
        if fld e 1 1 = 1 then [(entryAddr e, 2 ^ levelShift k)]
        else match k with
          | 0 => []
          | k' + 1 => s.leavesUnder k' (entryAddr e)
      else []

/-- The physical ranges that the valid leaves under a table map, and the tables themselves. -/
def State.mapped (s : State) : Nat → Nat → List (Nat × Nat)
  | k, table => (table, 8 * levelEntries k) :: (List.range (levelEntries k)).flatMap fun i =>
      let e := s.mem.value (table + 8 * i) 8
      if entryOk e then
        if fld e 1 1 = 1 then [(entryAddr e, 2 ^ levelShift k)]
        else match k with
          | 0 => []
          | k' + 1 => s.mapped k' (entryAddr e)
      else []

/-- The contexts of a partition. -/
def State.ctxsOf (s : State) (tag : Nat) : Tbl Ctx := s.ctxs.filter fun e => e.2.part == tag

/-- The physical ranges in use by a partition's contexts. -/
def State.inUseBy (s : State) (tag : Nat) : List (Nat × Nat) := (s.ctxsOf tag).flatMap fun e => s.mapped 4 e.2.root

/-- The pages that a partition's leaves map. -/
def State.leafPages (s : State) (tag : Nat) : List (Nat × Nat) := (s.ctxsOf tag).flatMap fun e => s.leavesUnder 4 e.2.root

/-- The page that moves with an address: the largest that a leaf maps there, since a leaf cannot be parted. -/
def pageAt (pages : List (Nat × Nat)) (pa : Nat) : Option (Nat × Nat) :=
  (pages.filter fun p => decide (p.1 ≤ pa) && decide (pa < p.1 + p.2)).foldl (fun b p => match b with
    | none => some p
    | some x => if x.2 < p.2 then some p else some x) none

/-- Add a page to a list that holds each once. -/
def addPage (p : Nat × Nat) (l : List (Nat × Nat)) : List (Nat × Nat) := if l.contains p then l else p :: l

/-- The pages on which the mapped bytes of a virtual range stand, lowest address first. -/
def State.pagesOf (s : State) (pages : List (Nat × Nat)) (ctx end_ : Nat) : Nat → Nat → List (Nat × Nat)
  | 0, _ => []
  | fuel + 1, va =>
    if end_ ≤ va then []
    else match s.walkBoth ctx va with
      | .error _ => s.pagesOf pages ctx end_ fuel ((va / 65536 + 1) * 65536)
      | .ok e =>
        let rest := s.pagesOf pages ctx end_ fuel ((va / 2 ^ e.lg + 1) * 2 ^ e.lg)
        match pageAt pages (e.phys va) with
        | some p => addPage p rest
        | none => rest

/-- The pages of a registered tensor (R214). -/
def State.tensorPages (s : State) (pages : List (Nat × Nat)) (e : ResEntry) : List (Nat × Nat) :=
  s.pagesOf pages e.ctx (e.base + e.len) (e.len / 65536 + 1) e.base

/-! ## Free space -/

/-- The aligned spaces of `n` bytes that lie wholly in a range, lowest first. -/
def spacesIn (base size n : Nat) : List Nat :=
  ((List.range (size / n + 1)).map fun i => (base + n - 1) / n * n + i * n).filter fun a => decide (a + n ≤ base + size)

/-- The spaces of a partition's CXL windows: a page lies wholly in one window (R373, R439), and in none that a failed or fenced
port serves (R438). -/
def State.windowSpaces (s : State) (tag n : Nat) : List Nat :=
  (s.dev.windows.filter fun w => w.tag == tag && !(w.ports.any fun i => s.isFenced 5 i) &&
    !s.mem.dead.any fun d => d.base == w.base).flatMap fun w => spacesIn w.base w.size n

/-- The aligned spaces of `n` bytes of a stack. -/
def stackSpaces (i n : Nat) : List Nat := (List.range (2 ^ 36 / n)).map fun k => i * 2 ^ 36 + k * n

/-- The spaces of a partition's stacks that are not fenced. -/
def State.dramSpaces (s : State) (tag n : Nat) : List Nat :=
  ((s.part tag).slices.filter fun i => !s.isFenced 4 i).flatMap fun i => stackSpaces i n

/-- The spaces of a tier of a partition. -/
def State.tierSpaces (s : State) (tag tier n : Nat) : List Nat :=
  if tier = 1 then s.windowSpaces tag n else s.dramSpaces tag n

/-- A space is free: no owner tag, nothing listed, not in the reserve, and not mapped. -/
def State.spaceFree (s : State) (tag : Nat) (used : List (Nat × Nat)) (a n : Nat) : Bool :=
  !(used.any fun r => overlap a n r.1 r.2) && !(s.part tag).inReserve a && !(s.part tag).inReserve (a + n - 1) &&
    !(s.owners.any fun o => overlap a n (o.1 * 65536) 65536) && !(s.mem.cells.any fun c => decide (a ≤ c.1) && decide (c.1 < a + n)) &&
    !(s.mem.poison.any fun i => decide (a ≤ i * 8) && decide (i * 8 < a + n))

/-- Choose a free space for each page in turn among the places allowed; none when one does not fit. -/
def State.placePages (s : State) (tag : Nat) (spaces : Nat → List Nat) (ok : Nat → Bool) :
    List (Nat × Nat) → List (Nat × Nat) → Option (List ((Nat × Nat) × Nat))
  | [], _ => some []
  | p :: r, used =>
    match (spaces p.2).find? fun a => s.spaceFree tag used a p.2 && ok a && ok (a + p.2 - 1) with
    | none => none
    | some a => (s.placePages tag spaces ok r ((a, p.2) :: used)).map fun q => (p, a) :: q

/-! ## The movement of a page -/

/-- Drop a physical range from every L1: nothing reads it under its old lease once its page has moved (R215). -/
def State.dropLines (s : State) (a n : Nat) : State :=
  { s with cores := s.cores.map fun e => (e.1, { e.2 with l1 := e.2.l1.filter fun x => !overlap a n (x.line * 128) 128 }) }

/-- Where an address stands after a range has moved. -/
def shifted (a n dst x : Nat) : Nat := if a ≤ x ∧ x < a + n then x - a + dst else x

/-- Move a physical range: contents, poison, owner tags and G go along, a line that takes another's place keeping the greater G of the
two (R171); every table entry and root that names it takes the new place; no TLB of the partition keeps a translation, and no cache
the old place or what stood in the new one (R166, R215, R374). -/
def State.moveRange (s : State) (tag a n dst : Nat) : State :=
  let moved {α : Type} (unit_ : Nat) (t : Tbl α) : Tbl α :=
    t.foldl (fun acc e => tput acc (shifted a n dst (e.1 * unit_) / unit_) e.2) []
  let kept (t : Tbl Nat) : Tbl Nat :=
    t.foldl (fun acc e => let k := shifted a n dst (e.1 * 128) / 128; tput acc k (max e.2 (tget acc k 0))) []
  let s0 : State := { (s.dropLines a n).dropLines dst n with mem := (s.mem.move a dst n).zero a n, owners := moved 65536 s.owners,
                                                             lineG := kept s.lineG }
  let roots (c : Ctx) : Ctx :=
    if c.part = tag then
      let up (x : Word) : Word := BitVec.ofNat 64 (shifted a n dst x.toNat)
      if c.num = 0 then { c with ptbase := up c.ptbase } else { c with s2base := up c.s2base, dlog := up c.dlog }
    else c
  let s1 : State := { s0 with ctxs := s0.ctxs.map fun e => (e.1, roots e.2) }
  -- the entries as they stood, each at the place it now has
  let es := (s.ctxsOf tag).flatMap fun e => s.entriesUnder 4 e.2.root
  let m := es.foldl (fun (m : Memory) e =>
    let new := e.2 - entryAddr e.2 + shifted a n dst (entryAddr e.2)
    if new = e.2 then m else m.write (piecesOf (shifted a n dst e.1) 8 (BitVec.ofNat 64 new))) s1.mem
  let own (k : Nat) : Bool := (s.ctx k).part == tag
  let lines (l : List ILine) : List ILine :=
    l.filter fun x => !overlap a n (x.line * 64) 64 && !overlap dst n (x.line * 64) 64
  { s1 with
    mem := m
    cores := s1.cores.map fun e =>
      (e.1, { e.2 with tlb := e.2.tlb.filter fun x => !own x.ctx, mid := e.2.mid.filter fun x => !own x.ctx, l0 := lines e.2.l0 })
    clusters := s1.clusters.map fun e =>
      (e.1, { e.2 with tlb := e.2.tlb.filter fun x => !own x.ctx, mid := e.2.mid.filter fun x => !own x.ctx, ic := lines e.2.ic }) }

/-- Make the moves of a plan; a line that has come to a full L2 slice makes another leave it (R13). -/
def State.movePages (s : State) (tag : Nat) (plan : List ((Nat × Nat) × Nat)) : State :=
  (plan.foldl (fun (st : State) q => st.moveRange tag q.1.1 q.1.2 q.2) s).trimSlices tag

/-- An access in flight stands where a test holds, of its first byte and its length: at its bytes or, but for a load, at a table entry
whose D bit it is to set (R215). -/
def State.busyAt (s : State) (here : Nat → Nat → Bool) : Bool :=
  let item (load : Bool) (i : Item) : Bool := !i.done && (here i.pa i.w || (!load && i.dirt.any fun d =>
    (d.leaf1.any fun a => here a 8) || d.leaf2.any fun a => here a 8))
  (s.ops.any fun o => !o.kind.onSpad && o.items.any (item o.kind.isLoad)) ||
  (s.cores.any fun c => c.2.freq.any fun r => !r.walk && here (r.pa * 64) 64) ||
  s.inbound.any fun e => !e.performed && e.items.any (item false)

/-- Accesses in flight stand on a page: it does not move before they are performed (R215). -/
def State.pageBusy (s : State) (p : Nat × Nat) : Bool := s.busyAt fun a n => overlap p.1 p.2 a n

/-! ## Tensors (R214, R215) -/

/-- The tier that a physical address stands in (R214). -/
def State.tierOf (s : State) (tag pa : Nat) : Nat := if s.inWindow tag pa then 1 else 0

/-- The pages of a tensor that stand outside a tier: with none it is in the tier, whatever has moved them (R215). -/
def State.outside (s : State) (e : ResEntry) (tier : Nat) : List (Nat × Nat) :=
  let tag := (s.ctx e.ctx).part
  (s.tensorPages (s.leafPages tag) e).filter fun p => s.tierOf tag p.1 != tier

/-- Where the pages of a tensor that stand outside a tier would go in it; none when it has no room (R215). -/
def State.tierPlan (s : State) (e : ResEntry) (tier : Nat) : Option (List ((Nat × Nat) × Nat)) :=
  let tag := (s.ctx e.ctx).part
  s.placePages tag (s.tierSpaces tag tier) (fun _ => true) (s.outside e tier) (s.inUseBy tag)

/-- Move a tensor to a tier, when it has room there and nothing stands on its pages. -/
def State.moveTensor (s : State) (tag idx tier : Nat) : Option State :=
  match tget? (s.part tag).resid idx with
  | none => none
  | some e =>
    match s.tierPlan e tier with
    | none => none
    | some l =>
      if l.any fun q => s.pageBusy q.1 then none
      else
        let s1 := s.movePages tag l
        let p := s1.part tag
        some (s1.setPart tag { p with resid := tput p.resid idx { e with moving := false } })

end Sys2Proof.Machine
end

