-- ==== Sys2Proof/Machine/Engine.lean ====
section
/-! DEFINITION. The engine words: COPY and its rounds (R197 to R200), HWAIT, HREL, HSTATE and WPR (R200 to R203), CHAPP,
SEQW and SEQR (R204, R205, R212), STDEF and STPOS (R194 to R196), RESID and DEMOTE (R214, R215); and the accesses that a
ladle makes at the banks. -/

namespace Sys2Proof.Machine

/-! ## Accesses at the banks -/

/-- Why a ladle's access stops: its frame is not ready yet, or it fails with a STATUS of R211 at an address. -/
inductive Stop_ where
  | wait
  | fail (status addr : Nat)
  deriving DecidableEq, Repr

/-- The state in which accesses made so far stand, the latest completion time of its writes, and why they have stopped. -/
structure Mover where
  st : State
  comp : Nat := 0
  stop : Option Stop_ := none

/-- A range cut at the aligned 8-byte words: each piece's address and length. -/
def words8 (a n : Nat) : List (Nat × Nat) :=
  if n = 0 then []
  else (List.range ((a + n - 1) / 8 - a / 8 + 1)).map fun i =>
    let lo := max a ((a / 8 + i) * 8)
    (lo, min (a + n) ((a / 8 + i) * 8 + 8) - lo)

/-- The translation of a ladle's access for a context at a level: walked, with no TLB (R165, R198, R211, R362). -/
def State.ladleLook (s : State) (ctx level va : Nat) (k : Access) : Except Nat TlbEntry :=
  if 2 ^ 56 ≤ va then .error 2
  else match s.walkBoth ctx va with
    | .error f => .error (if f.xlate then 2 else 3)
    | .ok e => match e.permit k level va with
      | some _ => .error 3
      | none => .ok e

/-- The tables that the walk of an access made with no TLB zeroes, when it fails on one; none while its frame is not ready (R367). -/
def State.zeroWalk (s : State) (ctx va : Nat) : Option State :=
  match s.walkBoth ctx va with
  | .error f => s.ownTable ctx f
  | .ok _ => some s

/-- The frame of an access is ready, and owned by the access (R367). -/
def State.ownNow (s : State) (ctx : Nat) (e : TlbEntry) (va : Nat) : Option State :=
  let c := s.ctx ctx
  if s.ownReady c.part c.num (e.phys va / 65536) e.shared then some (s.own c.num (e.phys va / 65536) e.shared) else none

/-- Read bytes within one aligned 8-byte word at their bank. -/
def Mover.read8 (m : Mover) (ctx level va n : Nat) : Mover × List Byte :=
  if m.stop.isSome then (m, [])
  else match m.st.ladleLook ctx level va .read with
    | .error c => match m.st.zeroWalk ctx va with
      | some s => ({ m with st := s, stop := some (.fail c va) }, [])
      | none => ({ m with stop := some .wait }, [])
    | .ok e => match m.st.ownNow ctx e va with
      | none => ({ m with stop := some .wait }, [])
      | some s =>
        if s.mem.poisoned (e.phys va) n then ({ m with st := s, stop := some (.fail 1 va) }, [])
        else ({ m with st := s }, s.mem.bytes (e.phys va) n)

/-- Read a range of bytes at the banks, lowest first. -/
def Mover.read (m : Mover) (ctx level va n : Nat) : Mover × List Byte :=
  (words8 va n).foldl (fun (acc : Mover × List Byte) p =>
    let r := acc.1.read8 ctx level p.1 p.2
    (r.1, acc.2 ++ r.2)) (m, [])

/-- Perform a store of bytes within a page through its translation, at the banks: D bits and the dirty log, the bytes, and
the completion time (R141, R362). -/
def State.storeAt (s : State) (ctx : Nat) (e : TlbEntry) (va : Nat) (bs : List Byte) : State × Nat :=
  let s1 := (s.ownLeaves ctx [e.dref va]).markDirty ctx (e.dref va)
  ({ s1 with mem := s1.mem.write (piecesOfBytes (e.phys va) bs) },
    max (s1.lineExpiry (s.ctx ctx).part (e.phys va)) s1.ns)

/-- Write bytes within one aligned 8-byte word at their bank. -/
def Mover.write8 (m : Mover) (ctx level va : Nat) (bs : List Byte) : Mover :=
  if m.stop.isSome then m
  else match m.st.ladleLook ctx level va .write with
    | .error c => match m.st.zeroWalk ctx va with
      | some s => { m with st := s, stop := some (.fail c va) }
      | none => { m with stop := some .wait }
    | .ok e => match m.st.ownNow ctx e va with
      | none => { m with stop := some .wait }
      | some s =>
        let r := s.storeAt ctx e va bs
        { m with st := r.1, comp := max m.comp r.2 }

/-- Write a list of bytes at the banks, lowest first. -/
def Mover.write (m : Mover) (ctx level va : Nat) (bs : List Byte) : Mover :=
  (words8 va bs.length).foldl (fun (acc : Mover) p => acc.write8 ctx level p.1 ((bs.drop (p.1 - va)).take p.2)) m

/-! ## COPY -/

/-- The team declares the handle (R48). -/
def State.handleDeclared (s : State) (k : Nat) : R Unit :=
  if k < (s.team s.g.team).hIdx.length then .ok () else s.undefWord

/-- Put a handle of a team. -/
def State.setHandle (s : State) (tk k : Nat) (h : Handle) : State :=
  let t := s.team tk
  s.setTeam tk { t with handles := tput t.handles k h }

/-- A partition has a ladle that is not fenced (R198, R397). -/
def State.hasLadle (s : State) (tag : Nat) : Bool := (s.part tag).ladles.any fun l => !s.isFenced 2 l

/-- The partition has a ladle, or the word raises ENGINE with fault address 0 (R198, R205, R397). -/
def State.needLadle (s : State) : R Unit := if s.hasLadle s.g.part then .ok () else s.trapR 0x0F 0


/-- A COPY that the handle accepts: the handle after it (R199). -/
def Handle.accept (h : Handle) (out_ : Bool) (expected : List Nat) (x : Slice) : Option Handle :=
  let counted := h.slices.any fun y => y.gang == x.gang
  let opens (st : HandleState) : Handle :=
    { state := st, isOpen := true, expected := expected, slices := [x] }
  match out_, h.state with
  | false, .free => some (opens .filling)
  | true, .full => some (opens .draining)
  | false, .filling | true, .draining =>
    if !counted && !h.closed then some { h with slices := h.slices ++ [x] } else none
  | _, _ => none

/-- COPY (R198, R199); the range of a slice of no bytes is checked too. (Log entry 65, DESIGN CHOICE.) -/
def execCopy (k a b : Nat) (s : State) : Host.Outcome State Fault Refusal :=
  s.conclude do
    s.accept { m := false, z := false }
    s.handleDeclared k
    let glob ← s.sget a
    let w ← s.sget b
    let len := bits w 55 32
    let off := bits w 31 0
    if bits w 62 56 ≠ 0 ∨ 393216 < len then s.trapR 0x01 w
    else if glob.toNat % 8 ≠ 0 then s.trapR 0x08 glob
    else if off % 8 ≠ 0 then s.trapR 0x08 (BitVec.ofNat 64 off)
    else if len % 8 ≠ 0 then s.trapR 0x08 (BitVec.ofNat 64 len)
    else if (s.team s.g.team).spadLen < off + len then s.trapR 0x0B (BitVec.ofNat 64 off)
    else
      s.needLadle
      s.flagRoom s.cl.setb
      s.handOff
      let tk := s.g.team
      let live := (s.gangs.filter fun e => e.2.team == tk && e.2.life != .retired).map (·.1)
      let x : Slice := { gang := s.cur, gindex := s.g.gindex, level := s.g.level, glob := glob.toNat, len := len, spoff := off,
                         op := s.nextOp }
      match ((s.team tk).handle k).accept (w.getLsbD 63) live x with
      | none => s.holdR (.copy k)
      | some h => pure (((s.setHandle tk k h).issueOp (s.newOp s.cl.setb (.copy k) [])).closeRounds tk)

/-- The slices that cover a scratchpad offset, the highest-numbered gang's last. -/
def Handle.covering (h : Handle) (o : Nat) : List Slice :=
  (h.slices.filter fun x => decide (x.spoff ≤ o) && decide (o < x.spoff + x.len)).foldl
    (fun l x => (l.filter fun y => decide (y.gindex ≤ x.gindex)) ++ [x] ++ l.filter fun y => decide (x.gindex < y.gindex)) []

/-- Write 8 bytes of a team's scratchpad. -/
def Team.spadPut (t : Team) (off : Nat) (bs : List Byte) : Team := { t with spad := t.spad.write (piecesOfBytes off bs) }

/-- Move the 8 bytes at a scratchpad offset of a round (R198 to R200): inbound, every slice there is read, each under its gang's level,
and the highest-numbered gang's gives the bytes; outbound, every slice there takes them. (Log entry 41, DEDUCED.) -/
def Mover.copyWord (m : Mover) (tk : Nat) (h : Handle) (o : Nat) : Mover :=
  let t := m.st.team tk
  let l := h.covering o
  match h.state with
  | .filling =>
    let r := l.foldl (fun (acc : Mover × List Byte) x => acc.1.read8 t.ctx x.level (x.glob + (o - x.spoff)) 8) (m, [])
    if r.1.stop.isSome || l.isEmpty then r.1
    else { r.1 with st := r.1.st.setTeam tk ((r.1.st.team tk).spadPut o r.2) }
  | .draining =>
    l.foldl (fun (acc : Mover) x =>
      if acc.stop.isSome then acc
      else
        let ga := x.glob + (o - x.spoff)
        if t.spad.poisoned o 8 then { acc with stop := some (.fail 1 ga) }
        else acc.write8 t.ctx x.level ga (t.spad.bytes o 8)) m
  | _ => m

/-- Move the words of a round, ascending, until one stops; the count of bytes moved goes up with them. -/
def Mover.copyWords (tk : Nat) (h : Handle) : Nat → Nat → Mover → Mover × Nat
  | 0, moved, m => (m, moved)
  | n + 1, moved, m =>
    let r := m.copyWord tk h (h.lo + moved)
    if r.stop.isSome then (r, moved) else Mover.copyWords tk h n (moved + 8) r

/-- A round ends: its operations complete, with the error report of the round (R199 to R201, R352). -/
def State.endRound (s : State) (tk k : Nat) (h : Handle) : State :=
  let r : Option Report := if h.err then some { engine := true, addr := h.errAddr } else none
  let s1 := s.setHandle tk k { h with isOpen := false, closed := false, expected := [], slices := [] }
  let s2 := h.slices.foldl (fun (st : State) x => match st.op? x.op with
    | some o => st.endOp o r
    | none => st) s1
  let t := s2.team tk
  -- a retired team's record was kept for its rounds only (R337)
  if t.life = .retired ∧ !t.roundsOpen ∧ (s2.grid t.grid).retired = true then { s2 with teams := tdel s2.teams tk } else s2

/-- COPY_ROUND_END (R199, R200): the ladle moves a closed round's bytes up to a count, and the round ends when all are moved
(and, outbound, past their completion times), or at a fault or poison. (Log entry 41, DEDUCED.)  A round that ends so leaves the pointer
at the bytes written. (Log entry 80, DESIGN CHOICE.) -/
def execCopyRoundEnd (team h upto : Nat) (s : State) : Host.Outcome State Fault Refusal :=
  let hd := (s.team team).handle h
  if !(hd.isOpen && hd.closed) then .next s
  else
    let total := hd.hi - hd.lo
    let n := min total upto
    let out_ := hd.state == .draining
    let r := Mover.copyWords team hd ((n - hd.moved) / 8) hd.moved { st := s }
    let comp := max hd.comp r.1.comp
    -- the pointer passes an outbound byte when its completion time has come (R156)
    let ptr := if out_ then (if hd.comp ≤ s.ns then hd.moved else hd.ptr) else r.2
    let h1 : Handle := { hd with moved := r.2, comp := comp, ptr := ptr }
    match r.1.stop with
    | some (.fail _ a) =>
      .next (r.1.st.endRound team h { h1 with state := if out_ then .free else .full, err := true,
                                              errAddr := BitVec.ofNat 64 a })
    | _ =>
      if r.2 = total ∧ (!out_ ∨ comp ≤ s.ns) then
        .next (r.1.st.endRound team h { h1 with state := if out_ then .free else .full, ptr := total })
      else .next (r.1.st.setHandle team h h1)

/-! ## Handle words -/

/-- The current gang's view of a handle. -/
def State.handleOf (s : State) (k : Nat) : Handle := (s.team s.g.team).handle k

/-- HWAIT (R201): `full` is 0 for the wanted state free and 1 for full. -/
def execHwait (k full : Nat) (s : State) : Host.Outcome State Fault Refusal :=
  s.conclude do
    s.accept { m := false, z := false }
    s.handleDeclared k
    let h := s.handleOf k
    if full = 1 ∧ !(s.g.wait matches .hwait _) ∧ ((h.state = .free ∧ !h.isOpen) ∨ h.state = .draining) then
      s.trapR 0x0C (BitVec.ofNat 64 k)
    else if h.state = (if full = 1 then .full else .free) then
      if h.err then s.trapR 0x0F h.errAddr else pure s.acquireP
    else s.holdR (.hwait k)

/-- HREL (R202). -/
def execHrel (k : Nat) (s : State) : Host.Outcome State Fault Refusal :=
  s.conclude do
    s.accept { m := false, z := false }
    s.handleDeclared k
    s.waitFor .fence s.loadsPending
    s.handOff
    let h := s.handleOf k
    match h.state with
    | .filling => s.holdR (.hrel k)
    | .full => pure (s.setHandle s.g.team k { h with state := .free, ptr := 0, err := false, errAddr := 0 })
    | _ => s.trapR 0x02 0

/-- The code of a handle state (R203). -/
def HandleState.code : HandleState → Nat
  | .free => 0
  | .filling => 1
  | .full => 2
  | .draining => 3

/-- HSTATE (R203). -/
def execHstate (d k : Nat) (s : State) : Host.Outcome State Fault Refusal :=
  s.conclude do
    s.accept { m := false, z := false }
    s.handleDeclared k
    let h := s.handleOf k
    s.sput d (BitVec.ofNat 64 (h.state.code + h.slices.length * 4 + h.err.toNat * 256))

/-- WPR (R200). -/
def execWpr (d k : Nat) (s : State) : Host.Outcome State Fault Refusal :=
  s.conclude do
    s.accept { m := false, z := false }
    s.handleDeclared k
    let t ← s.sput d (BitVec.ofNat 64 (s.handleOf k).ptr)
    pure t.acquireP

/-! ## Chains -/

/-- The one translation of a single checked access. -/
def State.check1 (s : State) (k : Access) (al va : Nat) : R TlbEntry := do
  let es ← s.checkGlobal k al true [(0, va)]
  match es with
  | [e] => pure e
  | _ => s.undefWord

/-- Perform a store of a word at its bank, and give the core's L1 copies of the context its bytes (R141, R144). -/
def State.wordStore (s : State) (e : TlbEntry) (va n : Nat) (x : Word) : State × Nat :=
  let bs := bytesOfNat n x.toNat
  let r := s.storeAt s.g.ctx e va bs
  (r.1.takeStore s.g.core s.g.ctx (e.phys va) (piecesOfBytes (e.phys va) bs), r.2)

/-- Hold until a frame is ready, then own it (R367). -/
def State.ownR (s : State) (e : TlbEntry) (va : Nat) : R State :=
  match s.ownNow s.g.ctx e va with
  | some t => .ok t
  | none => s.holdR .acks

/-- Hold until a frame can be written, with the leaves whose D bits that sets (R362, R367). -/
def State.ownW (s : State) (e : TlbEntry) (va : Nat) : R State :=
  if s.leavesReady s.g.ctx [e.dref va] then s.ownR e va else s.holdR .acks

/-- The chain of a context with its block at an address: its key and record. -/
def State.chainAt (s : State) (ctx addr : Nat) : Option (Nat × Chain) :=
  s.chains.find? fun e => e.2.ctx == ctx && e.2.addr == addr

/-- The block of a chain holds poison (R175, R395): its fields have no values; a block that cannot be read counts as such. -/
def State.blockBad (s : State) (c : Chain) : Bool :=
  match s.ladleLook c.ctx 1 c.addr .read with
  | .ok e => s.mem.poisoned (e.phys c.addr) 48
  | .error _ => true

/-- A field of a chain's block. -/
def State.blockField (s : State) (c : Chain) (off n : Nat) : Nat :=
  match s.ladleLook c.ctx 1 c.addr .read with
  | .ok e => s.mem.value (e.phys c.addr + off) n
  | .error _ => 0

/-- The cards that stand on a chain from one on, through their NEXT fields (R206). -/
def State.follow (s : State) (c : Chain) : Nat → Nat → List Nat
  | 0, _ => []
  | fuel + 1, card =>
    if card = 0 then []
    else match s.ladleLook c.ctx 1 card .read with
      | .ok e => card :: s.follow c fuel (s.mem.value (e.phys card) 8)
      | .error _ => [card]

/-- The cards of a chain that are reachable from HEAD (R213); a poisoned block loses none. -/
def State.reach (s : State) (c : Chain) : List Nat :=
  if s.blockBad c then c.cards.map (·.card) else s.follow c (c.cards.length + 1) (s.blockField c 0 8)

/-- A card stands on a live chain of a context: it waits on one, or its job has not ended (R205). -/
def State.cardLive (s : State) (ctx card : Nat) : Bool :=
  (s.jobs.any fun j => j.ctx == ctx && j.card == card && j.status.isNone && !j.back) ||
    s.chains.any fun e => e.2.ctx == ctx && (e.2.cards.any fun k => k.card == card) && (s.reach e.2).contains card

/-- A card that stands on live chains twice fails on each: those that wait and the jobs that run learn it (R205, R211). -/
def State.markTwice (s : State) (ctx card : Nat) : State :=
  { s with
    chains := s.chains.map fun e => if e.2.ctx = ctx then
        (e.1, { e.2 with cards := e.2.cards.map fun k => if k.card = card then { k with twice := true } else k }) else e
    jobs := s.jobs.map fun j => if j.ctx = ctx ∧ j.card = card ∧ j.status.isNone then
      { j with invalid := some 5, given := { j.given with twice := true } } else j }

/-- CHAPP's append on the device's side: the chain's record takes the card; at its first use, with NEXTSEQ still 0, the block
starts a chain of its own (R204, R205), unless cards stand on it, jobs of it run, or one has ended whose number DONE has still to tell: the store that made NEXTSEQ 0 then counts as R213's,
and the chain goes on. (Log entry 42, DEDUCED.) -/
def State.appendCard (s : State) (addr seq done : Nat) (k : Card) : State × Nat :=
  let ctx := s.g.ctx
  let s1 := if k.twice then s.markTwice ctx k.card else s
  let live (e : Nat × Chain) : Bool :=
    ((s1.reach e.2).any fun x => x != k.card && e.2.cards.any fun y => y.card == x) ||
      (s1.jobs.any fun j => j.chain == e.1 && j.status.isNone) || !e.2.ended.isEmpty
  match s1.chainAt ctx addr with
  | some c =>
    if seq ≠ 0 ∨ live c = true then ({ s1 with chains := tput s1.chains c.1 { c.2 with cards := c.2.cards ++ [k] } }, c.1)
    else ({ s1 with chains := tput (tdel s1.chains c.1) s1.nextKey { ctx := ctx, addr := addr, cards := [k], done := done },
                    nextKey := s1.nextKey + 1 }, s1.nextKey)
  | none =>
    ({ s1 with chains := tput s1.chains s1.nextKey { ctx := ctx, addr := addr, cards := [k], done := done },
               nextKey := s1.nextKey + 1 }, s1.nextKey)

/-- CHAPP (R155, R205). (Log entry 42, DEDUCED.) -/
def execChapp (d a b : Nat) (s : State) : Host.Outcome State Fault Refusal :=
  s.conclude do
    s.accept { m := false, z := false }
    let blk ← s.sget a
    let card ← s.sget b
    if blk.toNat % 64 ≠ 0 then s.trapR 0x08 blk
    else if card.toNat % 128 ≠ 0 then s.trapR 0x08 card
    else
      s.needLadle
      s.ready (s.sBusy d)
      s.flagRoom s.cl.setb
      let eb ← s.check1 .atomic 64 blk.toNat
      let ec ← s.check1 .write 128 card.toNat
      s.handOff
      s.banked eb blk.toNat 64
      s.banked ec card.toNat 8
      let s1 ← s.ownW eb blk.toNat
      let s2 ← s1.ownW ec card.toNat
      let pb := eb.phys blk.toNat
      let r1 := s2.wordStore ec card.toNat 8 0
      if s2.mem.poisoned pb 24 then
        -- an atomic on poisoned bytes is not performed, and its returned value, a free one, is marked (R175; log entry 15, DESIGN CHOICE)
        let f := r1.1.free
        pure (f.2.setG ((f.2.g.notePend r1.2).setS d { val := f.1, mark := some blk }))
      else
        let tail := s2.mem.word (pb + 8)
        let seq := s2.mem.word (pb + 16)
        let n := seq + 1
        let r2 := r1.1.wordStore eb (blk.toNat + 8) 8 card
        let r3 := r2.1.wordStore eb (blk.toNat + 16) 8 n
        let r4 ← (if tail = 0 then
            pure (if r3.1.mem.word pb = 0 then r3.1.wordStore eb blk.toNat 8 card else (r3.1, 0))
          else do
            let et ← r3.1.check1 .write 8 tail.toNat
            s.banked et tail.toNat 8
            let s4 ← r3.1.ownW et tail.toNat
            pure (s4.wordStore et tail.toNat 8 card))
        let comp := max (max r1.2 r2.2) (max r3.2 r4.2)
        let s5 := (r4.1.setG ((r4.1.g.notePend comp).setS d { val := n })).useTlb [eb, ec]
        let q := s5.appendCard blk.toNat seq.toNat (s2.mem.word (pb + 24)).toNat
          { card := card.toNat, seq := n.toNat, level := s5.g.level, gang := s5.cur, op := s5.nextOp,
            twice := s2.cardLive s.g.ctx card.toNat }
        pure (q.1.issueOp (q.1.newOp q.1.cl.setb (.chapp q.2 card.toNat) []))

/-- SEQW (R212, R213). (Log entry 42, DEDUCED.) -/
def execSeqw (a b : Nat) (s : State) : Host.Outcome State Fault Refusal :=
  s.conclude do
    s.accept { m := false, z := false }
    let blk ← s.sget a
    let n ← s.sget b
    let e ← s.check1 .read 64 blk.toNat
    s.banked e blk.toNat 64
    let s1 ← (s.useTlb [e]).ownR e blk.toNat
    let p := e.phys blk.toNat
    -- a field that holds poison has no value: POISON when SEQW comes to read it
    let field (off : Nat) : R Word := if s1.mem.poisoned (p + off) 8 then s.trapR 0x0E blk else .ok (s1.mem.word (p + off))
    let waits := s.g.wait matches .seqw _
    let top ← if waits then pure n else field 16
    if top.toNat < n.toNat then s.trapR 0x0C blk
    else
      let done ← field 24
      if done.toNat < n.toNat then s.holdR (.seqw blk.toNat)
      else
        let err ← field 32
        if err ≠ 0 ∧ err.toNat ≤ n.toNat then s.trapR 0x0F blk else pure s1.acquireP

/-- SEQR (R212): a load of DONE. -/
def execSeqr (d a : Nat) (s : State) : Host.Outcome State Fault Refusal :=
  s.conclude do
    s.accept { m := false, z := false }
    let blk ← s.sget a
    s.ready (s.sBusy d)
    let e ← s.check1 .read 64 blk.toNat
    s.settled .fence e (blk.toNat + 24) 8
    let r := (s.useTlb [e]).loadNow s.cur e.shared (blk.toNat + 24) (e.phys blk.toNat + 24) 8
    pure (r.1.setG (r.1.g.setS d r.2))

/-! ## Stream descriptors -/

/-- A stream register from its descriptor's eight words (R194). -/
def streamOf (w : Nat → Word) : StreamReg :=
  { base := BitVec.ofNat 64 (bits (w 0) 55 0), zc := bits (w 0) 57 56
    strides := Vector.ofFn fun k => BitVec.ofNat 32 (bits (w (k.val + 1)) 31 0)
    extents := Vector.ofFn fun k => BitVec.ofNat 32 (bits (w (k.val + 1)) 63 32)
    pos := w 6, fin := bits (w 7) 7 0 == 1 }

/-- The descriptor's words of a stream register (R194). -/
def StreamReg.word (st : StreamReg) (i : Nat) : Word :=
  if i = 0 then BitVec.ofNat 64 (st.base.toNat % 2 ^ 56 + st.zc * 2 ^ 56)
  else if h : i - 1 < 5 then BitVec.ofNat 64 (st.strides[i - 1].toNat + st.extents[i - 1].toNat * 2 ^ 32)
  else if i = 6 then st.pos
  else BitVec.ofNat 64 st.fin.toNat

/-- Put a stream register. -/
def Gang.setStream (g : Gang) (n : Nat) (x : StreamReg) : Gang := { g with st := g.st.setIfInBounds n x }

/-- STDEF, the load form (R195). -/
def execStdefLoad (n a : Nat) (s : State) : Host.Outcome State Fault Refusal :=
  s.conclude do
    s.accept { m := false, z := false }
    let va ← s.sget a
    let r ← s.readBlock va.toNat 8
    s.blockPoison r.2 va
    let w := wordAt r.2
    if bits (w 0) 63 58 ≠ 0 then s.trapR 0x01 (w 0)
    else if 1 < bits (w 7) 7 0 ∨ bits (w 7) 63 8 ≠ 0 then s.trapR 0x01 (w 7)
    else pure (r.1.setG (r.1.g.setStream n (streamOf w)))

/-- STDEF, the store form (R195): one aligned 64-byte store, attached to no flag. -/
def execStdefStore (n a : Nat) (s : State) : Host.Outcome State Fault Refusal :=
  s.conclude do
    s.accept { m := false, z := false }
    let va ← s.sget a
    let e ← s.check1 .write 64 va.toNat
    let st := s.g.stream n
    let bs := (List.range 8).flatMap fun i => bytesOfNat 8 (st.word i).toNat
    let i : Item := { itemOf 0 va.toNat 64 e with pieces := piecesOfBytes (e.phys va.toNat) bs }
    let s1 := s.useTlb [e]
    pure (s1.issueStore (s1.newOp 15 (.store false) [i]))

/-- STPOS, the read form (R196). -/
def execStposRead (d n : Nat) (s : State) : Host.Outcome State Fault Refusal :=
  s.conclude do
    s.accept { m := false, z := false }
    let st := s.g.stream n
    s.sput d (BitVec.ofNat 64 (st.fin.toNat * 2 ^ 63 + st.pos.toNat % 2 ^ 63))

/-- STPOS, the write form (R196). -/
def execStposWrite (n a : Nat) (s : State) : Host.Outcome State Fault Refusal :=
  s.conclude do
    s.accept { m := false, z := false }
    let x ← s.sget a
    let st := s.g.stream n
    pure (s.setG (s.g.setStream n { st with pos := BitVec.ofNat 64 (x.toNat % 2 ^ 63), fin := false }))

/-! ## Residency -/

/-- The tier a virtual address of a context stands in: 1 in a CXL window, else 0 (R214), an unmapped one among them.  Query reports that
of a tensor's base as it stands. (Log entry 66, DESIGN CHOICE.) -/
def State.tierAt (s : State) (ctx va : Nat) : Nat :=
  match s.walkBoth ctx va with
  | .ok e => s.tierOf (s.ctx ctx).part (e.phys va)
  | .error _ => 0

/-- The entry of a partition's residency table that a context owns. -/
def Part.resOf (p : Part) (ctx idx : Nat) : Option ResEntry :=
  match tget? p.resid idx with
  | some e => if e.ctx = ctx then some e else none
  | none => none

/-- Put a scalar with its mark off, when it is available. -/
def State.allOnes : Word := 0xFFFFFFFFFFFFFFFF

/-- RESID (R214). (Log entry 45, DEDUCED.)  A registration takes the lowest free index. (Log entry 80, DESIGN CHOICE.) -/
def execResid (d a b : Nat) (s : State) : Host.Outcome State Fault Refusal :=
  s.conclude do
    s.accept { m := false, z := false }
    let x ← s.sget a
    let w ← s.sget b
    s.ready (s.sBusy d)
    let opc := bits w 63 62
    let prio := bits w 42 40
    let len := bits w 39 0
    let p := s.part s.g.part
    let put (q : Part) (y : Word) : R State := (s.setPart s.g.part q).sput d y
    if bits w 61 43 ≠ 0 then s.trapR 0x01 w
    else if opc = 0 then
      if len = 0 ∨ len % 65536 ≠ 0 then s.trapR 0x01 w
      else if x.toNat % 65536 ≠ 0 then s.trapR 0x01 x
      else
        let clash := p.resid.any fun e => e.2.ctx == s.g.ctx && overlap x.toNat len e.2.base e.2.len
        match firstFree p.resid 0 512, clash with
        | some i, false =>
          let e : ResEntry := { ctx := s.g.ctx, base := x.toNat, len := len, prio := prio, order := s.nextOrder }
          ({ s with nextOrder := s.nextOrder + 1 }.setPart s.g.part { p with resid := tput p.resid i e }).sput d
            (BitVec.ofNat 64 i)
        | _, _ => put p State.allOnes
    else
      let i := bits x 8 0
      match p.resOf s.g.ctx i with
      | none => put p State.allOnes
      | some e =>
        if opc = 2 then put p (BitVec.ofNat 64 ((if e.moving then 2 else s.tierAt e.ctx e.base) + e.prio * 256))
        else
          -- the result of release and of set priority is not stated: a free value
          let f := s.free
          let q : Part := if opc = 1 then { p with resid := tdel p.resid i }
            else { p with resid := tput p.resid i { e with prio := prio } }
          (f.2.setPart s.g.part q).sput d f.1

/-! ## Moving tensors between tiers (R214, R215) -/

/-- DEMOTE (R155, R215, R379). (Log entry 45, DEDUCED.)  Without a ladle in the partition nothing moves and the flag clears.
(Log entry 66, DESIGN CHOICE.) -/
def execDemote (a b : Nat) (s : State) : Host.Outcome State Fault Refusal :=
  s.conclude do
    s.accept { m := false, z := false }
    let x ← s.sget a
    let t ← s.sget b
    s.flagRoom s.cl.setb
    if 511 < x.toNat then s.trapR 0x01 x
    else if 1 < t.toNat then s.trapR 0x01 t
    else
      s.handOff
      let p := s.part s.g.part
      match p.resOf s.g.ctx x.toNat with
      | none => pure s
      | some e =>
        let stays := e.moving || (s.outside e t.toNat).isEmpty || !s.hasLadle s.g.part ||
          (t.toNat == 1 && !(s.ctx s.g.ctx).featmask.getLsbD 5) || (s.tierPlan e t.toNat).isNone
        if stays then pure s
        else
          let s1 := s.setPart s.g.part { p with resid := tput p.resid x.toNat { e with moving := true } }
          pure (s1.issueOp (s1.newOp s1.cl.setb (.demote x.toNat t.toNat) []))

/-- DEMOTE_MOVE_END (R215): every page is moved and remapped, and the flag clears.  An index released since moves nothing; one
registered again moves its new tensor. (Log entry 66, DESIGN CHOICE.) -/
def execDemoteMoveEnd (op : Nat) (s : State) : Host.Outcome State Fault Refusal :=
  match s.op? op with
  | some o =>
    match o.kind with
    | .demote idx tier =>
      let tag := (s.ctx o.ctx).part
      match (s.part tag).resOf o.ctx idx with
      | none => .next (s.endOp o none)
      | some e =>
        if (s.tierPlan e tier).isNone then
          -- the tier has no room any more: the tensor stays
          let p := s.part tag
          .next ((s.setPart tag { p with resid := tput p.resid idx { e with moving := false } }).endOp o none)
        else match s.moveTensor tag idx tier with
          | some s1 => .next (s1.endOp o none)
          | none => .next s
    | _ => .next s
  | none => .next s

end Sys2Proof.Machine
end

