-- ==== Sys2Proof/Machine/Ladle.lean ====
section
/-! DEFINITION. Ladle jobs: acceptance (R156 to R158, R204 to R210), the end of a job (R208, R211, R394), the chain's
sequence number (R156), jobs from peers (R437) and inbound writes (R163, R436). -/

namespace Sys2Proof.Machine

/-! ## Accepting a card -/

/-- A little-endian field of a list of bytes. -/
def fieldAt (bs : List Byte) (off n : Nat) : Nat := wordOfBytes ((bs.drop off).take n)

/-- A shape record from its 64 bytes; none when it is invalid (R209, R211). -/
def shapeOf (bs : List Byte) : Option ShapeRec :=
  if fieldAt bs 0 2 = 1 ∧ fieldAt bs 2 1 ≤ 3 ∧ fieldAt bs 3 5 = 0 ∧ fieldAt bs 0x38 8 = 0 then
    some { esize := fieldAt bs 2 1
           strides := (List.range 5).map fun k => signedOf 32 (fieldAt bs (8 + 8 * k) 4)
           extents := (List.range 5).map fun k => fieldAt bs (12 + 8 * k) 4
           index := fieldAt bs 0x30 8 }
  else none

/-- The number of elements of a shape record. -/
def ShapeRec.count (r : ShapeRec) : Nat := r.extents.foldl (fun n e => n * e) 1

/-- The region fields of a card at an offset (R207). -/
def regionsAt (bs : List Byte) (off : Nat) : List Region :=
  (List.range 4).map fun k => { base := fieldAt bs (off + 12 * k) 8, len := fieldAt bs (off + 12 * k + 8) 4 }

/-- Region `k`. -/
def regionOf (l : List Region) (k : Nat) : Region := l.getD k { base := 0, len := 0 }

/-- The job kind acts on a peer (R208). -/
def peerKind (k : Nat) : Bool := k == 0x08 || k == 0x09 || k == 0x0A || k == 0x0B

/-- The element bytes of a combining job (R208): the width of the entry, as FATOM's. -/
def Job.elem (j : Job) : Nat := j.fmt.fmt.width / 8

/-- The entry can be combined in (R187, R208). -/
def FtEntry.combines (e : FtEntry) : Bool := e.usable && e.fmt.kind != 3 && [8, 16, 32, 64].contains e.fmt.width

/-- The region lengths, alignment and PARAM that the kind asks for (R208, R211). (Log entry 76, DESIGN CHOICE.) -/
def Job.lengthsOk (j : Job) : Bool :=
  let r := regionOf j.reads
  let w := regionOf j.writes
  let n := match j.shape with
    | some q => q.count * 2 ^ q.esize
    | none => 0
  let whole : Bool := (r 0).base % j.elem == 0 && (w 0).base % j.elem == 0 && (r 0).len % j.elem == 0
  match j.kind with
  | 0x01 | 0x08 | 0x0A => (r 0).len == (w 0).len
  | 0x02 => (w 0).len == n
  | 0x03 => (r 0).len == n
  | 0x04 | 0x09 => (r 0).len == (w 0).len && decide (j.op ≤ 2) && j.fmt.combines && whole
  | 0x0B =>
    (j.op == 0 || j.op == 7) && (r 1).len == 8 && (r 1).base % 8 == 0 && (w 0).len == 8 && (w 0).base % 8 == 0 &&
      (r 0).len == (if j.op = 7 then 16 else 8) && (r 0).base % 8 == 0
  | _ => false

/-- A job from its card's 128 bytes, its shape record not yet read (R207). (Log entry 43, DEDUCED.) -/
def jobOf (bs : List Byte) (j : Job) (entry : Nat → FtEntry) : Job :=
  let param := fieldAt bs 0x1C 4
  { j with kind := fieldAt bs 0x0A 1, peer := fieldAt bs 0x0C 4, op := param / 256 % 16, fmt := entry (param % 256),
           reads := regionsAt bs 0x20, writes := regionsAt bs 0x50 }

/-- VER, KIND, the reserved bits, PEER and SHREC's alignment are in order (R207, R211). (Log entry 43, DEDUCED.) -/
def cardOk (bs : List Byte) : Bool :=
  let peer := fieldAt bs 0x0C 4
  fieldAt bs 8 2 == 1 && fieldAt bs 0x0B 1 == 0 && [1, 2, 3, 4, 8, 9, 10, 11].contains (fieldAt bs 0x0A 1) &&
    (peer == 0xFFFFFFFF || decide (peer < 2 ^ 20)) && fieldAt bs 0x10 8 % 64 == 0 && decide (fieldAt bs 0x1C 4 < 2 ^ 12)

/-- The local regions that a job reads: not those of a peer (R207). -/
def Job.localReads (j : Job) : List Region :=
  (match j.kind with
    | 0x0A => j.reads.drop 1
    | 0x0B => [regionOf j.reads 0] ++ j.reads.drop 2
    | _ => j.reads).filter fun r => decide (0 < r.len)

/-- The local regions that a job writes. -/
def Job.localWrites (j : Job) : List Region :=
  (match j.kind with
    | 0x08 | 0x09 => j.writes.drop 1
    | _ => j.writes).filter fun r => decide (0 < r.len)

/-- Two lists of regions share a byte. -/
def regionsMeet (a b : List Region) : Bool := a.any fun x => b.any fun y => overlap x.base x.len y.base y.len

/-- An edge from an earlier-accepted job to a later one (R157). -/
def edge (a b : Job) : Bool :=
  a.ctx == b.ctx && (regionsMeet a.localWrites (b.localReads ++ b.localWrites) || regionsMeet a.localReads b.localWrites)

/-- Read and check a card and its shape record once (R206 to R211). -/
def State.readCard (s : State) (j : Job) : Mover × Job :=
  let r := ({ st := s } : Mover).read j.ctx j.level j.card 128
  match r.1.stop with
  | some (.fail c _) => ({ r.1 with stop := none }, { j with invalid := some c })
  | some .wait => (r.1, j)
  | none =>
    let c := r.1.st.ctx j.ctx
    let j1 := jobOf r.2 j c.entry
    if !cardOk r.2 then (r.1, { j1 with invalid := some 5 })
    else
      let a := fieldAt r.2 0x10 8
      let need : Bool := j1.kind == 2 || j1.kind == 3
      if a = 0 then
        (r.1, { j1 with invalid := if need then some 6 else if j1.lengthsOk then none else some 5 })
      else
        let q := r.1.read j.ctx j.level a 64
        match q.1.stop with
        | some (.fail c _) => ({ q.1 with stop := none }, { j1 with invalid := some c })
        | some .wait => (q.1, j1)
        | none =>
          match shapeOf q.2 with
          | none => (q.1, { j1 with invalid := some 6 })
          | some x =>
            let j2 : Job := { j1 with shape := some x }
            (q.1, { j2 with invalid := if j2.lengthsOk then none else some 5 })

/-- The translation of a chain's block: the device reaches it as a supervisor access. -/
def State.blockLook (s : State) (c : Chain) : Option (TlbEntry × State) :=
  match s.ladleLook c.ctx 1 c.addr .atomic with
  | .ok e => (s.ownNow c.ctx e c.addr).map fun t => (e, t)
  | .error _ => none





/-- A frame that a chain's block needs is not ready yet (R367). -/
def State.blockWaits (s : State) (c : Chain) : Bool :=
  match s.ladleLook c.ctx 1 c.addr .atomic with
  | .ok e => (s.ownNow c.ctx e c.addr).isNone
  | .error _ => false

/-- The card that a ladle takes next from a chain: that at HEAD, or the oldest waiting when the block is poisoned; 0 when there
is none (R206, R395). (Log entry 43, DEDUCED.) -/
def State.headCard (s : State) (c : Chain) : Nat :=
  if s.blockBad c then (c.cards.head?.map (·.card)).getD 0 else s.blockField c 0 8

/-- The ladle queue priority of a chain (R204), of a PRIO byte above 7 its low three bits (log entry 74, DESIGN CHOICE); a poisoned
block has the lowest. -/
def State.chainPrio (s : State) (c : Chain) : Nat := if s.blockBad c then 0 else s.blockField c 0x28 1 % 8

/-- A card's record on its chain; one that no CHAPP appended has no number and user level (R213). -/
def Chain.cardAt (c : Chain) (card : Nat) : Card := (c.cards.find? fun k => k.card == card).getD { card := card }

/-- No card that the same gang appended earlier still waits on another chain (R158). -/
def State.inTurn (s : State) (k : Card) : Bool :=
  !s.chains.any fun e => e.2.cards.any fun x => x.gang == k.gang && decide (x.op < k.op) && (s.reach e.2).contains x.card

/-- A partition's chain has a card that may be accepted. -/
def State.waitingCard (s : State) (tag : Nat) (c : Chain) : Bool :=
  (s.ctx c.ctx).part == tag && (s.blockLook c).isSome && s.headCard c != 0 && s.inTurn (c.cardAt (s.headCard c))

/-- A ladle of the partition may accept: assigned, and not fenced (R14, R397). -/
def State.ladleFree (s : State) (tag l : Nat) : Bool :=
  (s.part tag).ladles.contains l && !s.isFenced 2 l && !(s.part tag).stopped &&
    (match (s.part tag).reforge with
      | some r => r.fenceUnit != some (unitWord 2 l)
      | none => true)

/-- The failure of an ended job has not been cleared from its chain's ERRSEQ (R211, R212, R394). -/
def State.uncleared (s : State) (j : Job) : Bool :=
  j.status != some 0 && (match tget? s.chains j.chain with
    | some c => s.blockField c 0x20 8 != 0 && decide (s.blockField c 0x20 8 ≤ j.seq)
    | none => false)

/-- A job still gives edges to those accepted after it: it has not ended, its accesses are not past their completion times, or it
has failed and stands in the error record (R157, R394). (Log entry 43, DEDUCED.) -/
def State.givesEdges (s : State) (j : Job) : Bool := j.status.isNone || decide (s.ns < j.comp) || s.uncleared j

/-- Put a job in place of the one of its id. -/
def State.setJob (s : State) (j : Job) : State := { s with jobs := s.jobs.map fun x => if x.id = j.id then j else x }

/-- The jobs that no longer give edges, and that no job waits on, are forgotten. -/
def State.forgetJobs (s : State) : State :=
  { s with jobs := s.jobs.filter fun x => s.givesEdges x || s.jobs.any fun y => y.status.isNone && y.deps.contains x.id }

/-- The jobs of a list, and those that wait on one of them through edges. -/
def State.followers (s : State) : Nat → List Nat → List Nat
  | 0, l => l
  | n + 1, l => s.followers n ((s.jobs.filter fun x => l.contains x.id || x.deps.any l.contains).map (·.id))

/-- A job stands for a card: with its number, and the edges into it from the jobs accepted before (R157).  The job of a card that a
fenced ladle gave back keeps its edges and its place, and takes edges from what was accepted meanwhile only where that is not ordered
after it already (R397; log entry 43, DEDUCED). -/
def State.schedule (s : State) (j : Job) (k : Card) : State :=
  let twice := k.twice || s.jobs.any fun x => x.id != j.id && x.ctx == j.ctx && x.card == j.card && x.status.isNone
  let s1 := if twice then s.markTwice j.ctx j.card else s
  let old := ((s1.jobs.find? fun x => x.id == j.id).map (·.deps)).getD []
  let after := s1.followers s1.jobs.length [j.id]
  let deps := old ++ (s1.jobs.filter fun x => s1.givesEdges x && edge x j && !after.contains x.id && !old.contains x.id).map (·.id)
  let j1 : Job := { j with given := k, invalid := if twice then some 5 else j.invalid, deps := deps }
  let s2 := s1.forgetJobs
  { (if s2.jobs.any fun x => x.id == j.id then s2.setJob j1 else { s2 with jobs := s2.jobs ++ [j1] }) with nextKey := s1.nextKey + 1 }

/-- LADLE_ACCEPT (R156 to R158, R204 to R210, R395): a ladle takes the card at HEAD, of a chain that no other of its
partition exceeds in PRIO, and schedules the job.  A card that was appended again before this leaves HEAD and TAIL 0 when it stands
in both, and its second appearance is not reached (R206, R213; log entry 75, DESIGN CHOICE).  A NEXT that cannot be read counts as 0: the chain
ends there. (Log entry 80, DESIGN CHOICE.) -/
def execLadleAccept (chain ladle : Nat) (s : State) : Host.Outcome State Fault Refusal :=
  match tget? s.chains chain with
  | none => .next s
  | some c =>
    let tag := (s.ctx c.ctx).part
    let later := s.chains.any fun e => s.waitingCard tag e.2 && decide (s.chainPrio c < s.chainPrio e.2)
    match s.blockLook c with
    | none => .next s
    | some (e, s1) =>
      if !s.waitingCard tag c ∨ later = true ∨ !s.ladleFree tag ladle then .next s
      else
        let pb := e.phys c.addr
        let head := s.headCard c
        let bad := s.blockBad c
        let k := c.cardAt head
        let j : Job := { id := k.job.getD s1.nextKey, ctx := c.ctx, chain := chain, card := head, seq := k.seq,
                         ladle := ladle, level := k.level }
        let r := if bad then (({ st := s1 } : Mover), { j with invalid := some 1 }) else s1.readCard j
        if r.1.stop.isSome then .next s
        else
          let s2 := r.1.st
          let next := match (({ st := s2 } : Mover).read c.ctx k.level head 8) with
            | ({ stop := none, .. }, bs) => wordOfBytes bs
            | _ => 0
          let s3 := if bad then s2
            else if s2.mem.word pb == s2.mem.word (pb + 8) then (s2.storeAt c.ctx e c.addr (bytesOfNat 16 0)).1
            else (s2.storeAt c.ctx e c.addr (bytesOfNat 8 next)).1
          let s4 : State := { s3 with chains := tput s3.chains chain { c with cards := c.cards.erase k } }
          let s5 := s4.schedule r.2 k
          .next (match s5.op? k.op with
            | some o => (match o.kind with
              | .chapp .. => if o.gang = k.gang then s5.endOp o none else s5
              | _ => s5)
            | none => s5)

/-! ## What a job does (R208) -/

/-- A range lies inside one of the declared regions (R158). -/
def inside (l : List Region) (a n : Nat) : Bool := l.any fun r => decide (r.base ≤ a) && decide (a + n ≤ r.base + r.len)

/-- Read inside the declared read regions; else STATUS 4.  No byte is no access. -/
def Mover.readIn (m : Mover) (j : Job) (a n : Nat) : Mover × List Byte :=
  if m.stop.isSome || n == 0 then (m, [])
  else if inside j.localReads a n then m.read j.ctx j.level a n
  else ({ m with stop := some (.fail 4 a) }, [])

/-- Write inside the declared write regions; else STATUS 4.  No byte is no access. -/
def Mover.writeIn (m : Mover) (j : Job) (a : Nat) (bs : List Byte) : Mover :=
  if m.stop.isSome || bs.isEmpty then m
  else if inside j.localWrites a bs.length then m.write j.ctx j.level a bs
  else { m with stop := some (.fail 4 a) }

/-- Piece `i` of a copy: the `i`-th of the destination's aligned 8-byte words. -/
def Mover.copyPiece (m : Mover) (j : Job) (src dst n i : Nat) : Mover :=
  let lo := max dst ((dst / 8 + i) * 8)
  let r := m.readIn j (src + (lo - dst)) (min (dst + n) ((dst / 8 + i) * 8 + 8) - lo)
  if r.1.stop.isSome then r.1 else r.1.writeIn j lo r.2

/-- The offset of element `q` of a shape record, in bytes (R66, R209); with INDEX it is read from memory. -/
def Mover.offsetOf (m : Mover) (j : Job) (x : ShapeRec) (q : Nat) : Mover × Int :=
  if x.index = 0 then
    let r := (x.extents.zip x.strides).foldl (fun (acc : Nat × Int) p =>
      (if p.1 = 0 then acc.1 else acc.1 / p.1, acc.2 + (if p.1 = 0 then 0 else (acc.1 % p.1 : Nat)) * p.2)) (q, 0)
    (m, r.2)
  else
    let r := m.readIn j (x.index + 4 * q) 4
    (r.1, signedOf 32 (wordOfBytes r.2) * (2 ^ x.esize : Nat))

/-- An address moved by a signed offset, modulo 2^56. -/
def moveBy (a : Nat) (d : Int) : Nat := (((a : Int) + d) % (2 ^ 56 : Nat)).toNat

/-- Element `q` of GATHER and SCATTER (R208, R209). -/
def Mover.shapedPiece (m : Mover) (j : Job) (gather : Bool) (q : Nat) : Mover :=
  match j.shape with
  | none => m
  | some x =>
    let e := 2 ^ x.esize
    let rb := (regionOf j.reads 0).base
    let wb := (regionOf j.writes 0).base
    let o := m.offsetOf j x q
    if o.1.stop.isSome then o.1
    else
      let src := if gather then moveBy rb o.2 else rb + e * q
      let dst := if gather then wb + e * q else moveBy wb o.2
      let r := o.1.readIn j src e
      if r.1.stop.isSome then r.1 else r.1.writeIn j dst r.2

/-- The combining operation of a code (R208). -/
def combineOp : Nat → AtomOp
  | 1 => .fmin
  | 2 => .fmax
  | _ => .fadd

/-- One element combined: the old bytes and the operand's, under FATOM's arithmetic with RNE (R187, R208). -/
def combine (op : Nat) (f : FtEntry) (old x : List Byte) : List Byte :=
  bytesOfNat old.length ((combineOp op).applyFmt f.fmt (wordOfBytes old) (wordOfBytes x) .rne).1

/-- Element `q` of REDUCE (R208): read, combined and written at its bank at one moment. -/
def Mover.reducePiece (m : Mover) (j : Job) (q : Nat) : Mover :=
  let e := j.elem
  let x := m.readIn j ((regionOf j.reads 0).base + e * q) e
  if x.1.stop.isSome then x.1
  else
    let a := (regionOf j.writes 0).base + e * q
    let old := x.1.read j.ctx j.level a e
    if old.1.stop.isSome then old.1 else old.1.writeIn j a (combine j.op j.fmt old.2 x.2)

/-- A message to the peer that the job names (R208, R437): the job identifier of the issuing context, the kind, PARAM's operation
and its entry as it was accepted, the address, how many bytes are asked for, and the data. -/
def State.request (s : State) (j : Job) (addr want : Nat) (data : List Byte) : Out :=
  .peerRequest (if j.peer = 0xFFFFFFFF then s.dev.site.device else j.peer) ((s.ctx j.ctx).job.getD 0) j.kind j.op j.fmt addr want
    data

/-- The context may issue peer jobs, and a port reaches the network; else STATUS 8 or 7 (R397, R431). -/
def State.peerStatus (s : State) (ctx : Nat) : Nat :=
  let c := s.ctx ctx
  if c.job.isNone then 8
  else if (s.part c.part).slices.all fun i => s.isFenced 3 i then 7 else 0

/-- Send a peer job's request, and take the peer's answer (R437): `back` says what the answer's bytes are for. -/
def Mover.peer (m : Mover) (j : Job) (a : PeerReply) (addr : Nat) (data : List Byte) (want : Nat)
    (back : Mover → List Byte → Mover) : Mover :=
  if m.stop.isSome then m
  else match m.st.peerStatus j.ctx with
    | 0 =>
      let m1 : Mover := { m with st := m.st.send (m.st.request j addr want data) }
      if a.status ≠ 0 then { m1 with stop := some (.fail a.status addr) }
      else if a.data.length ≠ want then { m1 with stop := some (.fail 7 addr) }
      else back m1 a.data
    | n => { m with stop := some (.fail n addr) }

/-- The pieces that a job's accesses are made in (R208): words of a copy, elements of a shape or a combination; a peer job's are
made together. -/
def Job.total (j : Job) : Nat :=
  let r := regionOf j.reads 0
  let w := regionOf j.writes 0
  match j.kind with
  | 0x01 => if r.len = 0 then 0 else (w.base + r.len - 1) / 8 - w.base / 8 + 1
  | 0x02 | 0x03 => match j.shape with
    | some x => x.count
    | none => 0
  | 0x04 => r.len / j.elem
  | _ => 1

/-- The accesses of one piece of a job (R208). -/
def Mover.piece (m : Mover) (j : Job) (a : PeerReply) (i : Nat) : Mover :=
  let r := regionOf j.reads
  let w := regionOf j.writes
  match j.kind with
  | 0x01 => m.copyPiece j (r 0).base (w 0).base (r 0).len i
  | 0x02 => m.shapedPiece j true i
  | 0x03 => m.shapedPiece j false i
  | 0x04 => m.reducePiece j i
  | 0x08 | 0x09 =>
    let d := m.readIn j (r 0).base (r 0).len
    d.1.peer j a (w 0).base d.2 0 fun m1 _ => m1
  | 0x0A => m.peer j a (r 0).base [] (w 0).len fun m1 bs => m1.writeIn j (w 0).base bs
  | 0x0B =>
    let d := m.readIn j (r 0).base (r 0).len
    d.1.peer j a (r 1).base d.2 8 fun m1 bs => m1.writeIn j (w 0).base bs
  | _ => { m with stop := some (.fail 5 j.card) }

/-- Make up to `n` pieces of a job from piece `i` on, until one stops: the accesses made, and the pieces. -/
def Mover.act (j : Job) (a : PeerReply) : Nat → Nat → Mover → Mover × Nat
  | 0, i, m => (m, i)
  | n + 1, i, m =>
    let r := m.piece j a i
    if r.stop.isSome then (r, i) else Mover.act j a n (i + 1) r

/-! ## The end of a job -/

/-- The jobs on the edges into a job. -/
def State.depsOf (s : State) (j : Job) : List Job := s.jobs.filter fun x => j.deps.contains x.id

/-- Every job on an edge into this one has ended, its accesses past their completion times (R157). -/
def State.depsDone (s : State) (j : Job) : Bool := (s.depsOf j).all fun x => x.status.isSome && decide (x.comp ≤ s.ns)

/-- A job ends: STATUS goes to its card, a failure to ERRSEQ, and its sequence number waits for its completion time
(R156, R204, R211).  It does not end before the frames of its card and of its chain's block are ready (R367). -/
def State.endJob (s : State) (j : Job) (status comp : Nat) : State :=
  let m1 := ({ st := s } : Mover).write j.ctx j.level (j.card + 0x18) (bytesOfNat 4 status)
  if m1.stop = some .wait then s.setJob j
  else
    let comp1 := max comp m1.comp
    let j1 : Job := { j with status := some status, comp := comp1 }
    match tget? s.chains j.chain with
    | none => (m1.st.setJob j1).forgetJobs
    | some c =>
      if m1.st.blockWaits c then s.setJob j
      else
        let r : State × Nat := match m1.st.blockLook c with
          | some (e, t) =>
            let err := (t.mem.word (e.phys c.addr + 0x20)).toNat
            if status ≠ 0 ∧ j.seq ≠ 0 ∧ (err = 0 ∨ j.seq < err) then t.storeAt c.ctx e (c.addr + 0x20) (bytesOfNat 8 j.seq) else (t, 0)
          | none => (m1.st, 0)
        -- the number waits for every write that it tells of, that of ERRSEQ too
        let c1 : Chain := { c with ended := if j.seq = 0 then c.ended else c.ended ++ [(j.seq, max comp1 r.2)] }
        (({ r.1 with chains := tput r.1.chains j.chain c1 } : State).setJob j1).forgetJobs

/-- LADLE_JOB_END (R157, R208, R211, R394, R437): the job's accesses are made, in order, up to a count of its pieces, and with
the last it ends with its STATUS; the accesses before one that fails stand.  A job whose edges have not ended waits, and so does
an access whose frame is not ready; a card that a fenced ladle gave back has no job that runs, and a stopped partition's go no further
(R397). (Log entry 43, DEDUCED.) -/
def execLadleJobEnd (job : Nat) (turn : JobTurn) (s : State) : Host.Outcome State Fault Refusal :=
  match s.jobs.find? fun j => j.id == job && j.status.isNone && !j.back with
  | none => .next s
  | some j =>
    if !s.depsDone j || (s.part (s.ctx j.ctx).part).stopped then .next s
    else match (s.depsOf j).findSome? fun x => if x.status = some 0 then none else x.status with
      | some c => .next (s.endJob j c s.ns)
      | none =>
        match j.invalid with
        | some c => .next (s.endJob j c s.ns)
        | none =>
          let r := Mover.act j turn.peer (min turn.upto j.total - j.made) j.made { st := s, comp := j.comp }
          let j1 : Job := { j with made := r.2, started := true, comp := r.1.comp }
          match r.1.stop with
          | some (.fail c _) => .next (r.1.st.endJob j1 c r.1.comp)
          | _ => .next (if r.2 = j.total then r.1.st.endJob j1 0 r.1.comp else r.1.st.setJob j1)

/-- Take from a list of ended jobs those that continue a sequence and are past their completion times (R156). -/
def advance (now : Nat) : Nat → List (Nat × Nat) → Nat → Nat
  | 0, _, n => n
  | fuel + 1, l, n =>
    match l.find? fun e => e.1 == n + 1 && decide (e.2 ≤ now) with
    | some _ => advance now fuel l (n + 1)
    | none => n

/-- CHAIN_SEQUENCE_ADVANCE (R156): DONE becomes the highest number up to which every job has ended and completed. -/
def execChainSequenceAdvance (chain : Nat) (s : State) : Host.Outcome State Fault Refusal :=
  match tget? s.chains chain with
  | none => .next s
  | some c =>
    let n := advance s.ns c.ended.length c.ended c.done
    if n = c.done then .next s
    else
      let c1 : Chain := { c with done := n, ended := c.ended.filter fun e => decide (n < e.1) }
      -- DONE is written when the block's frame is ready (R367), and the number stands from then on
      match s.blockLook c with
      | some (e, t) => .next ({ t with chains := tput t.chains chain c1 }.storeAt c.ctx e (c.addr + 0x18) (bytesOfNat 8 n)).1
      | none => .next s

/-! ## Accesses from outside -/

/-- The accesses of a range for a context at supervisor level, each page checked: a STATUS of R211 when one fails (R434,
R437). -/
def State.outsideItems (s : State) (ctx level : Nat) (k : Access) (cut : List (Nat × Nat)) (data : Nat → List Byte) :
    Except Nat (List Item) :=
  cut.foldl (fun (acc : Except Nat (List Item)) p => match acc with
    | .error e => .error e
    | .ok l => match s.ladleLook ctx level p.1 k with
      | .error e => .error e
      | .ok e =>
        let i : Item := itemOf 0 p.1 p.2 e
        let j : Item := { i with pieces := piecesOfBytes (e.phys p.1) (data p.1),
                                 dirt := [{ e.dref p.1 with leaf1 := some e.leaf1, leaf2 := e.leaf2 }] }
        .ok (l ++ [j])) (.ok [])

/-- The tables that the walks of a refused access from outside must zero are zeroed where their frames are ready (R367). -/
def State.zeroWalks (s : State) (ctx : Nat) (cut : List (Nat × Nat)) : State :=
  cut.foldl (fun (st : State) p => (st.zeroWalk ctx p.1).getD st) s

/-- The elements of a range, cut at an element size. -/
def elems (a n e : Nat) : List (Nat × Nat) := (List.range (n / e)).map fun i => (a + e * i, e)

/-- A port on which the endpoint answers: the management port below stage 3, or while the device has no number; from stage 3
on those of partitions (R430 to R432). (Log entry 55, DEDUCED.) -/
def State.portAnswers (s : State) (port : Nat) : Bool :=
  if s.dev.stage < 3 ∨ s.dev.site.device = 0xFFFFF then port == s.dev.mgmt
  else decide (port < 12) && !s.isFenced 3 port && (s.partOf port).isSome

/-- A port opens new flows: it answers, and no reforge or fence under way takes it from its partition (R374). -/
def State.portOpens (s : State) (port : Nat) : Bool :=
  s.portAnswers port && (match s.partOf port with
    | none => true
    | some e => match e.2.reforge with
      | none => true
      | some r => decide (r.first ≤ port) && decide (port < r.first + r.size) && r.fenceUnit != some (unitWord 3 port))

/-- The context that a UET job identifier names (R431), in the partition of the port that it came on (R376, R430). -/
def State.boundCtx (s : State) (port job : Nat) : Option Nat :=
  (s.ctxs.find? fun e => e.2.job == some job && job != 0 && !e.2.stopped && s.partOf port == some (e.2.part, s.part e.2.part)).map
    (·.1)

/-- How a peer's job cuts its range, and the access it makes. (Log entry 44, DEDUCED.) -/
def peerCut (p : PeerJob) (f : FtEntry) : List (Nat × Nat) × Access :=
  match p.kind with
  | 0x08 => (words8 p.addr p.data.length, .write)
  | 0x09 => (elems p.addr p.data.length (f.fmt.width / 8), .atomic)
  | 0x0A => (words8 p.addr p.len, .read)
  | _ => ([(p.addr, 8)], .atomic)

/-- A peer's job is one this device carries out (R208). (Log entry 44, DEDUCED.) -/
def peerOk (p : PeerJob) (f : FtEntry) : Bool :=
  match p.kind with
  | 0x08 | 0x0A => true
  | 0x09 => f.combines && decide (p.op ≤ 2) && p.data.length % (f.fmt.width / 8) == 0 && p.addr % (f.fmt.width / 8) == 0
  | 0x0B => p.addr % 8 == 0 && ((p.op == 0 && p.data.length == 8) || (p.op == 7 && p.data.length == 16))
  | _ => false

/-- PEER_JOB_RECEIVE (R431, R437): a peer's job is delivered to the context bound to its identifier, or refused with
STATUS 8; its accesses are then performed as inbound ones.  Before the device has its number it takes no peer traffic, and a port of
no partition, a fenced one or one that departs answers nothing (R374, R430). -/
def execPeerJobReceive (p : PeerJob) (s : State) : Host.Outcome State Fault Refusal :=
  if s.dev.site.device = 0xFFFFF ∨ s.dev.stage < 4 ∨ !s.portOpens p.port then .next s
  else match s.boundCtx p.port p.job with
    | none => .next (s.send (.peerAnswer p.port 8 []))
    | some ck =>
      let c := s.ctx ck
      let f := p.fmt
      let cut := peerCut p f
      match peerOk p f, s.outsideItems ck 1 cut.2 cut.1 (fun a => (p.data.drop (a - p.addr)).take (if p.kind = 9 then f.fmt.width / 8 else 8 - a % 8)) with
      | true, .ok l =>
        let e : Inbound := { id := s.nextKey, ctx := ck, part := c.part, ordered := p.kind != 8 && p.kind != 9, flow := p.port,
                             peer := some p, items := l }
        .next { s with nextKey := s.nextKey + 1, inbound := s.inbound ++ [e] }
      | true, .error _ => .next ((s.zeroWalks ck cut.1).send (.peerAnswer p.port 8 []))
      | false, _ => .next (s.send (.peerAnswer p.port 8 []))

/-- Perform one access from outside at its bank: the state, the completion time, the bytes it returns, and whether it met
poison (R141, R163, R362, R367, R437). -/
def State.performOutside (s : State) (e : Inbound) (i : Item) : State × Nat × List Byte × Bool :=
  let c := s.ctx e.ctx
  let s1 := s.own c.num (i.pa / 65536) i.shared
  let old := s1.mem.bytes i.pa i.w
  let bad := s1.mem.poisoned i.pa i.w
  let put (bs : List Byte) : State × Nat :=
    let s2 := i.dirt.foldl (fun (st : State) d => st.markDirty e.ctx d) (s1.ownLeaves e.ctx i.dirt)
    ({ s2 with mem := s2.mem.write (piecesOfBytes i.pa bs) }, max (s2.lineExpiry c.part i.pa) s2.ns)
  match e.peer with
  | none => let r := put (i.pieces.map (·.byte)); (r.1, r.2, [], false)
  | some p =>
    match p.kind with
    | 0x08 => let r := put (i.pieces.map (·.byte)); (r.1, r.2, [], false)
    | 0x0A => (s1, s1.ns, old, bad)
    | 0x09 =>
      if bad then (s1, s1.ns, [], true)
      else let r := put (combine p.op p.fmt old (i.pieces.map (·.byte))); (r.1, r.2, [], false)
    | _ =>
      if bad then (s1, s1.ns, [], true)
      else
        let x := fieldAt p.data 0 8
        -- a compare that fails performs no write, as at a bank (R188, R362)
        if p.op = 7 ∧ wordOfBytes old ≠ fieldAt p.data 8 8 then (s1, max (s1.lineExpiry c.part i.pa) s1.ns, old, false)
        else
          let r := put (bytesOfNat 8 (if p.op = 7 then x else (wordOfBytes old + x) % 2 ^ 64))
          (r.1, r.2, old, false)

/-- An inbound access may be performed: no earlier one of its ordered flow stands before it, and its frames are ready
(R163, R367, R436). -/
def State.inboundReady (s : State) (e : Inbound) : Bool :=
  !(e.ordered && s.inbound.any fun x => decide (x.id < e.id) && !x.performed && x.ordered && x.sess == e.sess &&
      x.flow == e.flow) &&
    e.items.all fun i => s.ownReady (s.ctx e.ctx).part (s.ctx e.ctx).num (i.pa / 65536) i.shared && s.leavesReady e.ctx i.dirt

/-- The answer to an access from outside that has been performed and completed (R434, R436, R437). -/
def State.answerInbound (s : State) (e : Inbound) : State :=
  let s1 : State := { s with inbound := s.inbound.filter fun x => x.id != e.id }
  match e.sess, e.peer with
  | some n, _ => s1.send (.reply n 1 0x0020 e.seq 0 [])
  | none, some p => s1.send (.peerAnswer p.port e.status e.answer)
  | none, none => s1

/-- INBOUND_WRITE (R163, R436, R437): an access from outside is performed at its banks; once it is past its completion
time it is answered. -/
def execInboundWrite (id : Nat) (s : State) : Host.Outcome State Fault Refusal :=
  match s.inbound.find? fun e => e.id == id with
  | none => .next s
  | some e =>
    if e.performed then .next (if e.comp ≤ s.ns then s.answerInbound e else s)
    else if s.inboundReady e then
      let r := e.items.foldl (fun (acc : State × Nat × List Byte × Bool) i =>
        if acc.2.2.2 then acc
        else
          let x := acc.1.performOutside e i
          (x.1, max acc.2.1 x.2.1, acc.2.2.1 ++ x.2.2.1, x.2.2.2)) (s, s.ns, [], false)
      let e1 : Inbound := { e with performed := true, comp := r.2.1, status := if r.2.2.2 then 1 else 0,
                                   answer := if r.2.2.2 then [] else r.2.2.1 }
      .next { r.1 with inbound := r.1.inbound.map fun x => if x.id = id then e1 else x }
    else .next s

end Sys2Proof.Machine
end

