-- ==== Sys2Proof/Machine/Issue.lean ====
section
/-! DEFINITION. Fetching words (R81, R98, R401 to R403), groups and their checks (R79 to R86, R90 to R92), the prefix
word, CLAUSE_ISSUE (R29, R75 to R81, R331), the choice of the issuing gang (R327, R328), PFI (R109) and the fetch
unit's steps. -/

namespace Sys2Proof.Machine

/-! ## Instruction lines -/

/-- The line of an instruction cache that holds a physical address. -/
def findLine (l : List ILine) (pa : Nat) : Option ILine := l.find? fun x => x.line == pa / 64

/-- The translation of an instruction address from the TLBs alone (R403). -/
def State.fetchTlb (s : State) (core ctx va : Nat) : Option TlbEntry :=
  match (s.core core).tlb.find? fun e => e.covers ctx va with
  | some e => some e
  | none => (s.cluster (clusterOf core)).tlb.find? fun e => e.covers ctx va

/-- A request for a line is in flight (R402): for its virtual line, or, once that is translated, for its physical one. -/
def Core.requested (c : Core) (ctx va : Nat) (pa : Option Nat) : Bool :=
  c.freq.any fun r => (r.va == va / 64 && r.ctx == ctx) || (!r.walk && pa == some r.pa)

/-- What looking for an instruction word finds. -/
inductive Found where
  | word (w : Nat)
  | miss (s : State)
  | fail (f : XFail)

/-- A line of L0 that an access of a context may be served from: its frame belongs to the context already (R367, R401). -/
def State.inL0 (s : State) (core ctx : Nat) (e : TlbEntry) (va : Nat) : Option ILine :=
  let pa := e.phys va
  if (s.newOwner (s.ctx ctx).num (pa / 65536) e.shared).isNone then findLine (s.core core).l0 pa else none

/-- Request the line of an address for a gang: with its walk when no TLB holds its translation (R402, R403). -/
def State.askLine (s : State) (g : Gang) (demand : Option Nat) (va : Nat) (e : Option TlbEntry) : State :=
  let c := s.core g.core
  let pa := e.map fun x => x.phys va / 64
  if c.requested g.ctx va pa then s
  else s.setCore g.core { c with freq := c.freq ++
    [{ va := va / 64, ctx := g.ctx, level := g.level, demand := demand, walk := e.isNone, pa := pa.getD 0,
       shared := (e.map fun x => x.shared).getD true }] }

/-- Look for the word at an address for the current gang: in L0, else the line is requested (R401 to R403). -/
def State.findWord (s : State) (va : Nat) : Found :=
  let g := s.g
  match s.fetchTlb g.core g.ctx va with
  | none => .miss (s.askLine g (some s.cur) va none)
  | some e =>
    match e.permit .fetch g.level va with
    | some f => .fail f
    | none =>
      match s.inReach e va with
      | .error f => .fail f
      | .ok _ =>
        match s.inL0 g.core g.ctx e va with
        | some l => .word (wordOfBytes ((l.bytes.drop (e.phys va % 64)).take 4))
        | none => .miss (s.askLine g (some s.cur) va (some e))

/-- IFETCH at a word (R81, R98): its index, what NEXT holds, the clause and its active set. (Log entry 31, DEDUCED.) -/
def State.ifetch (clause index next va : Nat) (act : Lanes) (f : XFail) : Halt :=
  .trap { cause := 0x0A, addr := BitVec.ofNat 64 va, mask := act, clause := clause, index := index, next := next, act := act,
          stage2 := f.stage2, fetch := true, pzn := f.pzn } f.ia

/-- Fetch a word of the current clause's body for the group at its first position, unless it stands fetched (R81, R401).
(Log entry 31, DEDUCED.) -/
def State.bodyWord (s : State) (pos : Nat) : R Nat :=
  let c := s.cl
  let va := (c.addr + 8 + (if c.pfq then 4 else 0) + 4 * pos) % 2 ^ 56
  match (if c.first ≤ pos then c.words[pos - c.first]? else none) with
  | some w => .ok w
  | none => match s.findWord va with
    | .word w => .ok w
    | .miss t => .error (.hold t (.fetch va))
    | .fail f => .error (State.ifetch c.addr c.first c.first va c.active f)

/-- Fetch body words from a position, as many as a count and no further than LEN. -/
def State.bodyWords (s : State) : Nat → Nat → R (List Nat)
  | 0, _ => .ok []
  | n + 1, pos =>
    if s.cl.len < pos then .ok []
    else do
      let w ← s.bodyWord pos
      let r ← s.bodyWords n (pos + 1)
      pure (w :: r)

/-! ## Groups -/

/-- A word is the prefix word (R85). -/
def isPrefix (w : Nat) : Bool := fld w 31 31 == 0 && fld w 30 24 == 0x7F

/-- A word is a lane hint (R93). -/
def isLaneHint (w : Nat) : Bool := fld w 31 31 == 0 && decide (0x70 ≤ fld w 30 24) && decide (fld w 30 24 ≤ 0x77)

/-- The literal words that an operand code takes (R84). (Log entry 7, DEDUCED.) -/
def litCount (c : Nat) : Nat := if c = 114 then 1 else if c = 115 then 2 else 0

/-- The word has a fourth operand, so that a literal code in C takes words (R84, R86). (Log entry 7, DEDUCED.) -/
def takesC (w p : Nat) : Bool :=
  match fld w 30 24 with
  | 0x05 | 0x16 | 0x33 | 0x3B | 0x56 => true
  | 0x54 | 0x55 => fld p 16 16 == 1 && fld w 2 0 == 1
  | _ => false

/-- The literal words after a lane or uniform word whose prefix is `p` (0: none) (R84, R87). -/
def literals (w p : Nat) : Nat :=
  if fld w 31 31 = 1 then (if fld w 30 24 = 0x12 then 1 else if fld w 30 24 = 0x13 then 2 else 0)
  else if isPrefix w || isLaneHint w then 0
  else litCount (fld w 16 10) + litCount (fld w 9 3) + (if p ≠ 0 && takesC w p then litCount (fld p 15 9) else 0)

/-- The length in words of the group that starts with `w`, `w2` being the word after it: an optional prefix, a word
and its literals (R79, R85).  A prefix before another prefix, or at the end, is a group by itself. -/
def groupLen (w : Nat) (w2 : Option Nat) : Nat :=
  if isPrefix w then
    match w2 with
    | none => 1
    | some x => if isPrefix x then 1 else 2 + literals x w
  else 1 + literals w 0

/-- The words of the group at the clause's first position, as far as LEN, and its full length (R81). -/
def State.groupAt (s : State) (pos : Nat) : R (List Nat × Nat) := do
  let w ← s.bodyWord pos
  let w2 ← if isPrefix w && decide (pos < s.cl.len) then (do let x ← s.bodyWord (pos + 1); pure (some x)) else pure none
  let n := groupLen w w2
  let ws ← s.bodyWords n pos
  pure (ws, n)

/-- The positions from `pos` at which groups start, up to a position (R390). -/
def State.isGroupStart (s : State) : Nat → Nat → Nat → R Bool
  | 0, _, _ => .ok false
  | fuel + 1, pos, target =>
    if pos = target then .ok true
    else if target < pos then .ok false
    else do
      let g ← s.groupAt pos
      s.isGroupStart fuel (pos + g.2) target

/-- The stall code of a position (R79). -/
def Clause.stallAt (c : Clause) (i : Nat) : Nat := c.stall / 4 ^ i % 4

/-- The addresses of a clause's header words, and of its prefetch word when there is one (R74). -/
def Clause.headerVas (c : Clause) : List Nat := (if c.pfq then [0, 4, 8] else [0, 4]).map fun k => (c.addr + k) % 2 ^ 56

/-- The header words at the given addresses stand in L0 (R401); a fault there has index 31 (R81). (Log entry 31, DEDUCED.) -/
def State.headerHere (s : State) : List Nat → R Unit
  | [] => .ok ()
  | va :: r => match s.findWord va with
    | .word _ => s.headerHere r
    | .miss t => .error (.hold t (.fetch va))
    | .fail f => .error (State.ifetch s.cl.addr 31 31 va s.cl.active f)

/-- The report that a wait on the flags of a set raises: the first POISON on them, else the first ENGINE (R175, R201, R288,
R355). -/
def Gang.firstReport (g : Gang) (set : Nat) : Option (Nat × Report) :=
  let first (engine : Bool) : Option (Nat × Report) := (List.range 12).findSome? fun n =>
    if set.testBit n then ((g.flag n).reports.find? fun r => r.engine == engine).map fun r => (n, r) else none
  match first false with
  | some x => some x
  | none => first true

/-- The reports of the flags that the clause's WAIT names are raised at body position 0, before that position issues:
NEXT is the position after its first group, or 0 when that group cannot be fetched (R76, R386; log entry 30, DEDUCED). -/
def State.waitReport (s : State) (n : Nat) (r : Report) : R (State × List Nat) :=
  let g1 := (s.g.dropReport n r)
  let g2 : Gang := { g1 with cl := some { s.cl with pend := 0 } }
  let out (next : Nat) : R (State × List Nat) := .error (.report (s.setG g2) (s.g.trapAt r.cause r.addr none next))
  match s.groupAt s.cl.first with
  | .ok gr => out (min (s.cl.first + gr.2) (s.cl.len + 1))
  | .error (.hold t w) => .error (.hold t w)
  | .error _ => out s.cl.first

/-- Start the group at the clause's next position: a resumed clause's position is checked (R390), the group's words
are fetched, with the clause's header words when it stands at position 0 and has not issued (R401), and a nonzero stall code at its
later positions raises UNDEF at its first (R81). (Log entry 26, DEDUCED.) -/
def State.startGroup (s : State) : R (State × List Nat) := do
  let c := s.cl
  match s.g.firstReport c.pend with
  | some (n, r) => s.waitReport n r
  | none =>
  if c.len < c.first then s.trapR 0x01 0
  else
    let ok ← if c.check then s.isGroupStart 17 0 c.first else pure true
    if !ok then .error (.trap (s.g.trapAt 0x01 0 none c.first) 0)
    else
      if c.first = 0 ∧ c.words.isEmpty = true then s.headerHere c.headerVas
      let gr ← s.groupAt c.first
      if (List.range gr.2).any fun i => decide (0 < i) && decide (c.first + i ≤ c.len) && c.stallAt (c.first + i) != 0 then
        .error (.trap (s.g.trapAt 0x01 0 none c.first) 0)
      else pure (s.setG { s.g with cl := some { c with check := false, words := gr.1 } }, gr.1)

/-- Set the position of the next group or word. -/
def State.setNext (s : State) (n : Nat) : State := s.setG { s.g with cl := some { s.cl with next := min n (s.cl.len + 1) } }

/-- The clause-ending words (R90). -/
def endsClause : Instr → Bool
  | .bra _ | .brz .. | .brnz .. | .brm .. | .call .. | .calli .. | .ret _ | .jmpi _ | .rte => true
  | _ => false

/-- Read the instruction that the current gang issues next, leaving the clause's position after it (R81 to R92): a
prefix word by itself, else a lane or uniform word with its literals. (Log entry 6, DEDUCED.) -/
def State.decodeNext (s : State) : R (State × Instr) :=
  match s.g.latch with
  | none => do
    let r ← s.startGroup
    let st := r.1
    match decode r.2 with
    | .ok (i, n) =>
      let st1 := st.setNext (st.cl.first + n)
      if endsClause i ∧ st.cl.first ≠ st.cl.len then st1.undefWord else pure (st1, i)
    | .error _ => (st.setNext (st.cl.first + r.2.length)).undefWord
  | some p => do
    let gr ← s.groupAt s.cl.first
    let st := s.setNext (s.cl.first + gr.1.length)
    match decode (gr.1.drop 1) with
    | .ok (i, n) =>
      if (gr.1.headD 0 |> fun w => takesC (gr.1.getD 1 0) w) && decide (0 < litCount p.c) then
        match (gr.1.drop (1 + n)), litCount p.c with
        | [x], 1 => pure (st.setG { st.g with latch := some { p with lit := x } }, i)
        | [x, y], 2 => pure (st.setG { st.g with latch := some { p with lit := x + y * 2 ^ 32 } }, i)
        | _, _ => st.undefFirst
      else pure (st, i)
    | .error _ => st.undefWord

/-- PFX (R85, R86): the prefix waits for the lane word at the next position; before a uniform word, another prefix
or the clause's end it raises UNDEF; before a hint its fields have no effect. -/
def execPfx (m z rm nf sat c : Nat) (s : State) : Host.Outcome State Fault Refusal :=
  match s.g.cl with
  | none => .fault .noGang
  | some cl =>
    let bad (n : Nat) : R State := (s.setNext n).undefFirst
    let r : R State := do
      if cl.len ≤ cl.first then bad (cl.first + 1)
      else
        let w ← s.bodyWord (cl.first + 1)
        if fld w 31 31 = 1 then bad (cl.first + 2 + literals w 0)
        else if isPrefix w then bad (cl.first + 1)
        else pure (s.setG { s.g with latch := some (if isLaneHint w then {} else
          { m := m, z := z, rm := rm, nf := nf, sat := sat, c := c }) })
    match r with
    | .ok t => .next t
    | .error h => s.concludeKeep (.error h)

/-! ## CLAUSE_ISSUE -/

/-- The lanes held at a SYNCM (R331). -/
def Gang.syncHeld (g : Gang) : Lanes := g.groups.foldl (fun e q => e ||| q.arrived) 0

/-- A group of which a named lane that has not arrived is no longer live (R332, R351). -/
def Gang.brokenGroup (g : Gang) : Option SyncGroup := g.groups.find? fun q => q.mask &&& ~~~q.arrived &&& ~~~g.live != 0

/-- The lanes that take part in the choice of R29: live, not sync-held, and not yielding unless all are (R29, R331). -/
def Gang.choosers (g : Gang) : Lanes :=
  let free := g.live &&& ~~~g.syncHeld
  if free &&& ~~~g.yielding = 0 then free else free &&& ~~~g.yielding

/-- The issue address: the least PC of the lanes that take part (R29). -/
def Gang.issueAddr (g : Gang) : Nat :=
  (lanesOf g.choosers).foldl (fun m l => min m g.pcv[l].toNat) (2 ^ 64)

/-- The active set: the lanes, not sync-held, that stand at the issue address (R29). -/
def Gang.activeAt (g : Gang) (a : Nat) : Lanes :=
  setOf fun l => inSet (g.live &&& ~~~g.syncHeld) l && decide (g.pcv[l].toNat = a)

/-- The slots of a prefetch word: set ones name v0 to v95, clear ones hold zero (R80). -/
def prefetchOk (w : Nat) : Bool :=
  (List.range 4).all fun k =>
    let c := fld w (7 * k + 6) (7 * k)
    if w.testBit (28 + k) then decide (c < 96) else c == 0

/-- The registers a prefetch word names (R70). -/
def prefetchRegs (w : Nat) : List Nat :=
  (List.range 4).filterMap fun k => if w.testBit (28 + k) then some (fld w (7 * k + 6) (7 * k)) else none

/-- Header word 0 and the stall word obey R75 and R79. -/
def headerOk (h0 h1 : Nat) : Bool :=
  let flag (x : Nat) : Bool := decide (x < 12) || x == 15
  fld h0 4 0 == 0 && flag (fld h0 19 16) && flag (fld h0 15 12) && h1 / 4 ^ (fld h0 11 8 + 1) == 0

/-- Fetch the header words of a clause, and the prefetch word when there is one; a fault there has index 31 (R74, R81).
(Log entry 26, DEDUCED.) -/
def State.fetchHeader (s : State) (a : Nat) (act : Lanes) : R (Nat × Nat × Option Nat) :=
  let get (va : Nat) : R Nat := match s.findWord (va % 2 ^ 56) with
    | .word w => .ok w
    | .miss t => .error (.hold t (.fetch (va % 2 ^ 56)))
    | .fail f => .error (State.ifetch a 31 31 (va % 2 ^ 56) act f)
  do
    let h0 ← get a
    let h1 ← get (a + 4)
    if fld h0 5 5 = 1 then
      let p ← get (a + 8)
      pure (h0, h1, some p)
    else pure (h0, h1, none)

/-- The clause that a header describes. -/
def clauseOf (a h0 h1 : Nat) (pf : Option Nat) (e : Lanes) : Clause :=
  { addr := a, seta := fld h0 19 16, setb := fld h0 15 12, len := fld h0 11 8, draw := fld h0 7 6, pfq := pf.isSome,
    stall := h1, staging := prefetchRegs (pf.getD 0), active := e }

/-- The effective draw class of a clause (R78). -/
def Gang.effDraw (g : Gang) (draw : Nat) : Nat := min (max draw g.drawDefault) g.drawMax

/-- Some flag of a set is busy. -/
def Gang.anyBusy (g : Gang) (set : Nat) : Bool := (List.range 12).any fun n => set.testBit n && decide (0 < (g.flag n).count)

/-- End a clause issue early: the gang stands in no clause. -/
def State.endIssue (s : State) (h : Halt) : State :=
  match h with
  | .trap t ia => (s.raiseTrap s.cur t ia).issued
  | .walk fs t ia => ((s.ownTables s.g.ctx fs).raiseTrap s.cur t ia).issued
  | .report u t ia => (u.raiseTrap u.cur t ia).issued
  | .hold t w => { t.hold t.cur w with phase := .select }

/-- UNDEF in a clause's header, stall word or prefetch word (R81). -/
def headerUndef (a : Nat) (e : Lanes) : TrapInfo :=
  { cause := 0x01, mask := e, clause := a, index := 31, next := 31, act := e }

/-- A clause that RTE resumes: its header is fetched again, and it goes on at its position, without its WAIT (R390). -/
def State.resumeClause (s : State) (c : Clause) : State :=
  match s.fetchHeader c.addr c.active with
  | .error h => s.endIssue h
  | .ok (h0, h1, pf) =>
    if !headerOk h0 h1 || !(pf.all prefetchOk) then s.endIssue (.trap (headerUndef c.addr c.active) 0)
    else
      let g := s.g
      let c1 : Clause := { clauseOf c.addr h0 h1 pf c.active with first := c.first, next := c.first, check := true }
      let eff := g.effDraw c1.draw
      let g1 : Gang := { g with cl := some c1, wait := .none, drawNow := eff, chargedAt := none }
      -- at LEN + 1 no word of it issues any more: it ends at once, and stages nothing (R70, R71)
      if c.first = c1.len + 1 then
        s.setG { g1.endClause (fun _ => BitVec.ofNat 64 c1.after) with bp := [], pushes := 0, staged := [] }
      else (s.setG g1).takeToken g.team eff

/-- The flags that the WAIT of the clause at an address names, when its header has been fetched and the gang waits on them: no line is
demanded while they are busy, for the gang is not ready (R38, R401). -/
def Gang.waitsOn (g : Gang) (a : Nat) : Option Nat :=
  match g.header with
  | some h => if h.addr = a ∧ g.anyBusy h.flags = true then some h.flags else none
  | none => none

/-- A new clause: the issue address and the active set are chosen, and the marks of its lanes clear (R29); then the header
is fetched and checked, and its WAIT evaluated once (R81). -/
def State.newClause (s : State) : State :=
  let a := s.g.issueAddr
  let e := s.g.activeAt a
  let g : Gang := { s.g with yielding := s.g.yielding &&& ~~~e }
  let s1 := s.setG g
  match g.waitsOn a with
  | some set => { s1.hold s.cur (.clause set) with phase := .select }
  | none =>
  match s1.fetchHeader a e with
  | .error h => s1.endIssue h
  | .ok (h0, h1, pf) =>
    let set := fld h0 31 20
    if !headerOk h0 h1 || !(pf.all prefetchOk) then s1.endIssue (.trap (headerUndef a e) 0)
    else if g.anyBusy set then
      let held : Gang := { g with header := some { addr := a, flags := set } }
      { (s1.setG held).hold s.cur (.clause set) with phase := .select }
    else
      let c := clauseOf a h0 h1 pf e
      let eff := g.effDraw c.draw
      let pend := if (g.firstReport set).isSome then set else 0
      let g1 : Gang := { g with cl := some { c with pend := pend }, bp := [], pushes := 0, wait := .none, drawNow := eff, chargedAt := none, header := none }
      (s1.setG g1).takeToken g.team eff

/-- CLAUSE_ISSUE (R29, R81, R331, R390): the gang's next clause, or the one that RTE resumes. -/
def execClauseIssue (s : State) : Host.Outcome State Fault Refusal :=
  let g := s.g
  match g.cl with
  | some c => .next (if c.refetch then s.resumeClause c else s)
  | none =>
    if g.live = 0 ∨ g.life ≠ .resident then .fault .noGang
    else
      match g.brokenGroup with
      | some q =>
        let t : TrapInfo :=
          { cause := 0x0C, addr := BitVec.zeroExtend 64 q.mask, mask := q.arrived, clause := q.clause, index := 31, next := 31,
            act := q.arrived, sword := q.pos }
        .next (s.raiseTrap s.cur t 0).issued
      | none => .next (if g.choosers = 0 then { s.hold s.cur .syncm with phase := .select } else s.newClause)

/-! ## GANG_ISSUE_SELECT -/

/-- The gangs of a core that are ready for a slot in this cycle, when it is still free (R328). (Log entry 9, DEDUCED.) -/
def State.readyFor (s : State) (core : Nat) (turn : Turn) : List (Nat × Gang) :=
  let c := s.core core
  if (if turn == .lane then c.laneWon else c.uniWon).isSome then []
  else (s.residents core).filter fun e => s.runnable e.2 && e.2.turn == turn

/-- Gang `a` is chosen before gang `b` for a slot that `last` won last (R328): overdue gangs by age, then by slot;
then the team admitted first; then the rotation within a team. -/
def State.before (s : State) (cap : Nat) (last : Option Nat) (a b : Gang) : Bool :=
  let oa := decide (cap ≤ a.age)
  let ob := decide (cap ≤ b.age)
  let turn (g : Gang) : Nat := match last with
    | some n => if n < g.gindex then g.gindex else g.gindex + 64
    | none => g.gindex
  if oa && ob then decide (b.age < a.age) || (a.age == b.age && decide (a.slot < b.slot))
  else if oa != ob then oa
  else
    let x := (s.team a.team).admitted
    let y := (s.team b.team).admitted
    if x = y then decide (turn a < turn b) else decide (x < y)

/-- The best of a list of gangs for a slot (R328). (Log entry 9, DEDUCED.) -/
def State.choose (s : State) (cap : Nat) (last : Option Nat) (l : List (Nat × Gang)) : Option (Nat × Gang) :=
  l.foldl (fun best e => match best with
    | none => some e
    | some b => if s.before cap last e.2 b.2 then some e else some b) none

/-- The age cap that holds on a core (R327). -/
def State.capOf (s : State) (l : List (Nat × Gang)) : Nat :=
  match l with
  | e :: _ => (s.part e.2.part).ageCap
  | [] => 256

/-- GANG_ISSUE_SELECT (R327, R328): the core's lane slot goes to a gang ready with a lane group; then its uniform slot to one
ready with a uniform group. -/
def execGangIssueSelect (core : Nat) (s : State) : Host.Outcome State Fault Refusal :=
  let c := s.core core
  let lanes := s.readyFor core .lane
  let unis := s.readyFor core .uniform
  let best := match s.choose (s.capOf lanes) c.lastLane lanes with
    | some e => some e
    | none => s.choose (s.capOf unis) c.lastUniform unis
  .next (match best with
    | some e => { s with cur := e.1, phase := .issue }
    | none => s)

/-- A core with a slot that some gang is ready for. -/
def State.nextSelect (s : State) : Option Nat :=
  (s.gangs.find? fun e => !(s.readyFor e.2.core .lane).isEmpty || !(s.readyFor e.2.core .uniform).isEmpty).map fun e => e.2.core

/-! ## PFI and the fetch unit (R109, R401 to R403) -/

/-- PFI (R109): lines not present and not in flight are requested, each on its own; line addresses wrap at 2^56.
(Log entry 63, DESIGN CHOICE.) -/
def execPfi (n off : Nat) (s : State) : Host.Outcome State Fault Refusal :=
  s.conclude do
    s.accept { m := false, z := false }
    let g := s.g
    let a := (((s.cl.addr : Int) + signedOf 20 off * 8) % (2 ^ 56 : Nat)).toNat / 64 * 64
    pure ((List.range (n + 1)).foldl (fun (st : State) i =>
      let va := (a + 64 * i) % 2 ^ 56
      match st.fetchTlb g.core g.ctx va with
      | none => st.askLine g none va none
      | some e =>
        if (e.permit .fetch g.level va).isSome || !st.physOk (st.ctx g.ctx).part (e.phys va) ||
            (st.inL0 g.core g.ctx e va).isSome then st
        else st.askLine g none va (some e)) s)

/-- The first request for a line. -/
def Core.request (c : Core) (va : Nat) (p : FetchReq → Bool) : Option FetchReq := c.freq.find? fun r => r.va == va / 64 && p r

/-- Remove a request. -/
def Core.dropReq (c : Core) (r : FetchReq) : Core := { c with freq := c.freq.filter fun x => x != r }

/-- A demand request fails: its gang raises IFETCH at the word it waits for (R98, R402). -/
def State.failFetch (s : State) (r : FetchReq) (f : XFail) : State :=
  match r.demand with
  | none => s
  | some gk =>
    let g := s.gang gk
    match g.wait with
    | .fetch va =>
      if va / 64 = r.va ∧ s.runnable g then
        let c := match g.cl with
          | some c => if c.refetch || (c.first == 0 && c.headerVas.contains va) then { c with first := 31 } else c
          | none => { addr := g.issueAddr, active := g.activeAt g.issueAddr, first := 31 }
        match State.ifetch c.addr c.first c.first va c.active f with
        | .trap t ia => s.raiseTrap gk t ia
        | _ => s
      else s
    | _ => s

/-- FETCH_WALK_RESULT (R165, R402, R403): a walk that succeeds installs its translation, and the line is then awaited,
unless it is present or on its way; one that fails installs nothing, drops a PFI's request and fails a demand, once a table that it
must zero is ready (R367). -/
def execFetchWalkResult (core va : Nat) (s : State) : Host.Outcome State Fault Refusal :=
  let c := s.core core
  match c.request va fun r => r.walk with
  | none => .next s
  | some r =>
    match s.walkFor core r.ctx va with
    | .error f => match s.ownTable r.ctx f with
      | some t => .next ((t.setCore core ((t.core core).dropReq r)).failFetch r f)
      | none => .next s
    | .ok e =>
      let s1 := s.installTlb core e
      let c1 := s1.core core
      match e.permit .fetch r.level va with
      | some f => .next ((s1.setCore core (c1.dropReq r)).failFetch r f)
      | none =>
        let line := e.phys va / 64
        if (s1.inL0 core r.ctx e va).isSome ∨ (c1.freq.any fun x => !x.walk && x.pa == line) then
          .next (s1.setCore core (c1.dropReq r))
        else
          let up (x : FetchReq) : FetchReq := if x = r then { x with walk := false, pa := line, shared := e.shared } else x
          .next (s1.setCore core { c1 with freq := c1.freq.map up })

/-- The walk of a fetch can end: a table that it must zero is ready (R367). -/
def State.walkReady (s : State) (core : Nat) (r : FetchReq) : Bool :=
  match s.walkFor core r.ctx (r.va * 64) with
  | .error f => (s.ownTable r.ctx f).isSome
  | .ok _ => true

/-- The frame of a fetch that has been translated is ready to be read by its context (R367). -/
def State.lineReady (s : State) (r : FetchReq) : Bool :=
  s.ownReady (s.ctx r.ctx).part (s.ctx r.ctx).num (r.pa / 1024) r.shared

/-- An instruction cache of `cap` lines takes a new one: the line that came first leaves a full one (R13, R15).
(Log entry 62, DESIGN CHOICE.) -/
def keepLines (cap : Nat) (l : ILine) (ls : List ILine) : List ILine := (l :: ls.filter fun x => x.line != l.line).take cap

/-- Install an instruction line in a core's L0 and in its cluster's cache (R401). -/
def State.putLine (s : State) (core : Nat) (l : ILine) : State :=
  let c := s.core core
  let s1 := s.setCore core { c with l0 := keepLines Config.l0Lines l c.l0 }
  let k := s1.cluster (clusterOf core)
  s1.setCluster (clusterOf core) { k with ic := keepLines Config.icLines l k.ic }

/-- INSTRUCTION_LINE_ARRIVE (R367, R401): when its frame is ready, and zeroed if it must be, the line comes from the
cluster's cache or its home bank, and is installed in both caches; poisoned bytes fail the fetch with PZN (R386, R395). -/
def execInstructionLineArrive (core va : Nat) (s : State) : Host.Outcome State Fault Refusal :=
  match (s.core core).request va fun r => !r.walk && s.lineReady r with
  | none => .next s
  | some r =>
    let s1 := s.own (s.ctx r.ctx).num (r.pa / 1024) r.shared
    let s2 := s1.setCore core ((s1.core core).dropReq r)
    .next (match (s2.cluster (clusterOf core)).ic.find? fun l => l.line == r.pa with
      | some l => s2.putLine core l
      | none =>
        if s2.mem.poisoned (r.pa * 64) 64 then s2.failFetch r { xlate := false, stage2 := false, pzn := true }
        else s2.putLine core { line := r.pa, bytes := s2.mem.bytes (r.pa * 64) 64 })

/-- PFI_LINE_DROP (R109, R402, R403): a PFI request whose line fails translation or permission, or holds poison, is
dropped; a walk that succeeded has installed its translation all the same. -/
def execPfiLineDrop (core va : Nat) (s : State) : Host.Outcome State Fault Refusal :=
  let c := s.core core
  match c.request va fun r => r.demand.isNone with
  | none => .next s
  | some r =>
    .next (if r.walk then
        match s.walkFor core r.ctx va with
        | .error f => match s.ownTable r.ctx f with
          | some t => t.setCore core ((t.core core).dropReq r)
          | none => s
        | .ok e =>
          if (e.permit .fetch r.level va).isSome || s.mem.poisoned (e.phys va / 64 * 64) 64 then
            let s1 := s.installTlb core e
            s1.setCore core ((s1.core core).dropReq r)
          else s
      else if s.mem.poisoned (r.pa * 64) 64 then s.setCore core (c.dropReq r)
      else s)

end Sys2Proof.Machine
end

