-- ==== Sys2Proof/Machine/Sched.lean ====
section
/-! DEFINITION. The dispatcher's and scheduler's steps: GANG_RETIRE (R42, R43), TEAM_PLACE (R323), GRID_AGING (R322),
CORE_RESERVATION (R324), PREEMPT_REQUEST (R338 to R340), DRAIN_DEADLINE (R340), SWAP_OUT (R336), TIME_SLICE_EXPIRY (R370) and
SLAB_DEADLOCK (R63).  A step whose condition does not hold leaves the state as it is (log entry 10, DESIGN CHOICE). -/

namespace Sys2Proof.Machine

/-! ## Retirement and placement -/

/-- GANG_RETIRE (R42, R43). -/
def execGangRetire (gang : Nat) (s : State) : Host.Outcome State Fault Refusal :=
  .next (if (tget? s.gangs gang).isSome && s.mayRetire gang then s.retireGang gang else s)

/-- Set or clear how long a waiting team has stood at the head. -/
def State.setHead (s : State) (w : Waiting) (x : Option Nat) : State :=
  match w with
  | .team tk => s.setTeam tk { s.team tk with headSince := x }
  | .grid grk => s.setGrid grk { s.grid grk with headSince := x }

/-- How long a waiting team has stood at the head without fitting. -/
def State.headTime (s : State) : Waiting → Option Nat
  | .team tk => (s.team tk).headSince
  | .grid grk => (s.grid grk).headSince

/-- Note the head of the dispatcher's order while it fits no core; no other waiting team stands there (R324, R338). -/
def State.noteHead (s : State) (tag : Nat) : State :=
  match s.dispatchOrder tag with
  | [] => s
  | w :: r =>
    let s1 := r.foldl (fun (st : State) x => if (st.headTime x).isSome then st.setHead x none else st) s
    if (s.fitting tag w).isEmpty then (if (s.headTime w).isSome then s1 else s1.setHead w (some s.ns))
    else if (s.headTime w).isSome then s1.setHead w none else s1

/-- TEAM_PLACE (R323): the first waiting team that fits a core is placed there. -/
def execTeamPlace (tag : Nat) (s : State) : Host.Outcome State Fault Refusal :=
  .next (match s.placeable tag with
    | some (w, core) => (s.placeOn tag w core).noteHead tag
    | none => s.noteHead tag)

/-- GRID_AGING (R322): a full millisecond of waiting raises a grid's age by one, so that its priority rises up to 7.
(Log entry 46, DEDUCED.) -/
def execGridAging (tag : Nat) (s : State) : Host.Outcome State Fault Refusal :=
  let one (g : Grid) : Grid :=
    if g.part = tag ∧ g.nextTeam < g.record.teams ∧ g.ageMark + 1000000 ≤ s.ns then
      { g with age := min 7 (g.age + 1), ageMark := g.ageMark + 1000000 }
    else g
  .next { s with grids := s.grids.map fun e => (e.1, one e.2) }

/-- The head of the dispatcher's order, when it has stood there for a time without fitting. -/
def State.headStuck (s : State) (tag t : Nat) : Option Waiting :=
  match s.dispatchOrder tag with
  | [] => none
  | w :: _ => match s.headTime w with
    | some t0 => if t0 + t ≤ s.ns ∧ (s.fitting tag w).isEmpty = true then some w else none
    | none => none

/-- CORE_RESERVATION (R324): the core with the most free gang slots is reserved for a head that has waited 100 µs. -/
def execCoreReservation (tag : Nat) (s : State) : Host.Outcome State Fault Refusal :=
  let p := s.part tag
  match s.headStuck tag 100000, p.reservation with
  | some w, none =>
    let best := (s.openCores tag).foldl (fun (b : Option Nat) c => match b with
      | none => some c
      | some x => if (s.freeSlots x).length < (s.freeSlots c).length then some c else some x) none
    .next (match best with
      | some c => s.setPart tag { p with reservation := some (w.ident, c) }
      | none => s)
  | _, _ => .next s

/-! ## Pre-emption within a context -/

/-- The sublists of a list with `n` elements, in order. -/
def sublistsOf {α : Type} : Nat → List α → List (List α)
  | 0, _ => [[]]
  | _ + 1, [] => []
  | n + 1, x :: r => ((sublistsOf n r).map fun l => x :: l) ++ sublistsOf (n + 1) r

/-- The state as it would be were some teams saved. -/
def State.asIfSaved (s : State) (ts : List Nat) : State :=
  { s with
    teams := s.teams.map fun e => if ts.contains e.1 then (e.1, { e.2 with life := .saved }) else e
    gangs := s.gangs.map fun e => if ts.contains e.2.team && e.2.life == .resident then (e.1, { e.2 with life := .saved }) else e }

/-- The declared priority of a team. -/
def State.declared (s : State) (tk : Nat) : Nat := (s.grid (s.team tk).grid).record.queue

/-- Insert a team before those of higher declared priority, and before older ones of its own. -/
def State.insertVictim (s : State) (tk : Nat) : List Nat → List Nat
  | [] => [tk]
  | x :: r =>
    if s.declared tk < s.declared x ∨ (s.declared tk = s.declared x ∧ (s.team x).admitted < (s.team tk).admitted) then
      tk :: x :: r
    else x :: s.insertVictim tk r

/-- The teams on a core that a requester may pre-empt: of its context, of lower declared priority (R338).
(Log entry 46, DEDUCED.) -/
def State.victims (s : State) (w : Waiting) (core : Nat) : List Nat :=
  ((s.teams.filter fun e => e.2.life == .resident && e.2.core == core && e.2.stopping.isNone && e.2.drainBy.isNone &&
    e.2.ctx == s.waitingCtx w && decide (s.declared e.1 < (s.waitingRec w).queue)).map (·.1)).foldl
      (fun l t => s.insertVictim t l) []

/-- The teams of a core that are leaving it already: those being stopped, and those being drained. -/
def State.leaving (s : State) (core : Nat) : List Nat :=
  (s.teams.filter fun e => e.2.life == .resident && e.2.core == core && (e.2.stopping.isSome || e.2.drainBy.isSome)).map (·.1)

/-- The fewest victims on a core that, with the teams already leaving it, let the requester fit (R338). -/
def State.fewest (s : State) (w : Waiting) (core : Nat) : Option (List Nat) :=
  let l := s.victims w core
  let gone := s.leaving core
  (List.range (l.length + 1)).findSome? fun n =>
    (sublistsOf n l).find? fun ts => (s.asIfSaved (gone ++ ts)).fits core w.key? (s.waitingRec w)

/-- A choice of victims is better than another: fewer, then of lower declared priority, then younger (R338). -/
def State.betterVictims (s : State) (a b : List Nat) : Bool :=
  let prio (l : List Nat) : Nat := l.foldl (fun n t => max n (s.declared t)) 0
  let youth (l : List Nat) : Nat := l.foldl (fun n t => min n (s.team t).admitted) (2 ^ 64)
  if a.length ≠ b.length then decide (a.length < b.length)
  else if prio a ≠ prio b then decide (prio a < prio b)
  else decide (youth b < youth a)

/-- The save estimate σ of a team, in ns (R339). -/
def State.saveEstimate (s : State) (tk : Nat) : Nat :=
  let t := s.team tk
  let r := (s.grid t.grid).record
  let slabs := ((s.teamGangs tk).map fun e => e.2.slabs).sum
  1500 + (r.spad + 256 * slabs + 16384 * r.accs + 4096 * r.gangs) / 128

/-- The drain estimate of a team: to its next barrier, or to its exit; none when no end is predicted (R339). -/
def State.drainEstimate (s : State) (tk : Nat) : Option Nat :=
  let t := s.team tk
  let gr := s.grid t.grid
  if 0 < t.barDone then some ((t.barLast - t.barFirst) / t.barDone - (s.ns - t.barLast) + s.saveEstimate tk)
  else if 0 < gr.lives then some (gr.lifeSum / gr.lives - (s.ns - t.placedNs))
  else none

/-- Free a victim's resources in the eligible way of least latency within the bound (R340). -/
def State.preempt (s : State) (bound tk : Nat) : State :=
  let t := s.team tk
  let save := s.saveEstimate tk
  let drain := match s.drainEstimate tk with
    | some d => if d ≤ bound then some d else none
    | none => none
  let flush := if (s.grid t.grid).record.restart && t.openChildren == 0 && decide (500 ≤ bound)
    then some 500 else none
  let least (x : Nat) : Bool := (drain.all fun d => decide (x ≤ d)) && (flush.all fun f => decide (x ≤ f)) &&
    (decide (bound < save) || decide (x ≤ save))
  match drain, flush with
  | some d, _ =>
    if least d then s.setTeam tk { t with drainBy := some (s.ns + bound) }
    else if flush.any least then s.stopTeam tk .flush else s.stopTeam tk (.save .ready)
  | none, some f => if least f then s.stopTeam tk .flush else s.stopTeam tk (.save .ready)
  | none, none => s.stopTeam tk (.save .ready)

/-- Whom a head with a latency bound that has waited 1 µs pre-empts: the head, the core and the teams (R338). -/
def State.preemptPlan (s : State) (tag : Nat) : Option (Waiting × Nat × List Nat) :=
  let p := s.part tag
  match s.headStuck tag 1000 with
  | none => none
  | some w =>
    let free := match p.reservation with
      | none => true
      | some (r, _) => r == w.ident
    let cores := match p.reservation with
      | some (_, c) => [c]
      | none => s.openCores tag
    if (s.waitingRec w).lambda = 0 ∨ !free ∨ !s.mayReserve w then none
    else
      let best := cores.foldl (fun (b : Option (Nat × List Nat)) c => match s.fewest w c, b with
        | none, x => x
        | some ts, none => some (c, ts)
        | some ts, some (c0, ts0) => if s.betterVictims ts ts0 then some (c, ts) else some (c0, ts0)) none
      match best with
      | some (c, t :: ts) => some (w, c, t :: ts)
      | _ => none

/-- PREEMPT_REQUEST (R338 to R340): the head pre-empts teams of its context on one core, which is reserved for it. -/
def execPreemptRequest (tag : Nat) (s : State) : Host.Outcome State Fault Refusal :=
  .next (match s.preemptPlan tag with
    | none => s
    | some (w, c, ts) =>
      ts.foldl (fun (st : State) t => st.preempt (s.waitingRec w).lambda t)
        (s.setPart tag { s.part tag with reservation := some (w.ident, c) }))

/-! ## Moving waiting teams aside -/

/-- The wait is at a team or grid barrier (R336). -/
def Wait.atBarrier : Wait → Bool
  | .bar .. | .barw .. | .gbar _ => true
  | _ => false

/-- The wait is in WAITCH (R336). -/
def Wait.atChild : Wait → Bool
  | .waitch _ | .waitchAll _ => true
  | _ => false

/-- The wake condition of a team whose gangs wait at barriers: the grid barrier's phase, when one waits there (R326). -/
def State.barrierWake (s : State) (tk : Nat) : Wake :=
  .barrier (((s.liveGangs tk).findSome? fun e => match e.2.wait with
    | .gbar p => some p
    | _ => none).getD (2 ^ 64))

/-- The children that a wait awaits and that have not retired; none when the wait is over (R326, R354). -/
def Team.awaited (t : Team) : Wait → List Nat
  | .waitch n => if t.doneChildren.contains n then [] else [n]
  | .waitchAll n => ((List.range n).map (· + 1)).filter fun i => !t.doneChildren.contains i
  | _ => []

/-- The wake condition of a team whose gangs wait for children: the retirement of one of those awaited; none when some
gang's wait is already over (R326). -/
def State.childWake (s : State) (tk : Nat) : Wake :=
  let l := (s.liveGangs tk).map fun e => (s.team tk).awaited e.2.wait
  if l.any List.isEmpty then .ready else .child (l.flatMap id)

/-- Every live gang of the team, and there is one, has waited in the given way since a time. -/
def State.allWait (s : State) (tk : Nat) (p : Wait → Bool) (since : Nat) : Bool :=
  !(s.liveGangs tk).isEmpty && (s.liveGangs tk).all fun e => p e.2.wait && decide (e.2.waitSince ≤ since)

/-- DRAIN_DEADLINE (R339, R340): a draining team whose live gangs all wait at a barrier is saved with it as wake
condition; one whose time is up is saved at once. -/
def execDrainDeadline (team : Nat) (s : State) : Host.Outcome State Fault Refusal :=
  let t := s.team team
  match t.drainBy with
  | none => .next s
  | some d =>
    if t.stopping.isSome then .next s
    else if s.allWait team Wait.atBarrier s.ns then .next (s.stopTeam team (.save (s.barrierWake team)))
    else if d ≤ s.ns then .next (s.stopTeam team (.save .ready))
    else .next s

/-- SWAP_OUT (R336): a team whose live gangs have all waited at barriers, or all in WAITCH, for the swap threshold. -/
def execSwapOut (team : Nat) (s : State) : Host.Outcome State Fault Refusal :=
  let t := s.team team
  let thr := (s.ctx t.ctx).swapthr * 1000
  if t.life ≠ .resident ∨ t.stopping.isSome = true ∨ thr = 0 ∨ s.ns < thr then .next s
  else if s.allWait team Wait.atBarrier (s.ns - thr) then .next (s.stopTeam team (.save (s.barrierWake team)))
  else if s.allWait team Wait.atChild (s.ns - thr) then .next (s.stopTeam team (.save (s.childWake team)))
  else .next s

/-- The resident teams of a context on a core. -/
def State.ctxTeams (s : State) (core ctx : Nat) : List Nat :=
  (s.teams.filter fun e => e.2.life == .resident && e.2.core == core && e.2.ctx == ctx).map (·.1)

/-- TIME_SLICE_EXPIRY (R370): the context's teams leave the core when a team of another context would then fit it; else
the slice clock restarts. -/
def execTimeSliceExpiry (core ctx : Nat) (s : State) : Host.Outcome State Fault Refusal :=
  let c := s.core core
  let x := s.ctx ctx
  let ts := s.ctxTeams core ctx
  match tget? c.slices ctx with
  | none => .next s
  | some k =>
    if x.tslice = 0 ∨ ts.isEmpty = true ∨ k.now s.ns < x.tslice * 1000 then .next s
    else
      let gone := s.asIfSaved ts
      let other := (s.dispatchOrder x.part).any fun w =>
        s.waitingCtx w != ctx && s.mayReserve w && gone.fits core w.key? (s.waitingRec w)
      if other then
        .next (ts.foldl (fun (st : State) t =>
          let st1 : State := { st with nextOrder := st.nextOrder + 1 }.setTeam t { st.team t with requeue := st.nextOrder }
          if (st1.team t).stopping.isSome then st1 else st1.stopTeam t (.save .ready))
            (s.setCore core { c with slices := tdel c.slices ctx }))
      else .next (s.setCore core { c with slices := tput c.slices ctx { since := some s.ns } })

/-! ## Slab deadlock -/

/-- Every resident gang of the core stalls on slabs or waits, and one stalls on slabs (R63). -/
def State.slabTight (s : State) (core : Nat) : Bool :=
  let gs := s.residents core
  -- a gang that has become ready stalls no more
  let stalls (g : Gang) : Bool := g.wait == .slab && g.turn != .lane && g.turn != .uniform
  (gs.any fun e => stalls e.2) && gs.all fun e => stalls e.2 || s.isWaiting e.1 e.2

/-- That has been so for 2,048 consecutive cycles (R63). -/
def State.slabStuck (s : State) (core : Nat) : Bool :=
  s.slabTight core && (match (s.core core).stuckSince with
    | some c => decide (c + 2048 ≤ s.cyc)
    | none => false)

/-- The position after the group at which a gang stands. -/
def State.afterGroup (s : State) (gk : Nat) : Nat :=
  let st : State := { s with cur := gk }
  let c := st.cl
  match st.groupAt c.first with
  | .ok g => min (c.first + g.2) (c.len + 1)
  | .error _ => c.first + 1

/-- SLAB_DEADLOCK (R63): the core's youngest team is saved, or the stalled gang of lowest GINDEX raises SHAPE with fault
address 1. -/
def execSlabDeadlock (core : Nat) (s : State) : Host.Outcome State Fault Refusal :=
  if !s.slabStuck core then .next s
  else
    let ts := s.teams.filter fun e => e.2.life == .resident && e.2.core == core
    match ts with
    | [] => .next s
    | [_] =>
      let g := ((s.residents core).filter fun e => e.2.wait == .slab).foldl (fun (b : Option (Nat × Gang)) e => match b with
        | none => some e
        | some x => if e.2.gindex < x.2.gindex then some e else some x) none
      .next (match g with
        | none => s
        | some (k, x) => s.raiseTrap k (x.trapAt 0x06 1 none (s.afterGroup k)) 0)
    | t :: r =>
      let y := r.foldl (fun (b : Nat × Team) e => if b.2.admitted < e.2.admitted then e else b) t
      .next (if y.2.stopping.isSome then s else s.stopTeam y.1 (.save .ready))

end Sys2Proof.Machine
end

