-- ==== Sys2Proof/Machine/Load.lean ====
section
/-! DEFINITION. The load promise's steps: Bellows (R405 to R412, R416), the slow limit (R411), ember work (R415), coal (R419),
droop (R420), near-threshold pipes (R421), temperature (R422, R423), bandwidth shares (R424), energy (R377), hallmark records
(R425 to R427, R442), scrubbing (R396), the demotion of a full partition (R214); and the return to stage 0 (R400). -/

namespace Sys2Proof.Machine

/-! ## The return to stage 0 -/

/-- The device returns to stage 0: every partition, context, session and byte of memory is lost, with the fences, the site
configuration and the time base; the lease clock runs on (R139, R398, R400, R441). (Log entry 52, DEDUCED.) -/
def State.toStage0 (s : State) : State :=
  { State.reset with
    agenda := s.agenda
    ns := s.ns
    pace := s.pace
    cyc := s.cyc
    freeCtr := s.freeCtr
    nextKey := s.nextKey
    nextOp := s.nextOp
    nextOrder := s.nextOrder
    out := s.out
    dev := { stage0At := s.ns, sampleAt := s.ns / 10000, stepping := s.dev.stepping, mgmt := s.dev.mgmt, coolantBad := s.dev.coolantBad, coolantSince := s.dev.coolantSince,
             coolantHold := s.dev.coolantBad || s.dev.coolantHold,
             fw := { s.dev.fw with held := none, backoff := 1, retryAt := 0, parts := [], total := none, stored := false,
                                   delivered := if s.dev.fw.stored then some s.dev.fw.parts else none } } }

/-! ## Bellows -/

/-- BELLOWS_STEP (R405 to R412): the step boundaries of a rail that have come since its last, each in its turn; none before its
instant.  MMAs whose draw the new level covers are granted when they issue again. (Log entry 48, DEDUCED.) -/
def execBellowsStep (rail : Nat) (s : State) : Host.Outcome State Fault Refusal :=
  .next (if 12 ≤ rail then s else s.boundaries rail s.stepNow (s.stepNow - (s.rail rail).step))

/-! ## Module power -/

/-- POWER_SAMPLE (R411, R426): the average power of a 10 µs interval of the lease clock, of the module and of each partition. -/
def execPowerSample (p : PowerReading) (s : State) : Host.Outcome State Fault Refusal :=
  let d := s.dev
  let watts := p.watts
  if s.ns / 10000 ≤ d.sampleAt then .next s
  else
    let s1 : State :=
      { s with dev := { d with sampleAt := s.ns / 10000, samples := d.samples + 1, sampleSum := d.sampleSum + watts,
                               pmin := some (min watts (d.pmin.getD watts)), pmax := some (max watts (d.pmax.getD watts)) } }
    .next (p.parts.foldl (fun (st : State) e =>
      if (tget? st.parts e.1).isSome then
        let q := st.part e.1
        st.setPart e.1 { q with pmin := some (min e.2 (q.pmin.getD e.2)), pmax := some (max e.2 (q.pmax.getD e.2)) }
      else st) s1)

/-- SLOW_LIMIT_WINDOW (R411): at the end of a millisecond of PTP time, from the average of its samples and the rails' shares of its
compute energy `energy`, each rail's floor and ceiling for the next.  A window without a sample changes no limit. (Log entry 48,
DEDUCED.) -/
def execSlowLimitWindow (energy : Nat) (shares : List Nat) (s : State) : Host.Outcome State Fault Refusal :=
  let d := s.dev
  if s.ptp / 1000000 ≤ d.windowAt then .next s
  else
    let s1 : State := { s with dev := { d with windowAt := s.ptp / 1000000, samples := 0, sampleSum := 0 } }
    if d.samples = 0 then .next s1
    else
      let average := d.sampleSum / d.samples
      let units (w rail : Nat) : Nat := w * shares.getD rail 0 * 1000 / energy / s.unitPower rail
      .next ((List.range 12).foldl (fun (st : State) i =>
        let r := st.rail i
        let known : Bool := s.unitPower i != 0 && energy != 0
        st.setRail i
          { r with
            floor := if known then units (average - d.slew) i else 0
            cap := if known then max (units (average + d.slew) i) ((railCores i).map fun k => s.running k).sum else d.railCap }) s1)

/-! ## Ember work -/

/-- A registration has a grid in flight. -/
def State.emberInFlight (s : State) (ctx i : Nat) : Bool :=
  s.grids.any fun e => e.2.ctx == ctx && e.2.ember == some i && !e.2.retired

/-- The level of a root grid (R357). -/
def rootLevel (num : Nat) (sup : Bool) : Nat := if sup then (if num = 0 then 2 else 1) else 0

/-- Launch a context's registrations that have no grid in flight, as root grids at ember priority (R415).
(Log entry 49, DEDUCED.) -/
def State.launchEmbers (s : State) (ck : Nat) : State :=
  let c := s.ctx ck
  if c.stopped then s
  else c.embers.foldl (fun (st : State) e =>
    if st.emberInFlight ck e.1 then st
    else (st.acceptGrid { record := e.2, ctx := ck, part := c.part, level := rootLevel c.num e.2.sup, ember := some e.1 }).1) s

/-- A core's level stands above its need, and has for 1 µs (R415). -/
def State.emberReady (s : State) (core : Nat) : Bool :=
  decide (s.needNow core < (s.core core).level) && (match (s.core core).overSince with
    | some t => decide (t + 1000 ≤ s.ns)
    | none => false)

/-- EMBER_CANDIDATE (R415): a core whose level has stood above its need for 1 µs becomes a candidate, one whose level no
longer does stops being one; while the partition has candidates, its contexts' registrations are launched in rotation.
(Log entry 49, DEDUCED.) -/
def execEmberCandidate (core : Nat) (s : State) : Host.Outcome State Fault Refusal :=
  let c := s.core core
  let now := s.emberReady core
  let s1 := s.setCore core { c with candidate := now, underSince := if now then none else some (c.underSince.getD s.ns) }
  match s1.partOf (coreSlice core) with
  | none => .next s1
  | some (tag, p) =>
    if now then
      let cs := (s1.ctxs.filter fun e => e.2.part == tag).map (·.1)
      let n := cs.length
      let turn := if n = 0 then [] else (List.range n).map fun i => cs.getD ((p.emberTurn + i) % n) 0
      let s2 := turn.foldl (fun (st : State) ck => st.launchEmbers ck) s1
      .next (s2.setPart tag { s2.part tag with emberTurn := if n = 0 then 0 else (p.emberTurn + 1) % n })
    else .next s1

/-- A waiting team that is not an ember team would fit the core if a team left it (R415). -/
def State.crowds (s : State) (tk : Nat) : Bool :=
  let t := s.team tk
  let gone := s.asIfSaved [tk]
  (s.dispatchOrder t.part).any fun w =>
    !s.waitingEmber w && s.mayReserve w && gone.fits t.core w.key? (s.waitingRec w)

/-- EMBER_FLUSH (R415): an ember team leaves for a team that would fit, or when its core has not been a candidate for
1 µs. -/
def execEmberFlush (team : Nat) (s : State) : Host.Outcome State Fault Refusal :=
  let t := s.team team
  let idle := match (s.core t.core).underSince with
    | some x => !(s.core t.core).candidate && decide (x + 1000 ≤ s.ns)
    | none => false
  .next (if t.ember && t.life == .resident && t.stopping.isNone && (idle || s.crowds team) then s.stopTeam team .flush else s)

/-! ## Clocks -/

/-- A cluster's boost request: the greatest among its resident gangs that are not waiting; 0 when the site disables boost
or the cluster is held at level 0 (R418, R422, R443). -/
def State.clusterRequest (s : State) (k : Nat) : Nat :=
  if !s.dev.site.boost || s.dev.throttled || s.dev.therm.hot.toList.getD (sliceOf k) false then 0
  else (s.gangs.filter fun e => e.2.life == .resident && clusterOf e.2.core == k).foldl
    (fun n e => if s.isWaiting e.1 e.2 then n else max n e.2.boostReq) 0

/-- A cluster is held at level 0 (R422, R443): it has run above it when it did. -/
def Cluster.holdLow (c : Cluster) : Cluster := { c with level := 0, ranHigh := c.ranHigh || decide (0 < c.level) }

/-- Charge a cluster's permits at an interval boundary (R419). -/
def Cluster.charge (c : Cluster) : Cluster :=
  let p := if 0 < c.level ∨ c.ranHigh = true then c.permits - 1 else if c.busy then c.permits else min 64 (c.permits + 1)
  { c with permits := p, level := if p = 0 then c.level - 1 else c.level, ranHigh := false, busy := false }

/-- The next interval boundary of a rail (R419). -/
def State.coalBoundary (s : State) (rail : Nat) : State :=
  let ks := (List.range 8).map (8 * rail + ·)
  let s1 := ks.foldl (fun (st : State) k => st.setCluster k (st.cluster k).charge) s
  let rho := match s.partOf rail with
    | some p => p.2.rho
    | none => 0
  let key (k : Nat) : Nat × Nat := (64 - (s1.cluster k).permits, (k + 96 - rho % 96) % 96)
  let want := (ks.filter fun k => decide (0 < (s1.cluster k).permits) && decide (0 < s1.clusterRequest k)).foldl
    (fun l k => insertRank key k l) []
  let r := want.foldl (fun (acc : State × Nat) k =>
    let l := min (acc.1.clusterRequest k) acc.2
    (acc.1.setCluster k { acc.1.cluster k with level := l }, acc.2 - l)) (s1, 2)
  ks.foldl (fun (st : State) k =>
    if 0 < (st.cluster k).permits ∧ !want.contains k then st.setCluster k { st.cluster k with level := 0 } else st) r.1

/-- The interval boundaries of a rail up to now, each in its turn, until one changes nothing. -/
def State.coalBoundaries (s : State) (rail : Nat) : Nat → State
  | 0 => s
  | n + 1 =>
    let t := s.coalBoundary rail
    if t.clusters = s.clusters then s else State.coalBoundaries t rail n

/-- COAL_INTERVAL (R419): the interval boundaries of a rail, the multiples of 10,000 ns of the lease clock, that have come since its
last. (Log entry 48, DEDUCED.) -/
def execCoalInterval (rail : Nat) (s : State) : Host.Outcome State Fault Refusal :=
  let now := s.ns / 10000
  if 12 ≤ rail ∨ now ≤ (s.rail rail).coalAt then .next s
  else
    let t := s.coalBoundaries rail (now - (s.rail rail).coalAt)
    .next (t.setRail rail { t.rail rail with coalAt := now })

/-- DROOP (R420): a stretch begins, and counts one event; a droop within a stretch is part of it. (Log entry 50, DEDUCED.) -/
def execDroop (cluster : Nat) (s : State) : Host.Outcome State Fault Refusal :=
  let k := s.cluster cluster
  .next (if k.stretched.isSome then s
    else s.setCluster cluster { k with stretched := some s.cyc, droops := k.droops + 1 })

/-- DROOP_RECOVERY (R420): after at least 32 stretched cycles the supply has recovered. (Log entry 50, DEDUCED.) -/
def execDroopRecovery (cluster : Nat) (s : State) : Host.Outcome State Fault Refusal :=
  let k := s.cluster cluster
  .next (match k.stretched with
    | some t => if t + 32 ≤ s.cyc then s.setCluster cluster { k with stretched := none } else s
    | none => s)

/-- NTV is masked for a context resident on the core, or the site disables the mode (R379, R421). -/
def State.ntvOff (s : State) (core : Nat) : Bool :=
  !s.dev.site.nearThreshold || (s.residents core).any fun e => !((s.ctx e.2.ctx).featmask.getLsbD 8)

/-- NEAR_THRESHOLD_TRANSITION (R421). -/
def execNearThresholdTransition (core pipe busy4096 busy256 : Nat) (s : State) : Host.Outcome State Fault Refusal :=
  let c := s.core core
  if pipe = 0 ∨ 4 ≤ pipe then .next s
  else
    let on := c.pipes.toList.getD pipe false
    let next := if on then decide (busy256 < 128) else decide (busy4096 < 512) && !s.ntvOff core
    .next (s.setCore core { c with pipes := c.pipes.setIfInBounds pipe next })

/-! ## Temperature -/

/-- An action at a threshold begins at it and ends 5 °C below it (R422). -/
def hysteresis (threshold t : Nat) (on : Bool) : Bool := decide (threshold ≤ t) || (on && decide (threshold < t + 5))

/-- TEMPERATURE_READ (R422, R424): the stacks' temperatures; from 95 °C on the clusters above a stack are held at level 0, and at
110 °C the device returns to stage 0. -/
def execTemperatureRead (temps : List Nat) (s : State) : Host.Outcome State Fault Refusal :=
  if temps.any fun t => decide (110 ≤ t) then .next s.toStage0
  else
    let th := s.dev.therm
    let new : Thermal :=
      { temps := Vector.ofFn fun i => temps.getD i.val (th.temps[i])
        warm := Vector.ofFn fun i => hysteresis 85 (temps.getD i.val (th.temps[i])) (th.warm[i])
        hot := Vector.ofFn fun i => hysteresis 95 (temps.getD i.val (th.temps[i])) (th.hot[i]) }
    -- an interval in part of which the 85 °C action holds has the share flag, the one in which it ends too
    let warm (i : Nat) : Bool := new.warm.toList.getD i false || th.warm.toList.getD i false
    let share (p : Part) : Bool := p.shares.any fun e => !e.2.isEmpty && warm e.1
    .next { s with dev := { s.dev with therm := new },
                   clusters := s.clusters.map fun e =>
                     if new.hot.toList.getD (sliceOf e.1) false then (e.1, e.2.holdLow) else e
                   parts := s.parts.map fun e => if share e.2 then (e.1, { e.2 with shareEvent := true }) else e }

/-- The coolest other stack of the partition below 85 °C that has a free space of `n` bytes (R423). -/
def State.coolest (s : State) (tag stack n : Nat) : Option Nat :=
  let th := s.dev.therm
  let temp (i : Nat) : Nat := th.temps.toList.getD i 0
  ((s.part tag).slices.filter fun i => i != stack && !s.isFenced 4 i && decide (temp i < 85) &&
      (s.placePages tag (stackSpaces i) (fun _ => true) [(0, n)] (s.inUseBy tag)).isSome).foldl
    (fun (b : Option Nat) i => match b with
      | none => some i
      | some x => if temp i < temp x then some i else some x) none

/-- The registered tensor that a physical page belongs to: its index and entry. -/
def State.tensorAt (s : State) (tag : Nat) (pages : List (Nat × Nat)) (p : Nat × Nat) : Option (Nat × ResEntry) :=
  (s.part tag).resid.find? fun e => (s.tensorPages pages e.2).contains p

/-- Pages move to a stack together, when it has room and nothing stands on them (R215, R423). -/
def State.moveToStack (s : State) (tag stack : Nat) (l : List (Nat × Nat)) : State :=
  match s.placePages tag (stackSpaces stack) (fun _ => true) l (s.inUseBy tag) with
  | some q => if l.any s.pageBusy then s else s.movePages tag q
  | none => s

/-- A hot page moves: with its whole tensor when it is registered, and its stack has room for that (R423). -/
def State.moveHot (s : State) (tag dst : Nat) (p : Nat × Nat) : State :=
  let pages := s.leafPages tag
  match s.tensorAt tag pages p with
  | some (_, e) => if e.moving then s
      else s.moveToStack tag dst ((s.tensorPages pages e).filter fun x => !(x.1 / 2 ^ 36 == dst) && decide (x.1 < 12 * 2 ^ 36))
  | none => s.moveToStack tag dst [p]

/-- HOT_PAGE_MIGRATION (R423): the hottest pages of a warm stack, at most 64 in a millisecond of the lease clock, go to cooler stacks of
its partition. -/
def execHotPageMigration (stack : Nat) (pages : List Nat) (s : State) : Host.Outcome State Fault Refusal :=
  match s.partOf stack with
  | none => .next s
  | some (tag, _) =>
    let early : Bool := match tget? s.dev.hotAt stack with
      | some t => decide (s.ns < t + 1000000)
      | none => false
    if !(s.dev.therm.warm.toList.getD stack false) || early then .next s
    else .next ((pages.take 64).foldl (fun (st : State) f =>
      let pa := f * 65536
      if pa / 2 ^ 36 ≠ stack then st
      else match pageAt (st.leafPages tag) pa with
        | none => st
        | some p => match st.coolest tag stack p.2 with
          | some dst => st.moveHot tag dst p
          | none => st) { s with dev := { s.dev with hotAt := tput s.dev.hotAt stack s.ns } })

/-- A partition's contexts have shares of a stack that is warm now, or was in the interval (R424). -/
def State.shareFlag (s : State) (p : Part) : Bool :=
  p.shareEvent || p.shares.any fun e => !e.2.isEmpty && s.dev.therm.warm.toList.getD e.1 false

/-- GUARANTEED_SHARE_SET (R424): a stack's shares, in percent, when they sum to at most 100; the interval keeps the flag that the shares
before have earned it. -/
def execGuaranteedShareSet (tag stack : Nat) (shares : List (Nat × Nat)) (s : State) : Host.Outcome State Fault Refusal :=
  let p := s.part tag
  let t : Tbl Nat := shares.foldl (fun t e => tput t e.1 e.2) []
  .next (if (t.map (·.2)).sum ≤ 100 ∧ (tget? s.parts tag).isSome = true ∧ p.owns stack = true then
    s.setPart tag { p with shares := tput p.shares stack t, shareEvent := s.shareFlag p } else s)

/-! ## The demotion of a full partition (R214) -/

/-- Insert a tensor by priority, lowest first, then by registration, oldest first. -/
def insertTensor (x : Nat × ResEntry) : List (Nat × ResEntry) → List (Nat × ResEntry)
  | [] => [x]
  | y :: r => if x.2.prio < y.2.prio ∨ (x.2.prio = y.2.prio ∧ x.2.order < y.2.order) then x :: y :: r else y :: insertTensor x r

/-- The DRAM pages that contexts with a CXL window map and no registered tensor holds, lowest address first (R214, R379). -/
def State.loosePages (s : State) (tag : Nat) : List (Nat × Nat) :=
  let all := s.leafPages tag
  let ls := ((s.ctxsOf tag).filter fun e => e.2.featmask.getLsbD 5).flatMap fun e => s.leavesUnder 4 e.2.root
  let pages := (ls.filterMap fun r => pageAt all r.1).filter fun p => s.tierOf tag p.1 == 0 && (s.tensorAt tag all p).isNone
  (pages.foldl (fun l p => insertNat l p.1) []).filterMap fun a => pageAt all a

/-- Demote tensors in order until enough bytes have moved: one that has no room stays, and one whose pages are in accesses is
waited for, with all that follow (R214, R215). -/
def State.demoteTensors (tag bytes : Nat) : List (Nat × ResEntry) → State × Nat → State × Nat × Bool
  | [], acc => (acc.1, acc.2, false)
  | e :: r, acc =>
    if bytes ≤ acc.2 then (acc.1, acc.2, false)
    else match acc.1.tierPlan e.2 1 with
      | none => State.demoteTensors tag bytes r acc
      | some q => match acc.1.moveTensor tag e.1 1 with
        | some t => State.demoteTensors tag bytes r (t, acc.2 + (q.map fun x => x.1.2).sum)
        | none => (acc.1, acc.2, true)

/-- DRAM_SHORTAGE_DEMOTION (R214, R379): whole tensors go to CXL, lowest priority first and oldest first among equals, then
unregistered pages one at a time, until as many bytes have moved as are short. (Log entry 50, DEDUCED.) -/
def execDramShortageDemotion (tag bytes : Nat) (s : State) : Host.Outcome State Fault Refusal :=
  let l := ((s.part tag).resid.filter fun e => !(s.outside e.2 1).isEmpty && !e.2.moving && (s.ctx e.2.ctx).featmask.getLsbD 5).foldl
    (fun l e => insertTensor e l) []
  let r := State.demoteTensors tag bytes l (s, 0)
  if r.2.2 then .next r.1
  else
    let q := (r.1.loosePages tag).foldl (fun (acc : State × Nat) p =>
      if bytes ≤ acc.2 ∨ acc.1.pageBusy p then acc
      else match acc.1.placePages tag (acc.1.windowSpaces tag) (fun _ => true) [p] (acc.1.inUseBy tag) with
        | some x => (acc.1.movePages tag x, acc.2 + p.2)
        | none => acc) (r.1, r.2.1)
    .next q.1

/-! ## Energy and hallmark records -/

/-- The cycles that each context's gangs have held slots of a cluster since its last accounting (R377). -/
def State.slotCycles (s : State) (k : Nat) : Tbl Nat :=
  let c := s.cluster k
  (s.gangs.filter fun e => e.2.life == .resident && clusterOf e.2.core == k).foldl
    (fun t e => tput t e.2.ctx (tget t e.2.ctx 0 + (s.cyc - max e.2.placedCyc c.acctCyc))) c.occ

/-- The number by which equal shares are told apart: the context's, and one above all for a context that is no more. -/
def State.shareNum (s : State) (ck : Nat) : Nat := match tget? s.ctxs ck with
  | some c => c.num
  | none => 64

/-- Energy for the idle account of a cluster's partition (R377). -/
def State.addIdle (s : State) (cluster n : Nat) : State :=
  match s.payer (sliceOf cluster) with
  | some (tag, p) => s.setPart tag { p with idleEnergy := p.idleEnergy + n }
  | none => s

/-- ENERGY_ACCOUNTING (R377): at the end of 100 µs of the lease clock a cluster's energy is split among contexts by their slot cycles; the
remainder goes to the greatest, ties to the lowest context number; with none, to the idle account, which also takes the share of a context
that is no more. (Log entry 48, DEDUCED.) -/
def execEnergyAccounting (cluster nanojoules : Nat) (s : State) : Host.Outcome State Fault Refusal :=
  let c := s.cluster cluster
  if s.ns / 100000 ≤ max c.acctAt (s.dev.stage0At / 100000) then .next s
  else
    let t := s.slotCycles cluster
    let total := (t.map (·.2)).sum
    let s1 := s.setCluster cluster { c with occ := [], acctCyc := s.cyc, acctAt := s.ns / 100000 }
    if total = 0 then .next (s1.addIdle cluster nanojoules)
    else
      let part (e : Nat × Nat) : Nat := nanojoules * e.2 / total
      let rest := nanojoules - (t.map part).sum
      let top := t.foldl (fun (b : Nat × Nat) e =>
        if b.2 < e.2 ∨ (b.2 = e.2 ∧ s.shareNum e.1 < s.shareNum b.1) then e else b) (t.headD (0, 0))
      .next (t.foldl (fun (st : State) e =>
        let n := part e + if e.1 = top.1 then rest else 0
        match tget? st.ctxs e.1 with
        | some x => st.setCtx e.1 { x with energy := x.energy + BitVec.ofNat 64 n }
        | none => st.addIdle cluster n) s1)

/-- A number held to a field of `n` bytes. -/
def saturate (n x : Nat) : Nat := min x (256 ^ n - 1)

/-- An energy in units of 2^e µJ, rounded to nearest: the energy is `x.1` of the parts of which `x.2` make a µJ (R426). -/
def inUnits (e : Nat) (x : Nat × Nat) : Nat := (2 * x.1 + x.2 * 2 ^ e) / (2 * x.2 * 2 ^ e)

/-- The least scale at which every value fits 16 bits (R426). -/
def leastScale (xs : List (Nat × Nat)) : Nat :=
  ((List.range 256).find? fun e => xs.all fun x => decide (inUnits e x < 65536)).getD 255

/-- An energy in accumulated unit power, units × mW × 16 for each step of 16/7 ns: 7,000,000 of these make a µJ (R405, R411). -/
def unitEnergy (x : Nat) : Nat × Nat := (x, 7000000)

/-- What a record tells of its own scope (R426): the module's or a partition's; ember energies in accumulated unit power. -/
structure Scope where
  tag : Nat
  seq : Nat
  slices : List Nat
  share : Bool
  ended : Bool
  energy : Nat
  pmin : Nat
  pmax : Nat
  useful : Nat
  synth : Nat

/-- A hallmark record (R426) of a scope, at the end of an interval: `per` are the slices' energies in it. -/
def State.record (s : State) (x : Scope) (stamp : Nat) (per : List Nat) : List Byte :=
  let d := s.dev
  let hot := x.slices.any fun i => d.therm.hot.toList.getD i false
  let flags := x.share.toNat + (hot || d.throttled || d.coolantBad).toNat * 2 + x.ended.toNat * 4 + (!d.locked || d.holdover).toNat * 8
  let temp (i : Nat) : Nat := d.therm.temps.toList.getD i 0
  let top := x.slices.foldl (fun b i => if temp b < temp i then i else b) (x.slices.headD 0)
  let ks := x.slices.flatMap fun i => (List.range 8).map (8 * i + ·)
  let coal := ks.foldl (fun n k => min n (s.cluster k).permits) 64
  let bev := (x.slices.map fun i => (s.rail i).events).sum
  let droops := (ks.map fun k => (s.cluster k).droops).sum
  let sl := (List.range 12).map fun i => (if x.slices.contains i then per.getD i 0 else 0, 1)
  let e := leastScale ([unitEnergy x.useful, unitEnergy x.synth] ++ sl)
  bytesOfNat 1 1 ++ bytesOfNat 1 x.tag ++ bytesOfNat 1 flags ++ bytesOfNat 1 e ++ bytesOfNat 4 x.seq ++
    bytesOfNat 6 (stamp / 1000000000) ++ bytesOfNat 1 (saturate 1 (temp top)) ++ bytesOfNat 1 top ++
    bytesOfNat 4 (stamp % 1000000000) ++ bytesOfNat 2 (saturate 2 bev) ++ bytesOfNat 1 coal ++
    bytesOfNat 1 (saturate 1 droops) ++ bytesOfNat 8 x.energy ++ bytesOfNat 2 (saturate 2 x.pmin) ++ bytesOfNat 2 (saturate 2 x.pmax) ++
    bytesOfNat 2 (inUnits e (unitEnergy x.useful)) ++ bytesOfNat 2 (inUnits e (unitEnergy x.synth)) ++ sl.flatMap fun n => bytesOfNat 2 (inUnits e n)

/-- The IPv6 address of port `p` (R431): the site's /64 prefix, the fleet field in bits 63:24, the device number in bits 23:4 and the
port in bits 3:0. -/
def portAddress (x : Site) (p : Nat) : Nat :=
  x.netBase % 2 ^ 64 * 2 ^ 64 + x.fleet % 2 ^ 40 * 2 ^ 24 + x.device % 2 ^ 20 * 2 ^ 4 + p % 2 ^ 4

/-- Send a record, when the site names a collector (R442): from the management port's address and UDP port 47,801. -/
def State.sendRecord (s : State) (tag : Nat) (body : List Byte) : State :=
  let x := s.dev.site
  match x.collector with
  | some c => s.send (.hallmark tag (portAddress x s.dev.mgmt, 47801) (some (c, x.collectorPort)) body)
  | none => s

/-- A partition's record of the interval, and its state for the next; `shared` is its share of ladle and CXL energy.  An interval
without a sample has no power to tell: free values. -/
def State.partRecord (s : State) (stamp : Nat) (slices : List Nat) (shared : Nat) (tag : Nat) : State :=
  let p := s.part tag
  let a := s.free
  let b := a.2.free
  let energy := p.energy + (p.slices.map fun i => slices.getD i 0).sum + shared
  let x : Scope :=
    { tag := tag, seq := p.hallSeq, slices := p.slices, share := s.shareFlag p, ended := p.endedEvent, energy := energy,
      pmin := p.pmin.getD a.1.toNat, pmax := p.pmax.getD b.1.toNat, useful := p.usefulUnits - p.usefulMark, synth := p.synthUnits - p.synthMark }
  (b.2.sendRecord tag (s.record x stamp slices)).setPart tag
    { p with energy := energy, hallSeq := (p.hallSeq + 1) % 2 ^ 32, shareEvent := false, endedEvent := false, pmin := none,
             pmax := none, usefulMark := p.usefulUnits, synthMark := p.synthUnits }

/-- The first interval boundary after a time: a whole multiple of the site's interval (R425, R427). -/
def nextBoundary (x : Site) (t : Nat) : Nat := (t / x.interval + 1) * x.interval

/-- HALLMARK_INTERVAL (R425 to R427, R442): at an interval's end, the module record and one for each partition, in ascending tag, sent
when the site names a collector. -/
def execHallmarkInterval (use : EnergyUse) (s : State) : Host.Outcome State Fault Refusal :=
  let d := s.dev
  let slices := use.slices
  if s.ptp < d.hallNext then .next s
  else
    let stamp := nextBoundary d.site s.ptp - d.site.interval
    let a := s.free
    let b := a.2.free
    let energy := d.energy + slices.sum
    let x : Scope :=
      { tag := 0, seq := d.hallSeq, slices := List.range 12, share := s.parts.any fun e => s.shareFlag e.2,
        ended := d.endedEvent || s.parts.any fun e => e.2.endedEvent, energy := energy,
        pmin := d.pmin.getD a.1.toNat, pmax := d.pmax.getD b.1.toNat,
        useful := (s.parts.map fun e => e.2.usefulUnits - e.2.usefulMark).sum
        synth := (s.parts.map fun e => e.2.synthUnits - e.2.synthMark).sum }
    let s1 := b.2.sendRecord 0 (s.record x stamp slices)
    let s2 := s.parts.foldl (fun (st : State) e => st.partRecord stamp slices (tget use.shared e.1 0) e.1) s1
    .next { s2 with
      dev := { d with energy := energy, hallSeq := (d.hallSeq + 1) % 2 ^ 32, hallNext := nextBoundary d.site s.ptp,
                      endedEvent := false, pmin := none, pmax := none }
      rails := s2.rails.map fun e => (e.1, { e.2 with events := 0 })
      clusters := s2.clusters.map fun e => (e.1, { e.2 with droops := 0 }) }

/-! ## Soft errors (R395, R396) -/

/-- Count soft-error events of a store for a unit and a partition (R396). -/
def State.countErrors (s : State) (tag : Option Nat) (unit_ idx n : Nat) : State :=
  let old := tget s.dev.softUnits unit_ (Vector.replicate 4 0)
  let s1 : State := { s with dev := { s.dev with softUnits := tput s.dev.softUnits unit_ (old.setIfInBounds idx (old.toList.getD idx 0 + n)) } }
  match tag.bind fun t => (tget? s1.parts t).map fun p => (t, p) with
  | some (t, p) => s1.setPart t { p with serr := p.serr.setIfInBounds idx (p.serr.toList.getD idx 0 + BitVec.ofNat 64 n) }
  | none => s1

/-- The partition of a core. -/
def State.coreTag (s : State) (core : Nat) : Option Nat := (s.partOf (coreSlice core)).map (·.1)

/-- The slice that a unit stands on, when it stands on one. -/
def unitSlice (u : Nat) : Option Nat :=
  let i := u / 256
  match u % 256 with
  | 0 => some (i / 32)
  | 1 => some (i / 8)
  | 3 | 4 => some i
  | _ => none

/-- The partitions that a unit belongs to: a CXL port belongs to those whose windows it serves. -/
def State.unitParts (s : State) (u : Nat) : List Nat :=
  let i := u / 256
  match u % 256 with
  | 2 => (s.parts.filter fun e => e.2.ladles.contains i).map (·.1)
  | 5 => (s.parts.filter fun e => s.dev.windows.any fun w => w.tag == e.1 && w.ports.contains i).map (·.1)
  | _ => match unitSlice u with
    | some x => ((s.partOf x).map (·.1)).toList
    | none => []

/-- The home bank of a physical address in the partition that holds it: its tag, when there is one, and its L2 slice. -/
def State.l2At (s : State) (pa : Nat) : Option Nat × Nat :=
  match s.parts.find? fun e => s.physOk e.1 pa || e.2.owns (pa / 2 ^ 36) with
  | some e => (some e.1, s.home e.1 pa / 16)
  | none => (none, 0)

/-- A vector register one of whose 64-bit values is lost: the lane that it holds is marked, or every lane when the register is
compact (R175, R395). (Log entry 70, DESIGN CHOICE.) -/
def VReg.lose (r : VReg) (l : Nat) (free : Word) : VReg :=
  match r with
  | .p ls => .p (ls.setIfInBounds l { val := free, mark := some 0 })
  | _ => .p (Vector.replicate 32 { val := free, mark := some 0 })

/-- What an error does, and the unit whose count it enters, with its store (R395, R396). (Log entry 70, DESIGN CHOICE.) -/
def State.softError (s : State) (e : SoftError) : State :=
  let free := s.free
  match e with
  | .corrected u store n => s.countErrors (s.unitParts u).head? u (store % 4) n
  | .l2 w =>
    let h := s.l2At (w * 8)
    { s with mem := s.mem.poisonRange (w * 8) 8 }.countErrors h.1 (unitWord 1 h.2) 0 1
  | .scratchpad tk off =>
    let t := s.team tk
    if t.life = .resident ∧ off < t.spadLen then
      (s.setTeam tk { t with spad := t.spad.poisonRange off 1 }).countErrors (some t.part) (unitWord 0 t.core) 1 1
    else s
  | .lane gk r l =>
    let g := s.gang gk
    if g.life = .resident ∧ r < 96 ∧ l < 32 then
      (free.2.setGang gk (g.setV r ((g.vreg r).lose l free.1))).countErrors (some g.part) (unitWord 0 g.core) 2 1
    else s
  | .scalar gk r =>
    let g := s.gang gk
    if g.life = .resident ∧ r < 256 then
      (free.2.setGang gk (g.setS r { val := free.1, mark := some 0 })).countErrors (some g.part) (unitWord 0 g.core) 2 1
    else s
  | .accumulator tk k =>
    let t := s.team tk
    if t.life = .resident ∧ k < 8 then
      (s.setTeam tk (t.setAcc k { t.accOf k with mark := true })).countErrors (some t.part) (unitWord 0 t.core) 2 1
    else s
  | .parityL1 c line =>
    (s.setCore c { s.core c with l1 := (s.core c).l1.filter fun x => x.line != line }).countErrors (s.coreTag c) (unitWord 0 c) 3 1
  | .parityL0 c line =>
    (s.setCore c { s.core c with l0 := (s.core c).l0.filter fun x => x.line != line }).countErrors (s.coreTag c) (unitWord 0 c) 3 1
  | .parityIc k line =>
    (s.setCluster k { s.cluster k with ic := (s.cluster k).ic.filter fun x => x.line != line }).countErrors (s.coreTag (4 * k))
      (unitWord 0 (4 * k)) 3 1
  | .parityTlb cluster k va mid =>
    let leaf (l : List TlbEntry) : List TlbEntry := if mid then l else l.filter fun x => x.va / 2 ^ x.lg != va / 2 ^ x.lg
    let upper (l : List MidEntry) : List MidEntry := if mid then l.filter fun x => x.tag != va / 2 ^ levelShift (x.level + 1) else l
    let c := if cluster then 4 * k else k
    (if cluster then s.setCluster k { s.cluster k with tlb := leaf (s.cluster k).tlb, mid := upper (s.cluster k).mid }
      else s.setCore k { s.core k with tlb := leaf (s.core k).tlb, mid := upper (s.core k).mid }).countErrors (s.coreTag c)
      (unitWord 0 c) 3 1

/-- The unit whose corrected events an error enters, and how many: a parity error is corrected, for its entry is fetched again
(R395 to R397). -/
def SoftError.fixed (e : SoftError) : Option (Nat × Nat) :=
  match e with
  | .corrected u _ n => some (u, n)
  | .parityL1 c _ | .parityL0 c _ => some (unitWord 0 c, 1)
  | .parityIc k _ => some (unitWord 0 (4 * k), 1)
  | .parityTlb cluster k _ _ => some (unitWord 0 (if cluster then 4 * k else k), 1)
  | _ => none

/-- Note corrected events of a unit in the last second (R397). -/
def State.noteCorrected (s : State) (u n : Nat) : State :=
  let old := (tget s.dev.softRecent u []).filter fun e => decide (s.ns < e.1 + 1000000000)
  { s with dev := { s.dev with softRecent := tput s.dev.softRecent u (old ++ [(s.ns, n)]) } }

/-- A unit's corrected events in the last second exceed the site's threshold (R397). -/
def State.overLimit (s : State) (u : Nat) : Bool :=
  decide (s.dev.site.softLimit < ((tget s.dev.softRecent u []).map (·.2)).sum)

end Sys2Proof.Machine
end

