-- ==== Sys2Proof/Machine/Hearth.lean ====
section
/-! DEFINITION. Hearth's steps: bring-up (R398, R400, R443, R444), coolant (R443), time (R441), fences and reforge (R373 to R376,
R397, R438), and the stop and restore of a context (R378). -/

namespace Sys2Proof.Machine

/-! ## Bring-up -/

/-- Coolant is in range: flow in mL/min, inlet in °C (R443). -/
def coolantOk (flow inlet : Nat) : Bool := decide (3500 ≤ flow) && decide (17 ≤ inlet) && decide (inlet ≤ 40)

/-- POWER_GOOD (R400, R443): stage 0 from ROM, with the management port that the strap names. (Log entry 52, DEDUCED.) -/
def execPowerGood (flow inlet strap : Nat) (s : State) : Host.Outcome State Fault Refusal :=
  let t := s.toStage0
  let bad := !coolantOk flow inlet
  .next { t with dev := { t.dev with powered := true, mgmt := if strap < 12 then strap else 0,
                                     coolantBad := bad, coolantSince := s.ns, coolantHold := bad } }

/-- The ROM discards an image that is refused or fails its self-checks, and fetches again after a wait that doubles from 1 s up to
64 s (R398). -/
def State.refuseImage (s : State) (wait : Nat) : State :=
  { s with dev := { s.dev with fw := { s.dev.fw with held := none, delivered := none, backoff := min 64 (2 * wait),
                                                     retryAt := s.ns + wait * 1000000000 } } }

/-- An image fails its self-checks in a later stage: the device is in stage 0 again (R398). -/
def State.failSelfCheck (s : State) : State := s.toStage0.refuseImage s.dev.fw.backoff

/-- A site configuration as the device holds it: a device number of 20 bits and a fleet field of 40 (R17, R431), the ramp
table within its ranges (R407), and a hallmark interval of 100 µs to 1 s in multiples of 100 µs (R425), else the defaults. (Log entry 71, DESIGN CHOICE.) -/
def siteHeld (x : Site) : Site :=
  { x with
    device := x.device % 2 ^ 20
    fleet := x.fleet % 2 ^ 40
    rise := if 1 ≤ x.rise ∧ x.rise ≤ 64 then x.rise else 8
    fall := if 1 ≤ x.fall ∧ x.fall ≤ 64 then x.fall else 8
    railCap := if 64 ≤ x.railCap ∧ x.railCap ≤ 2048 then x.railCap else 512
    slew := if 10 ≤ x.slew ∧ x.slew ≤ 2000 then x.slew else 250
    interval := if 100000 ≤ x.interval ∧ x.interval ≤ 1000000000 ∧ x.interval % 100000 = 0 then x.interval else 1000000 }

/-- Stage 0 may go on: coolant is in range, and where it was not when power came, has been for 5 s (R443). -/
def Device.coolantGood (d : Device) (ns : Nat) : Bool :=
  !d.coolantBad && (!d.coolantHold || decide (d.coolantSince + 5000000000 ≤ ns))

/-- FIRMWARE_FETCH (R398, R407, R431, R433, R443, R444): the image, delivered before this stage 0 or fetched, is accepted when its
key is the fused one, its rollback counter is at least the fused one and its self-checks pass; the site configuration is read in
stage 0, and the ramp table is in force from stage 1.  There is no attempt before the wait that follows a refusal has ended. -/
def execFirmwareFetch (key rollback : Nat) (selfCheck : Bool) (site : Site) (s : State) : Host.Outcome State Fault Refusal :=
  let d : Device := if s.dev.stage = 0 then { s.dev with site := siteHeld site, hallNext := nextBoundary (siteHeld site) s.ptp }
    else s.dev
  let t : State := { s with dev := d }
  if d.stage ≠ 0 ∨ !d.coolantGood s.ns ∨ s.ns < d.fw.retryAt then .next t
  else if key = d.fw.fusedKey ∧ d.fw.fusedCounter ≤ rollback ∧ selfCheck = true then
    .next { t with dev := { d with stage := 1, rise := d.site.rise, fall := d.site.fall, railCap := d.site.railCap, coolantHold := false,
                                   slew := d.site.slew, fw := { d.fw with held := some rollback, delivered := none } } }
  else .next (t.refuseImage d.fw.backoff)

/-- Fence a unit. -/
def State.fence1 (s : State) (u : Nat) : State :=
  if s.dev.fenced.contains u then s else { s with dev := { s.dev with fenced := insertNat s.dev.fenced u } }

/-- Fence a unit of no partition: the fence has ended, and module records say so (R397, R426). -/
def State.fenceAlone (s : State) (u : Nat) : State :=
  let t := s.fence1 u
  { t with dev := { t.dev with endedEvent := true } }

/-- DRAM_READY (R367, R398, R400): every stack is trained and zeroed, its frame tags none; one that fails is fenced.  The image may
fail its self-checks. -/
def execDramReady (c : StageCheck) (s : State) : Host.Outcome State Fault Refusal :=
  if s.dev.stage ≠ 1 then .next s
  else if !c.passes then .next s.failSelfCheck
  else
    let s1 := (c.failed.filter fun i => decide (i < 12)).foldl (fun (st : State) i => st.fenceAlone (unitWord 4 i)) s
    .next { s1 with mem := {}, owners := [], lineG := [], bankMark := [], dev := { s1.dev with stage := 2 } }

/-- A run of slices is a line of R364. -/
def legalRun (size first : Nat) : Bool :=
  [1, 2, 3, 4, 6, 12].contains size && first % size == 0 && decide (first + size ≤ 12)

/-- A slice has a core that is not fenced. -/
def State.sliceUsable (s : State) (i : Nat) : Bool := (List.range 32).any fun c => !s.isFenced 0 (32 * i + c)

/-- A decoder of R439: its window is aligned, interleaves over 1, 2 or 4 of the four ports, lies in the CXL range and meets no
other. -/
def windowOk (l : List Window) (w : Window) : Bool :=
  (w.ports.all fun i => decide (i < 4)) && decide w.ports.Nodup &&
  w.base % 2 ^ 28 == 0 && w.size % 2 ^ 28 == 0 && decide (0 < w.size) && [1, 2, 4].contains w.ports.length &&
    decide (2 ^ 51 ≤ w.base) && decide (w.base + w.size ≤ 2 ^ 52) && !(l.any fun x => overlap w.base w.size x.base x.size) &&
    decide ((l.map fun x => x.size).sum + w.size ≤ 2 ^ 43) && decide (l.length < 16)

/-- Form a partition of the stored layout, with context 0 (R14, R342, R356, R400); an age cap or a number of tokens out of its range
takes the default (R327, R416). (Log entry 71, DESIGN CHOICE.) -/
def State.formPart (s : State) (l : Layout) : State :=
  let p : Part := { tag := l.tag, first := l.first, size := l.size, ladles := l.ladles, start := 32 * l.first,
                    ageCap := if 64 ≤ l.ageCap ∧ l.ageCap ≤ 4096 then l.ageCap else 256,
                    tokens := if l.tokens ≤ 32 then l.tokens else 4 }
  let clash := s.parts.any fun e => e.1 == l.tag || overlap l.first l.size e.2.first e.2.size ||
    l.ladles.any fun x => e.2.ladles.contains x
  let ladles := (l.ladles.all fun i => decide (i < 48)) && decide l.ladles.Nodup
  if ladles && legalRun l.size l.first && decide (1 ≤ l.tag) && decide (l.tag ≤ 12) && !clash && p.slices.any s.sliceUsable then
    (s.setPart l.tag p).setCtx (ctxKey l.tag 0) { num := 0, part := l.tag }
  else s

/-- SLICES_READY (R398, R400): slices and ports come up, failing units are fenced, and the stored layout is formed.  The image may
fail its self-checks. -/
def execSlicesReady (c : StageCheck) (s : State) : Host.Outcome State Fault Refusal :=
  if s.dev.stage ≠ 2 then .next s
  else if !c.passes then .next s.failSelfCheck
  else
    let s1 := c.failed.foldl (fun (st : State) u => st.fenceAlone u) s
    let ws := s.dev.site.windows.foldl (fun l w => if windowOk l w then l ++ [w] else l) []
    let s2 : State := { s1 with dev := { s1.dev with stage := 3, windows := ws, fw := { s1.dev.fw with sound := c.sound } } }
    .next (s.dev.site.layout.foldl (fun (st : State) l => st.formPart l) s2)

/-- FULL_FUNCTION (R398, R400): stage 4, when the image passes its self-checks of stage 3. -/
def execFullFunction (s : State) : Host.Outcome State Fault Refusal :=
  .next (if s.dev.stage ≠ 3 then s
    else if s.dev.fw.sound then { s with dev := { s.dev with stage := 4, fw := { s.dev.fw with backoff := 1, retryAt := 0 } } }
    else s.failSelfCheck)

/-- COOLANT_OUT_OF_RANGE (R443): from stage 1 on, every cluster is held at level 0 and every ceiling halved. -/
def execCoolantOutOfRange (s : State) : Host.Outcome State Fault Refusal :=
  let d := s.dev
  if d.stage = 0 then .next { s with dev := { d with coolantBad := true, coolantSince := s.ns, coolantHold := true } }
  else .next { s with dev := { d with coolantBad := true, coolantSince := if d.coolantBad then d.coolantSince else s.ns,
                                      throttled := true }
                      clusters := s.clusters.map fun e => (e.1, e.2.holdLow) }

/-- COOLANT_IN_RANGE (R443): stage 0 may go on to stage 1 once it has stayed so for 5 s, or the throttle is lifted. -/
def execCoolantInRange (s : State) : Host.Outcome State Fault Refusal :=
  .next { s with dev := { s.dev with coolantBad := false, throttled := false,
                                     coolantSince := if s.dev.coolantBad then s.ns else s.dev.coolantSince } }

/-- COOLANT_LOSS_TIMEOUT (R443): out of range for 2 s in stage 1 or later, the device returns to stage 0. -/
def execCoolantLossTimeout (s : State) : Host.Outcome State Fault Refusal :=
  .next (if 0 < s.dev.stage ∧ s.dev.coolantBad = true ∧ s.dev.coolantSince + 2000000000 ≤ s.ns then s.toStage0 else s)

/-! ## Time -/

/-- PTP_MESSAGE (R441): the first lock steps the time base whatever the offset; later an offset above 1 µs steps it, a
smaller one is slewed by the rate that it shares with the lease clock; a step moves the next boundaries with it (R427).  The lease clock is never stepped (R139).
(Log entry 51, DEDUCED.)  Only the port that the site names, by default the management port, disciplines the clock; the others
timestamp (R440). -/
def execPtpMessage (port : Nat) (off : ClockOffset) (s : State) : Host.Outcome State Fault Refusal :=
  if port ≠ s.dev.site.ptpPort.getD s.dev.mgmt then .next s else
  let d := { s.dev with locked := true, everLocked := true, holdover := false }
  let stepIt := !s.dev.everLocked || decide (1000 < off.behind) || decide (1000 < off.ahead)
  let ptp := s.ptp + off.behind - off.ahead
  .next (if stepIt then { s with dev := { d with hallNext := nextBoundary d.site ptp, windowAt := ptp / 1000000 }, ptp := ptp }
    else { s with dev := d })

/-- PTP_HOLDOVER (R441). (Log entry 51, DEDUCED.) -/
def execPtpHoldover (s : State) : Host.Outcome State Fault Refusal :=
  .next { s with dev := { s.dev with holdover := s.dev.everLocked, locked := false } }

/-! ## Moving pages off stacks -/

/-- Insert a range, the larger first. -/
def insertRange (x : Nat × Nat) : List (Nat × Nat) → List (Nat × Nat)
  | [] => [x]
  | y :: r => if y.2 < x.2 then x :: y :: r else y :: insertRange x r

/-- The pages in use of a partition that a test picks: leaf pages, larger first, then the 64 KiB frames of tables, each
range once. -/
def State.pagesIn (s : State) (tag : Nat) (pick : Nat → Bool) : List (Nat × Nat) :=
  let frames := (s.inUseBy tag).map fun r => if r.2 < 65536 then (r.1 / 65536 * 65536, 65536) else r
  let sorted := (frames.filter fun r => pick r.1).foldl (fun l r => insertRange r l) []
  sorted.foldl (fun l r => if l.any fun x => overlap r.1 r.2 x.1 x.2 then l else l ++ [r]) []

/-! ## Reforge and fences -/

/-- The stack of a fenced unit, when it is one. -/
def stackOfUnit (u : Option Nat) : Option Nat := match u with
  | some w => if w % 256 = 4 then some (w / 256) else none
  | none => none

/-- An address lies in the save reserve of a run that starts at a slice (R369; log entry 24, DEDUCED). -/
def inReserveOf (first pa : Nat) : Bool := decide ((first + 1) * 2 ^ 36 - 2 ^ 31 ≤ pa) && decide (pa < (first + 1) * 2 ^ 36)

/-- An address must be left by a reforge: on a stack that departs, or where the new run keeps its save reserve. -/
def Part.leaves (p : Part) (r : ReforgeState) (pa : Nat) : Bool :=
  let st := pa / 2 ^ 36
  p.owns st && ((!(decide (r.first ≤ st) && decide (st < r.first + r.size))) || stackOfUnit r.fenceUnit == some st ||
    (r.first != p.first && inReserveOf r.first pa))

/-- Where the pages in use on departing stacks go: free frames of the remaining stacks and of the windows (R373, R374). -/
def State.reforgePlan (s : State) (tag : Nat) (r : ReforgeState) : Option (List ((Nat × Nat) × Nat)) :=
  let p := s.part tag
  s.placePages tag (fun n => s.dramSpaces tag n ++ s.windowSpaces tag n) (fun a => !p.leaves r a) (s.pagesIn tag (p.leaves r))
    (s.inUseBy tag)

/-- A core keeps its place in a reforge. -/
def ReforgeState.keeps (r : ReforgeState) (core : Nat) : Bool :=
  decide (r.first ≤ coreSlice core) && decide (coreSlice core < r.first + r.size) && !(r.fenceUnit == some (unitWord 0 core)) &&
    !r.stop

/-- A card goes back to the head of its chain (R206, R397).  Its job keeps its number and its place: the edges into it stand, and jobs
accepted until it is accepted again are ordered after it. -/
def State.giveBack (s : State) (j : Job) : State :=
  match tget? s.chains j.chain with
  | none => s
  | some c =>
    let k : Card := { j.given with card := j.card, seq := j.seq, level := j.level, job := some j.id }
    let s1 : State := { s with chains := tput s.chains j.chain { c with cards := k :: c.cards } }.setJob { j with back := true }
    match s.blockBad c, s1.blockLook c with
    | false, some (e, t) =>
      let head := s.blockField c 0 8
      let u := (({ st := t } : Mover).write c.ctx j.level j.card (bytesOfNat 8 head)).st
      let v := if head = 0 then (u.storeAt c.ctx e (c.addr + 8) (bytesOfNat 8 j.card)).1 else u
      (v.storeAt c.ctx e c.addr (bytesOfNat 8 j.card)).1
    | _, _ => s1

/-- A ladle is fenced: the jobs it has accepted and not started return to their chains in order, and a started one ends with
STATUS 1 (R397). -/
def State.fenceLadle (s : State) (l : Nat) : State :=
  let mine (j : Job) : Bool := j.ladle == l && j.status.isNone && !j.back
  let s1 : State := { s with jobs := s.jobs.map fun j => if mine j && j.started then { j with invalid := some 1 } else j }
  (s1.jobs.filter fun j => mine j && !j.started).foldr (fun j (st : State) => st.giveBack j) s1

/-- Begin a reforge or fence: its stage phase, and quiesce, which saves the teams of departing cores (R374, R397).
(Log entry 53, DEDUCED.) -/
def State.beginReforge (s : State) (tag : Nat) (r : ReforgeState) : State :=
  let p := s.part tag
  let s1 := s.setPart tag { p with reforge := some r }
  let ts := (s1.teams.filter fun e => e.2.part == tag && e.2.life == .resident && !r.keeps e.2.core).map (·.1)
  let s2 := ts.foldl (fun (st : State) t => if (st.team t).stopping.isSome then st else st.stopTeam t (.save .reforge)) s1
  match r.fenceUnit with
  | some u => if u % 256 = 2 then s2.fenceLadle (u / 256) else s2
  | none => s2

/-- A UNIT word names a unit of the device (R434). -/
def unitOk (u : Nat) : Bool :=
  decide (u < 2 ^ 24) && (match u % 256 with
    | 0 => decide (u / 256 < 384)
    | 1 => decide (u / 256 < 96)
    | 2 => decide (u / 256 < 48)
    | 3 | 4 => decide (u / 256 < 12)
    | 5 => decide (u / 256 < 4)
    | _ => false)

/-- Begin the fence of a unit of a partition (R397): without a core left, or with pages that fit nowhere, the partition
will be stopped. -/
def State.beginFence (s : State) (tag u : Nat) (sess : Option Nat) : State :=
  let p := s.part tag
  let r : ReforgeState := { size := p.size, first := p.first, fenceUnit := some u, sess := sess }
  let cores := (s.coresOf p).filter fun c => u != unitWord 0 c
  s.beginReforge tag { r with stop := cores.isEmpty || (s.reforgePlan tag r).isNone }

/-- A fence of a unit that Hearth begins (R397): in every partition the unit belongs to, after a reforge that is under way there;
a unit of no partition is fenced at once. -/
def State.hearthFence (s : State) (u : Nat) : State :=
  if !unitOk u || s.dev.fenced.contains u then s
  else match s.unitParts u with
    | [] => s.fenceAlone u
    | l => l.foldl (fun (st : State) tag =>
      let p := st.part tag
      match p.reforge with
      | none => st.beginFence tag u none
      | some r => if r.fenceUnit = some u ∨ p.fenceQueue.contains u then st
        else st.setPart tag { p with fenceQueue := p.fenceQueue ++ [u] }) s

/-- A word of memory stands in a unit's store: on the DRAM stack, or at home in the L2 slice. -/
def State.inUnit (s : State) (u w : Nat) : Bool :=
  match u % 256 with
  | 1 => (s.l2At (w * 8)).2 == u / 256 && (s.l2At (w * 8)).1.isSome
  | 4 => w * 8 / 2 ^ 36 == u / 256
  | _ => false

/-- UNIT_FENCE (R397): Hearth fences a failed unit: a reforge of its partition without it.  The words of an L2 slice or stack that
can no longer be read arrive poisoned. -/
def execUnitFence (f : UnitLoss) (s : State) : Host.Outcome State Fault Refusal :=
  if !unitOk f.unit || s.dev.fenced.contains f.unit then .next s
  else
    let words := f.lost.filter fun w => s.inUnit f.unit w
    let m := words.foldl (fun (m : Memory) w => m.poisonRange (w * 8) 8) s.mem
    let s1 : State := { s with mem := m }
    .next ((if words.isEmpty then s1 else s1.countErrors (s.unitParts f.unit).head? f.unit 0 words.length).hearthFence f.unit)

/-- The stripes of the windows that lie behind a port (R438, R439), each with the partition of its window. -/
def deadBehind (ws : List Window) (port : Nat) : List (Nat × Dead) :=
  ws.flatMap fun w => (w.ports.zipIdx.filter fun p => p.1 == port).map fun p =>
    (w.tag, { base := w.base, size := w.size, ways := w.ports.length, way := p.2 })

/-- CXL_LINK_FAIL (R396, R438): the port is fenced, if it is not already, and the bytes behind it read as poison from then on. -/
def execCxlLinkFail (port : Nat) (s : State) : Host.Outcome State Fault Refusal :=
  let u := unitWord 5 port
  if s.dev.stage < 3 ∨ 4 ≤ port then .next s
  else
    let ds := (deadBehind s.dev.windows port).filter fun d => !s.mem.dead.contains d.2
    let s1 : State := { s with mem := { s.mem with dead := s.mem.dead ++ ds.map (·.2) } }
    let s2 := ds.foldl (fun (st : State) d => st.countErrors (some d.1) u 0 (d.2.size / d.2.ways / 8)) s1
    .next (s2.hearthFence u)

/-- DRAM_SCRUB (R395 to R397): corrected words are written back, uncorrectable ones (named by address / 8) poisoned, and all
are counted, with the errors that other stores have met; a unit whose corrected events exceed the site's threshold in one second is
fenced. -/
def execDramScrub (stack corrected : Nat) (finds : ScrubFinds) (s : State) : Host.Outcome State Fault Refusal :=
  let words := finds.bad.filter fun i => i * 8 / 2 ^ 36 == stack
  let u := unitWord 4 stack
  let s1 := s.countErrors ((s.partOf stack).map (·.1)) u 0 (corrected + words.length)
  let s2 : State := { s1 with mem := words.foldl (fun (m : Memory) i => m.poisonRange (i * 8) 8) s1.mem }
  let s3 := finds.errs.foldl (fun (st : State) e => st.softError e) s2
  let fixed := (u, corrected) :: finds.errs.filterMap SoftError.fixed
  let s4 := fixed.foldl (fun (st : State) e => st.noteCorrected e.1 e.2) s3
  .next (fixed.foldl (fun (st : State) e => if st.overLimit e.1 then st.hearthFence e.1 else st) s4)

/-- No team of the partition stands on a core that departs, and no access in flight stands where a departing stack ends: not on a page
that moves, nor on a frame that no leaf maps any more (R374, R376). -/
def State.quiesced (s : State) (tag : Nat) (r : ReforgeState) (plan : List ((Nat × Nat) × Nat)) : Bool :=
  !(s.teams.any fun e => e.2.part == tag && e.2.life == .resident && !r.keeps e.2.core) &&
    !(plan.any fun q => s.pageBusy q.1) && !s.busyAt fun a _ => (s.part tag).leaves r a

/-- No TLB keeps a translation of a partition's contexts (R374, R376). -/
def State.dropTlbs (s : State) (tag : Nat) : State :=
  let own (k : Nat) : Bool := (s.ctx k).part == tag
  { s with
    cores := s.cores.map fun e =>
      (e.1, { e.2 with tlb := e.2.tlb.filter fun x => !own x.ctx, mid := e.2.mid.filter fun x => !own x.ctx })
    clusters := s.clusters.map fun e =>
      (e.1, { e.2 with tlb := e.2.tlb.filter fun x => !own x.ctx, mid := e.2.mid.filter fun x => !own x.ctx }) }

/-- REFORGE_TICK (R342, R374, R375): pages have left the departing stacks, every table takes the new layout version, the
rotation is 0 again, and the forwarding window opens. (Log entry 53, DEDUCED.) -/
def execReforgeTick (tag : Nat) (s : State) : Host.Outcome State Fault Refusal :=
  let p := s.part tag
  match p.reforge with
  | none => .next s
  | some r =>
    let plan := s.reforgePlan tag r
    let moves := plan.getD []
    if r.ticked ∨ !s.quiesced tag r moves then .next s
    else
      let old := s.l2Of p
      let s1 := (s.movePages tag moves).dropTlbs tag
      let s2 := match r.fenceUnit with
        | some u => s1.fence1 u
        | none => s1
      let p1 := s2.part tag
      let leaving := p1.slices.filter fun i => !(decide (r.first ≤ i) && decide (i < r.first + r.size))
      let s2b := leaving.foldl (fun (st : State) i => st.setRail i { st.rail i with last := some tag }) (s2.noteRho tag p1.rho)
      let s3 := s2b.setPart tag
        { p1 with first := r.first, size := r.size, version := p1.version + 1, rho := 0, window := true, oldHome := some old,
                  start := if r.first = p1.first then p1.start else 32 * r.first,
                  reforge := some { r with ticked := true, stop := r.stop || plan.isNone, was := (p.first, p.size) } }
      -- the lines stand at their new homes, which hold no more than an L2 slice does (R13, R171)
      -- tokens that the new size adds go to the teams that wait (R416)
      .next ((s3.trimSlices tag).grantTokens tag p1.tokenQueue.length)

/-- What a departing core keeps: its level, which its rail lowers in steps as any other's (R405, R410). -/
def Core.tapering (c : Core) : Core :=
  { level := c.level, needSince := c.needSince, excessSince := c.excessSince, overSince := c.overSince }

/-- Zero what departs: cores, clusters and stacks of slices that the partition no longer holds (R374).  Clusters keep their permits
(R419), and what belongs to the rail and its clocks stays, for no reforge moves a boundary or a window: levels, limits, the running coal
interval, and the slot cycles of the running energy interval (R377, R405, R410, R411). (Log entry 48, DEDUCED.) -/
def State.zeroSlice (s : State) (i : Nat) : State :=
  { s with
    mem := s.mem.zero (i * 2 ^ 36) (2 ^ 36)
    owners := s.owners.filter fun e => e.1 / 2 ^ 20 != i
    lineG := s.lineG.filter fun e => e.1 / 2 ^ 29 != i
    bankMark := s.bankMark.filter fun e => e.1 / 128 != i
    cores := (s.cores.map fun e => if coreSlice e.1 = i then (e.1, e.2.tapering) else e).filter fun e => !(coreSlice e.1 == i && e.2 == {})
    clusters := s.clusters.map fun e => if sliceOf e.1 = i then (e.1, { e.2 with tlb := [], mid := [], ic := [] }) else e }

/-- The body of a DONE event (R435). -/
def doneBody (r : ReforgeState) : List Byte :=
  bytesOfNat 1 (if r.fenceUnit.isSome then 1 else 0) ++ bytesOfNat 1 (if r.stop then 1 else 0) ++ bytesOfNat 2 0 ++
    bytesOfNat 4 (r.fenceUnit.getD 0)

/-- Stop a partition: its contexts are reported failed, its teams are saved, and it runs nothing further (R397). -/
def State.stopPart (s : State) (tag : Nat) : State :=
  let s1 : State := { s.setPart tag { s.part tag with stopped := true } with
    ctxs := s.ctxs.map fun e => if e.2.part = tag then (e.1, { e.2 with failed := true }) else e }
  ((s1.teams.filter fun e => e.2.part == tag && e.2.life == .resident && e.2.stopping.isNone).map (·.1)).foldl
    (fun (st : State) t => st.stopTeam t (.save .ready)) s1

/-- REFORGE_SETTLE_END (R374, R375, R397, R435): every line stands at its new home with its G, the window closes, departing
slices are zeroed, and the end is reported. -/
def execReforgeSettleEnd (tag : Nat) (s : State) : Host.Outcome State Fault Refusal :=
  let p := s.part tag
  match p.reforge with
  | none => .next s
  | some r =>
    if !r.ticked then .next s
    else
      let old := p.oldHome.getD []
      -- an evicted line's G stood in its old bank's mark: every new bank takes the greatest
      let top := s.bankMark.foldl (fun n e => if old.contains (e.1 / 16) then max n e.2 else n) 0
      let banks := (s.l2Of p).flatMap fun j => (List.range 16).map fun b => 16 * j + b
      let marks := if top = 0 ∨ s.l2Of p = old then s.bankMark
        else banks.foldl (fun t b => tput t b (max top (tget t b 0))) s.bankMark
      let s1 : State := { s with bankMark := marks, dev := { s.dev with endedEvent := true } }
      let gone := (List.range 12).filter fun i => decide (r.was.1 ≤ i) && decide (i < r.was.1 + r.was.2) && !p.owns i
      let s2 := gone.foldl (fun (st : State) i => st.zeroSlice i) s1
      let s3 := s2.setPart tag { s2.part tag with window := false, oldHome := none, reforge := none, endedEvent := true }
      let s4 := if r.stop then s3.stopPart tag
        -- a stopped partition runs again once a reforge has put it on healthy slices (R397)
        else if r.fenceUnit.isNone then s3.setPart tag { s3.part tag with stopped := false }
        else s3
      let s5 := match r.sess with
        | some n => s4.sendEvent n 0x8003 (doneBody r)
        | none => match s4.hypSession tag with
          | some n => s4.sendEvent n 0x8003 (doneBody r)
          | none => s4
      -- a fence that Hearth has held back begins
      .next (match (s5.part tag).fenceQueue with
        | [] => s5
        | u :: rest => (s5.setPart tag { s5.part tag with fenceQueue := rest }).beginFence tag u none)

/-! ## The movement of a context -/

/-- The tenant sessions of a context close: they are inbound flows to it (R378, R434). -/
def State.closeTenants (s : State) (ck : Nat) : State :=
  let c := s.ctx ck
  { s with sessions := s.sessions.map fun e =>
      if e.2.role = 2 ∧ e.2.tag = c.part ∧ e.2.ctx = c.num then (e.1, { e.2 with isOpen := false, deferred := [] }) else e }

/-- Nothing of a context is on a core, in flight or with a ladle, and no inbound flow to it is open (R378). -/
def State.ctxStill (s : State) (ck : Nat) : Bool :=
  !(s.teams.any fun e => e.2.ctx == ck && (e.2.life == .resident || e.2.roundsOpen)) && !(s.ops.any fun o => o.ctx == ck) &&
    !(s.chains.any fun e => e.2.ctx == ck && s.waitingCard (s.ctx ck).part e.2) &&
    !(s.jobs.any fun j => j.ctx == ck && j.status.isNone && !j.back) && !s.inbound.any fun e => e.ctx == ck

/-- The feature vector of the device (R23): ARCHV, CLASS and bits 31:0. -/
def featureVector : Word := 0x011A000000003FFF

/-- The saved image of a context (R372). -/
def State.imageOf (s : State) (ck : Nat) : CtxImage :=
  { feature := featureVector
    ctx := { s.ctx ck with stopped := false, job := none }
    grids := s.grids.filter fun e => e.2.ctx == ck && !e.2.retired
    teams := (s.teams.filter fun e => e.2.ctx == ck).map fun e => (e.1, { e.2 with token := false })
    gangs := s.gangs.filter fun e => e.2.ctx == ck }

/-- CONTEXT_STOP (R378): every team of the context is saved and its tenant sessions close; once its jobs and inbound accesses have
ended its image stands. (Log entry 54, DEDUCED.) -/
def execContextStop (ctx : Nat) (s : State) : Host.Outcome State Fault Refusal :=
  if (tget? s.ctxs ctx).isNone || (s.ctx ctx).deleting then .next s
  else
    let c := s.ctx ctx
    let s1 := (s.setCtx ctx { c with stopped := true }).closeTenants ctx
    let ts := (s1.teams.filter fun e => e.2.ctx == ctx && e.2.life == .resident && e.2.stopping.isNone).map (·.1)
    let s2 := ts.foldl (fun (st : State) t => st.stopTeam t (.save .ready)) s1
    .next (if s2.ctxStill ctx then { s2 with images := tput s2.images ctx (s2.imageOf ctx) } else s2)

/-- The number a restored context takes: its own when free, else the lowest free. (Log entry 54, DEDUCED.) -/
def State.freeCtxNum (s : State) (tag num : Nat) : Option Nat :=
  if 0 < num ∧ (tget? s.ctxs (ctxKey tag num)).isNone then some num
  else ((List.range 63).map (· + 1)).find? fun n => (tget? s.ctxs (ctxKey tag n)).isNone

/-- A restored team enters a partition: a ticket that names another fault there is replaced by a fresh one (R389). (Log entry 54, DEDUCED.) -/
def State.enterTeam (s : State) (tk : Nat) (t : Team) : State :=
  s.setTeam tk { t with wake := match t.wake with
    | .ticket n => if (s.outstanding t.part).contains n then .ticket (s.newTicket t.part) else .ticket n
    | w => w }

/-- CONTEXT_RESTORE (R23, R378): the context is created from an image of an equal feature vector, and its teams are
re-queued; records take fresh keys. (Log entry 54, DEDUCED.) -/
def execContextRestore (tag image : Nat) (s : State) : Host.Outcome State Fault Refusal :=
  match tget? s.images image, tget? s.parts tag with
  | some im, some p =>
    match s.freeCtxNum tag im.ctx.num, decide (im.feature = featureVector) && decide (s.dev.stage = 4) && !p.stopped with
    | some num, true =>
      let ck := ctxKey tag num
      let b := s.nextKey
      let top := (im.grids.map (·.1) ++ im.teams.map (·.1) ++ im.gangs.map (·.1)).foldl max 0
      let c := im.ctx
      let grids := im.grids.map fun e => (e.1 + b, { e.2 with ctx := ck, part := tag, parent := e.2.parent.map (· + b), sess := none })
      let teams := im.teams.map fun e =>
        let x : Team := { e.2 with grid := e.2.grid + b, ctx := ck, part := tag, gangs := e.2.gangs.map (· + b),
                                   children := e.2.children.map fun q => (q.1, q.2 + b),
                                   oldChildren := e.2.oldChildren.map (· + b) }
        (e.1 + b, x)
      let gangs := im.gangs.map fun e =>
        let x : Gang := { e.2 with team := e.2.team + b, grid := e.2.grid + b, ctx := ck, part := tag }
        (e.1 + b, x)
      let s1 := s.setCtx ck { c with num := num, part := tag }
      .next { s1 with
        nextKey := b + top + 1
        grids := grids.foldl (fun t e => tput t e.1 e.2) s1.grids
        teams := (teams.foldl (fun (st : State) e => st.enterTeam e.1 e.2) s1).teams
        gangs := gangs.foldl (fun t e => tput t e.1 e.2) s1.gangs }
    | _, _ => .next s
  | _, _ => .next s

end Sys2Proof.Machine
end

