-- ==== Sys2Proof/Machine/System.lean ====
section
/-! DEFINITION. The fences (R149, R191), translation fences (R165, R166, R192), IFENCE (R193), TRAP and RTE (R390, R391), the
control and status registers (R358, R392), BOOST, EMBER and DRAWC (R414, R417, R418), and FENCE_LEASE_WAIT_END. -/

namespace Sys2Proof.Machine

/-! ## Fences -/

/-- Inbound writes to the gang's partition accepted before a point are not all performed and past their completion times
(R149). -/
def State.inboundPending (s : State) (upto : Nat) : Bool :=
  s.inbound.any fun i => i.part == s.g.part && decide (i.id < upto) && (!i.performed || decide (s.ns < i.comp))

/-- The release part of a fence (R149). (Log entry 27, DEDUCED.) -/
def State.fenceRelease (s : State) (scope : Nat) : R State := do
  if scope = 0 then pure s
  else if scope = 1 then do
    s.releaseT
    pure s
  else s.releaseP

/-- The acquire part of a fence (R149). -/
def State.fenceAcquire (s : State) (scope : Nat) : R State := do
  if scope = 0 then pure s
  else if scope = 1 then pure s.acquireT
  else if scope = 2 then pure s.acquireP
  else
    let upto := match s.g.wait with
      | .inbound n => n
      | _ => s.nextKey
    s.waitFor (.inbound upto) (s.inboundPending upto)
    pure s.acquireP

/-- FENCE (R149, R191): kinds 0 acquire, 1 release, 2 and 3 release then acquire. (Log entry 27, DEDUCED.) -/
def execFence (kind scope : Nat) (s : State) : Host.Outcome State Fault Refusal :=
  s.conclude do
    s.accept { m := false, z := false }
    s.waitFor .fence s.loadsPending
    let s1 ← if kind = 0 then pure s else s.fenceRelease scope
    if kind = 1 then pure s1 else s1.fenceAcquire scope

/-- FENCE_LEASE_WAIT_END (R149): the lease clock has reached what a gang's release waits out, which is cleared; the gang's fence goes
on. -/
def execFenceLeaseWaitEnd (gang : Nat) (s : State) : Host.Outcome State Fault Refusal :=
  let g := s.gang gang
  .next (if g.wait = .lease ∧ g.lastPend ≤ s.ns then s.setGang gang { g with pend := none, seenPend := none } else s)

/-- TFENCE (R165): every earlier store of the gang is acknowledged; walks always read the banks. -/
def execTfence (_scope : Nat) (s : State) : Host.Outcome State Fault Refusal :=
  s.conclude do
    s.accept { m := false, z := false }
    s.waitFor .fence s.ownAcks
    pure s

/-- The cores that a TLBI or IFENCE scope reaches: the issuing core alone, or the whole partition (R192, R193). -/
def State.reached (s : State) (scope core : Nat) : Bool :=
  if scope ≤ 1 then core == s.g.core else (s.part s.g.part).owns (coreSlice core)

/-- The clusters that a TLBI or IFENCE scope reaches. -/
def State.reachedCluster (s : State) (scope k : Nat) : Bool :=
  if scope ≤ 1 then k == clusterOf s.g.core else (s.part s.g.part).owns (sliceOf k)

/-- A TLBI removes the context's translations, or those of every context of the partition (R192). -/
def State.tlbiCtx (s : State) (mode ctx : Nat) : Bool :=
  if mode = 2 then (s.ctx ctx).part == s.g.part else ctx == s.g.ctx

/-- Accesses in flight that may use a translation that a TLBI removes (R166): those of cores in scope, and at partition
scope those accepted from outside. -/
def State.tlbiBusy (s : State) (mode scope : Nat) : Bool :=
  (s.ops.any fun o => s.reached scope o.core && s.tlbiCtx mode o.ctx && !o.kind.onSpad && o.kind.isAccess &&
    o.items.any fun i => !i.done) ||
  (s.cores.any fun c => s.reached scope c.1 && c.2.freq.any fun r => s.tlbiCtx mode r.ctx && !r.walk) ||
  (decide (2 ≤ scope) && s.inbound.any fun e => !e.performed && s.tlbiCtx mode e.ctx)

/-- TLBI (R166, R192). -/
def execTlbi (a mode scope : Nat) (s : State) : Host.Outcome State Fault Refusal :=
  s.conclude do
    s.accept { m := false, z := false }
    if s.g.level < (if mode = 2 then 2 else 1) then s.trapR 0x10 0
    else
      let va ← if mode = 0 then s.sget a else pure 0
      s.waitFor .fence (s.tlbiBusy mode scope)
      let keep (e : TlbEntry) : Bool := !(s.tlbiCtx mode e.ctx && (mode != 0 || e.covers e.ctx va.toNat))
      let keepMid (e : MidEntry) : Bool := !(s.tlbiCtx mode e.ctx && (mode != 0 || e.covers e.ctx va.toNat))
      let cores := s.cores.map fun c =>
        if s.reached scope c.1 then (c.1, { c.2 with tlb := c.2.tlb.filter keep, mid := c.2.mid.filter keepMid }) else c
      let clusters := s.clusters.map fun c =>
        if s.reachedCluster scope c.1 then (c.1, { c.2 with tlb := c.2.tlb.filter keep, mid := c.2.mid.filter keepMid }) else c
      pure { s with cores := cores, clusters := clusters }

/-- IFENCE (R193): the lines of the instruction caches in scope go; the gang's clause goes on with what it fetches. -/
def execIfence (scope : Nat) (s : State) : Host.Outcome State Fault Refusal :=
  s.conclude do
    s.accept { m := false, z := false }
    s.waitFor .fence s.ownAcks
    let cores := s.cores.map fun c => if s.reached scope c.1 then (c.1, { c.2 with l0 := [] }) else c
    let clusters := s.clusters.map fun c => if s.reachedCluster scope c.1 then (c.1, { c.2 with ic := [] }) else c
    pure { s with cores := cores, clusters := clusters }

/-! ## Traps -/

/-- TRAP (R391). -/
def execTrap (imm : Nat) (s : State) : Host.Outcome State Fault Refusal :=
  s.conclude do
    s.accept { m := false, z := false }
    s.trapR 0x11 (BitVec.ofNat 64 imm)

/-- RTE (R390); it is its clause's last word, so the registers its clause names are staged for the next one (R70). -/
def execRte (s : State) : Host.Outcome State Fault Refusal :=
  let r : R State := do
    s.accept { m := false, z := false }
    if s.g.level < 1 then s.trapR 0x10 0
    else if !s.g.inh then s.trapR 0x01 0
    else
      s.waitFor .rte (!s.drained s.cur)
      pure (s.setG s.g.returnTrap)
  match s.g.cl, r with
  | some c, .ok t => .next (t.setG { t.g with staged := c.staging }).issued
  | _, x => s.conclude x

/-! ## Control and status registers (R392) -/

/-- The indices of an assigned register; none when the number is unassigned. -/
def csrCount (n : Nat) : Option Nat :=
  if n ≤ 0x0C ∨ (0x10 ≤ n ∧ n ≤ 0x17) ∨ (0x20 ≤ n ∧ n ≤ 0x26) then some 1
  else if n = 0x27 then some 32
  else if n = 0x28 ∨ n = 0x29 then some 4
  else none

/-- The level that may read a register (R358, R392). (Log entry 59, DEDUCED.) -/
def csrReadLevel (n : Nat) : Nat :=
  if n = 0x11 ∨ n = 0x14 ∨ n = 0x15 ∨ n = 0x17 then 2
  else if n = 0x10 ∨ n = 0x12 ∨ n = 0x16 ∨ 0x20 ≤ n then 1 else 0

/-- The level that may write a register; none when it is read-only (R358, R392). -/
def csrWriteLevel (n : Nat) : Option Nat :=
  match n with
  | 0x05 | 0x06 => some 0
  | 0x07 | 0x0A | 0x10 | 0x20 | 0x22 | 0x26 | 0x27 | 0x28 => some 1
  | 0x11 | 0x12 | 0x13 | 0x14 | 0x15 | 0x17 => some 2
  | _ => none

/-- The trap-frame registers, which are written only while INH is 1 (R392). -/
def csrFramed (n : Nat) : Bool := n == 0x22 || n == 0x26 || n == 0x27

/-- The value sets no reserved bit of a register and keeps its stated range (R143, R227, R236, R335, R358, R392). -/
def csrValueOk (n : Nat) (x : Word) : Bool :=
  let within (hi lo : Nat) : Bool := x.toNat % 2 ^ lo == 0 && decide (x.toNat < 2 ^ (hi + 1))
  match n with
  | 0x05 => within 1 0
  | 0x06 => within 7 0
  | 0x07 => x.toNat % 256 == 0 && decide (256 ≤ x.toNat) && decide (x.toNat ≤ 65536)
  | 0x0A | 0x12 => within 15 0
  | 0x10 | 0x11 => within 51 11
  | 0x13 | 0x26 => within 31 0
  | 0x14 => within 55 12
  | 0x15 => within 47 12
  | 0x17 => within 51 6
  | 0x20 => within 55 3
  | 0x22 => within 60 3
  | 0x27 => within 55 0
  | _ => true

/-- The capability vector of the device (R22, R379), with the stepping in bits 47:44. -/
def State.capvec (s : State) (mask : BitVec 32) : Nat :=
  0x011A000000000000 + s.dev.stepping * 2 ^ 44 + (0x3FFF &&& mask.toNat)

/-- The value of a register (R392). -/
def State.csr (s : State) (n i : Nat) : Word :=
  let g := s.g
  let c := s.ctx g.ctx
  let p := s.part g.part
  match n with
  | 0x00 => BitVec.ofNat 64 (s.capvec c.featmask)
  | 0x01 => BitVec.ofNat 64 s.ptp
  | 0x02 => BitVec.ofNat 64 g.level
  | 0x03 => BitVec.ofNat 64 (c.num + g.part * 256)
  | 0x04 => g.slip
  | 0x05 => BitVec.ofNat 64 g.fround
  | 0x06 => BitVec.zeroExtend 64 c.xftrap
  | 0x07 => BitVec.ofNat 64 c.leaselen
  | 0x08 => BitVec.ofNat 64 g.va
  | 0x09 => BitVec.ofNat 64 p.ageCap
  | 0x0A => BitVec.ofNat 64 c.swapthr
  | 0x0B => g.seed
  | 0x0C => g.ctr
  | 0x10 => c.ptbase
  | 0x11 => c.s2base
  | 0x12 => BitVec.ofNat 64 c.tslice
  | 0x13 => BitVec.zeroExtend 64 c.featmask
  | 0x14 => c.savebase
  | 0x15 => c.savelen
  | 0x16 => c.energy
  | 0x17 => c.dlog
  | 0x20 => c.tvec
  | 0x21 => BitVec.ofNat 64 g.frame.cause
  | 0x22 => g.frame.pos
  | 0x23 => BitVec.zeroExtend 64 g.frame.mask
  | 0x24 => g.frame.addr
  | 0x25 => BitVec.zeroExtend 64 g.frame.info
  | 0x26 => BitVec.zeroExtend 64 g.frame.act
  | 0x27 => if h : i < 32 then g.frame.pcv[i] else 0
  | 0x28 => if h : i < 4 then g.frame.scr[i] else 0
  | 0x29 => if h : i < 4 then p.serr[i] else 0
  | _ => 0

/-- A context's slice has been set: with 0 its clocks are gone, and else they run on every core where it has a resident team
(R370). -/
def State.sliceClocks (s : State) (ck : Nat) : State :=
  if (s.ctx ck).tslice = 0 then { s with cores := s.cores.map fun e => (e.1, { e.2 with slices := tdel e.2.slices ck }) }
  else s.cores.foldl (fun (st : State) e => if st.ctxAbsent e.1 ck then st else st.startSlice e.1 ck) s

/-- A register takes a value (R392). -/
def State.setCsr (s : State) (n i : Nat) (x : Word) : State :=
  let g := s.g
  let c := s.ctx g.ctx
  let f := g.frame
  let putC (c1 : Ctx) : State := s.setCtx g.ctx c1
  let putF (f1 : TrapFrame) : State := s.setG { g with frame := f1 }
  match n with
  | 0x05 => s.setG { g with fround := x.toNat }
  | 0x06 => putC { c with xftrap := BitVec.truncate 8 x }
  | 0x07 => putC { c with leaselen := x.toNat }
  | 0x0A => putC { c with swapthr := x.toNat }
  | 0x10 => putC { c with ptbase := x }
  | 0x11 => putC { c with s2base := x }
  | 0x12 => (putC { c with tslice := x.toNat }).sliceClocks g.ctx
  | 0x13 => putC { c with featmask := BitVec.truncate 32 x }
  | 0x14 => putC { c with savebase := x }
  | 0x15 => putC { c with savelen := x }
  | 0x17 => putC { c with dlog := x }
  | 0x20 => putC { c with tvec := x }
  | 0x22 => putF { f with pos := x }
  | 0x26 => putF { f with act := BitVec.truncate 32 x }
  | 0x27 =>
    -- the entry of a lane that was not live at the trap keeps reading all ones
    if h : i < 32 then (if f.pcv[i] = 0xFFFFFFFFFFFFFFFF then s else putF { f with pcv := f.pcv.set i x }) else s
  | 0x28 => putF { f with scr := f.scr.setIfInBounds i x }
  | _ => s

/-- The number names a register and the index is one of it (R392). (Log entry 59, DEDUCED.) -/
def csrKnown (n i : Nat) : Bool :=
  match csrCount n with
  | some k => decide (i < k)
  | none => false

/-- CSRR (R392, R393). -/
def execCsrr (d n i : Nat) (s : State) : Host.Outcome State Fault Refusal :=
  s.conclude do
    s.accept { m := false, z := false }
    if !csrKnown n i then s.undefWord
    else if s.g.level < csrReadLevel n then s.trapR 0x10 (BitVec.ofNat 64 n)
    else s.sput d (s.csr n i)

/-- CSRW (R392, R393). (Log entry 58, DEDUCED.) -/
def execCsrw (a n i : Nat) (s : State) : Host.Outcome State Fault Refusal :=
  s.conclude do
    s.accept { m := false, z := false }
    match csrWriteLevel n with
    | none => s.undefWord
    | some l =>
      if !csrKnown n i || (csrFramed n && !s.g.inh) then s.undefWord
      else if s.g.level < l then s.trapR 0x10 (BitVec.ofNat 64 n)
      else
        let x ← s.sget a
        if csrValueOk n x then pure (s.setCsr n i x) else s.undefWord

/-! ## Load words -/

/-- BOOST (R418); undefined with BOOST masked (R379). -/
def execBoost (n : Nat) (s : State) : Host.Outcome State Fault Refusal :=
  s.conclude do
    s.accept { m := false, z := false }
    if (s.ctx s.g.ctx).featmask.getLsbD 9 then pure (s.setG { s.g with boostReq := n }) else s.undefWord

/-- EMBER registers a launch record (R414); undefined with EMBC masked (R379). -/
def execEmber (d a : Nat) (s : State) : Host.Outcome State Fault Refusal :=
  s.conclude do
    s.accept { m := false, z := false }
    if !(s.ctx s.g.ctx).featmask.getLsbD 10 then s.undefWord
    else
      let va ← s.sget a
      s.ready (s.sBusy d)
      let r ← s.readBlock va.toNat 8
      s.blockPoison r.2 va
      let rec_ := recordOf (wordAt r.2)
      let c := r.1.ctx r.1.g.ctx
      let c9 := c.refusal rec_ (s.g.level == 0) false false
      let code := if 0 < c9 ∧ c9 ≤ 9 then c9 else if !rec_.restart then 12 else if 8 ≤ c.embers.length then 13 else 0
      match code, firstFree c.embers 0 8 with
      | 0, some i => (r.1.setCtx r.1.g.ctx { c with embers := tput c.embers i rec_ }).sput d (BitVec.ofNat 64 i)
      | _, _ => r.1.sput d (BitVec.ofNat 64 (2 ^ 63 + code))

/-- EMBER.off withdraws a registration (R414). -/
def execEmberOff (a : Nat) (s : State) : Host.Outcome State Fault Refusal :=
  s.conclude do
    s.accept { m := false, z := false }
    if !(s.ctx s.g.ctx).featmask.getLsbD 10 then s.undefWord
    else
      let x ← s.sget a
      let c := s.ctx s.g.ctx
      pure (s.setCtx s.g.ctx { c with embers := tdel c.embers (x.toNat % 8) })

/-- DRAWC (R417). -/
def execDrawc (c : Nat) (s : State) : Host.Outcome State Fault Refusal :=
  s.conclude do
    s.accept { m := false, z := false }
    pure (s.setG { s.g with drawDefault := c })

end Sys2Proof.Machine
end

