-- ==== Sys2Proof/Machine/Endpoint.lean ====
section
/-! DEFINITION. The commands of the endpoint (R432 to R436): HELLO, HEALTH, RESET, IMAGE, REFORGE, FENCE, CTXNEW, CTXDEL, BIND,
RELEASE, WRITE, READ, LAUNCH, and a message that is none of these. -/

namespace Sys2Proof.Machine

/-! ## Sessions and replies -/

/-- A reply: its status in bits 7:0 and the code or stage in bits 15:8 (R432). -/
def State.reply (s : State) (m : Msg) (status code : Nat) (body : List Byte) : State :=
  s.send (.reply m.sess 1 m.op m.seq (status + 256 * code) body)

/-- A reply with STATUS 4, whose version field is the device's range (R399, R432). -/
def State.replyRange (s : State) (m : Msg) : State := s.send (.reply m.sess 0x0101 m.op m.seq 4 [])

/-- Put a session's record. -/
def State.setSession (s : State) (n : Nat) (x : Session) : State := { s with sessions := tput s.sessions n x }

/-- Answer a message with STATUS 4 and close its session (R399, R432). (Log entry 55, DEDUCED.) -/
def State.wrongVersion (s : State) (m : Msg) : State :=
  (s.setSession m.sess { src := m.src, isOpen := false, mismatch := true }).replyRange m

/-- Header and body have the form of R432: no status, no reserved bit, and LEN is the length of the body. -/
def formed (m : Msg) : Bool :=
  m.status == 0 && m.reserved == 0 && m.len == m.body.length && decide (m.len ≤ 65600)

/-- The context a session's accesses act in (R434). -/
def Session.key (x : Session) : Nat := ctxKey x.tag (if x.role = 2 then x.ctx else 0)

/-- The level at which a session acts (R434). -/
def Session.level (x : Session) : Nat := if x.role = 2 then 1 else 2

/-- A command on a session: role, then stage, then form; what fails has no effect (R432 to R434).  A command that is being
held back came on a port that answered. (Log entry 55, DEDUCED.) -/
def State.command (s : State) (m : Msg) (op : Nat) (roles : List Nat) (stage : Nat) (good : Bool)
    (act : Session → State) : Host.Outcome State Fault Refusal :=
  let held := (tget s.sessions m.sess {}).deferred.any fun q => q.2 == m
  .next (if !s.portAnswers m.port && !held then s
    else match tget? s.sessions m.sess with
      | none => s.wrongVersion m
      | some x =>
        if !x.isOpen then (if x.mismatch then s.replyRange m else s)
        else if m.ver ≠ 1 then s.wrongVersion m
        else if !roles.contains x.role then s.reply m 3 0 []
        else if s.dev.stage < stage then s.reply m 1 s.dev.stage []
        else if !(formed m) || m.op != op || !good then s.reply m 5 0 []
        else act x)

/-- A field of a message's body. -/
def msgNum (m : Msg) (off n : Nat) : Nat := fieldAt m.body off n

/-- HELLO (R399, R432 to R434). -/
def execHello (m : Msg) (s : State) : Host.Outcome State Fault Refusal :=
  let role := msgNum m 0 1
  let tag := msgNum m 1 1
  let ctx := msgNum m 2 1
  let c := s.ctx (ctxKey tag ctx)
  let granted : Bool := match role with
    | 0 => s.dev.site.allow.contains m.src
    | 1 => s.dev.site.allow.contains m.src && (tget? s.parts tag).isSome
    | _ => (tget? s.parts tag).isSome && decide (1 ≤ ctx) && decide (ctx ≤ 63) &&
        (tget? s.ctxs (ctxKey tag ctx)).isSome && !c.stopped && c.admission == BitVec.ofNat 64 (msgNum m 8 8)
  .next (if !s.portAnswers m.port || ((tget? s.sessions m.sess).isNone && !s.portOpens m.port) then s
    else match tget? s.sessions m.sess with
      | some x => if x.isOpen then s.reply m 5 0 [] else if x.mismatch then s.replyRange m else s
      | none =>
        if m.op ≠ 1 ∨ 1 < m.ver % 256 ∨ m.ver / 256 < 1 then s.wrongVersion m
        else if !(formed m) || m.body.length != 16 || decide (2 < role) || msgNum m 3 5 != 0 || (role != 2 && msgNum m 8 8 != 0) ||
          (role == 0 && tag != 0) || (role != 2 && ctx != 0) then s.reply m 5 0 []
        else if granted then
          (s.setSession m.sess { src := m.src, role := role, tag := tag, ctx := ctx }).reply m 0 0
            (bytesOfNat 8 (s.capvec 0xFFFFFFFF) ++ bytesOfNat 4 s.dev.stage ++ bytesOfNat 4 s.dev.site.device)
        else (s.setSession m.sess { src := m.src, role := role, tag := tag, ctx := ctx, isOpen := false }).reply m 3 0 [])

/-- The four soft-error counts of a unit (R396). -/
def State.unitCounts (s : State) (u : Nat) : Vector Nat 4 := tget s.dev.softUnits u (Vector.replicate 4 0)

/-- The fixed part of a HEALTH reply with the fence list (R434). -/
def State.health (s : State) : List Byte :=
  let fenced := (List.range 6).flatMap fun k => s.dev.fenced.filter fun u => u % 256 == k
  let sum (i : Fin 4) : Nat := (s.dev.softUnits.map fun e => e.2[i]).sum
  bytesOfNat 1 s.dev.stage ++ bytesOfNat 1 s.dev.coolantBad.toNat ++ bytesOfNat 2 fenced.length ++
    (s.dev.therm.temps.toList.flatMap fun t => bytesOfNat 1 (min t 255)) ++
    ((List.finRange 4).flatMap fun i => bytesOfNat 8 (sum i)) ++ fenced.flatMap fun u => bytesOfNat 4 u

/-- HEALTH (R433, R434). -/
def execHealth (m : Msg) (s : State) : Host.Outcome State Fault Refusal :=
  s.command m 0x0002 [0, 1, 2] 0 (m.body.isEmpty || (m.body.length == 4 && unitOk (msgNum m 0 4))) fun _ =>
    if m.body.isEmpty then s.reply m 0 0 s.health
    else s.reply m 0 0 ((s.unitCounts (msgNum m 0 4)).toList.flatMap fun n => bytesOfNat 8 n)

/-- RESET (R400, R434): the reply is sent before the reset begins. -/
def execReset (m : Msg) (s : State) : Host.Outcome State Fault Refusal :=
  s.command m 0x0003 [0] 0 m.body.isEmpty fun _ => (s.reply m 0 0 []).toStage0

/-- IMAGE (R398, R434): a part of the image; the image is stored once every byte has arrived. -/
def execImage (m : Msg) (s : State) : Host.Outcome State Fault Refusal :=
  let off := msgNum m 0 8
  let total := msgNum m 8 8
  let part := m.body.drop 16
  let fw := s.dev.fw
  s.command m 0x0004 [0] 4 (decide (17 ≤ m.body.length) && decide (m.body.length ≤ 65552)) fun _ =>
    if total < off + part.length ∨ (fw.total.any fun t => t != total) = true then s.reply m 2 1 []
    else
      let parts := (part.zipIdx).foldl (fun t b => tput t (off + b.2) b.1) fw.parts
      let fw1 : Firmware := { fw with parts := parts, total := some total, stored := parts.length == total }
      { s with dev := { s.dev with fw := fw1 } }.reply m 0 0 []

/-! ## Commands of the hypervisor session -/

/-- The runs of slices that are a partition's: its own, and the one that an accepted reforge is to give it, or that a ticked one has still to
zero (R364, R374, R376). (Log entry 53, DEDUCED.) -/
def Part.runs (p : Part) : List (Nat × Nat) :=
  (p.first, p.size) :: (match p.reforge with
    | none => []
    | some r => if r.ticked then [r.was] else [(r.first, r.size)])

/-- REFORGE (R373, R374): refused with the first of R373's conditions that holds, else begun. -/
def execReforge (m : Msg) (s : State) : Host.Outcome State Fault Refusal :=
  let size := msgNum m 0 1
  let first := msgNum m 1 1
  s.command m 0x0010 [1] 4 (m.body.length == 2) fun x =>
    let p := s.part x.tag
    let r : ReforgeState := { size := size, first := first, sess := some m.sess }
    let taken := s.parts.any fun e => e.1 != x.tag && e.2.runs.any fun r => overlap first size r.1 r.2
    let code :=
      if !legalRun size first then 1
      else if !overlap first size p.first p.size then 2
      else if taken then 3
      else if p.reforge.isSome then 4
      else if (s.reforgePlan x.tag r).isNone then 5
      else if s.dev.stage < 4 then 6
      else 0
    if code ≠ 0 then s.reply m 2 code [] else (s.reply m 0 0 []).beginReforge x.tag r

/-- Keep a command for later; `bound` tells the inbound writes that came before it. (Log entry 56, DEDUCED.) -/
def State.defer (s : State) (m : Msg) (bound : Nat) : State :=
  let x := tget s.sessions m.sess {}
  s.setSession m.sess { x with deferred := x.deferred ++ [(bound, m)] }

/-- Take a command out of those kept, with its bound; a new one has the next key. (Log entry 56, DEDUCED.) -/
def State.takeDeferred (s : State) (m : Msg) : State × Nat :=
  let x := tget s.sessions m.sess {}
  match x.deferred.find? fun q => q.2 == m with
  | some q => (s.setSession m.sess { x with deferred := x.deferred.erase q }, q.1)
  | none => (s, s.nextKey)

/-- FENCE (R397, R434): a fence is a reforge of the partition, so it waits for one that is under way. -/
def execFenceCmd (m : Msg) (s : State) : Host.Outcome State Fault Refusal :=
  let u := msgNum m 0 4
  s.command m 0x0011 [1] 4 (m.body.length == 4 && unitOk u) fun x =>
    let q := s.takeDeferred m
    if s.dev.fenced.contains u || !(s.unitParts u).contains x.tag then q.1.reply m 2 1 []
    else if (s.part x.tag).reforge.isSome then q.1.defer m q.2
    else (q.1.reply m 0 0 []).beginFence x.tag u (some m.sess)

/-- CTXNEW (R356, R434). -/
def execCtxnew (m : Msg) (s : State) : Host.Outcome State Fault Refusal :=
  let num := msgNum m 1 1
  s.command m 0x0012 [1] 4 (m.body.length == 16 && msgNum m 0 1 == 0 && decide (num ≤ 63) && msgNum m 2 6 == 0) fun x =>
    let free (n : Nat) : Bool := (tget? s.ctxs (ctxKey x.tag n)).isNone
    let got := if num = 0 then ((List.range 63).map (· + 1)).find? free else if free num then some num else none
    match got with
    | none => s.reply m 2 1 []
    | some n =>
      (s.setCtx (ctxKey x.tag n) { num := n, part := x.tag, admission := BitVec.ofNat 64 (msgNum m 8 8) }).reply m 0 0 (bytesOfNat 1 n)

/-- A frame belongs to a partition: it lies on one of its stacks or in one of its windows. -/
def State.frameOf (s : State) (tag frame : Nat) : Bool :=
  (s.part tag).owns (frame / 2 ^ 20) || s.inWindow tag (frame * 65536)

/-- The key of no context: what a deleted context leaves behind is marked with it (R367, R368). -/
def deadKey : Nat := 2 ^ 16

/-- What a deleted context left on a core belongs to no context any more. -/
def Core.forget (c : Core) (ck : Nat) : Core :=
  let old {α : Type} (t : Tbl (Nat × α)) : Tbl (Nat × α) := t.map fun e => if e.2.1 = ck then (e.1, (deadKey, e.2.2)) else e
  { c with
    l1 := c.l1.filter fun x => x.ctx != ck
    tlb := c.tlb.filter fun x => x.ctx != ck
    mid := c.mid.filter fun x => x.ctx != ck
    freq := c.freq.filter fun x => x.ctx != ck
    luts := tdel c.luts ck
    slices := tdel c.slices ck
    spadOwner := c.spadOwner.map fun e => if e.2 = ck + 1 then (e.1, deadKey + 1) else e
    leftAcc := old c.leftAcc
    leftBar := old c.leftBar
    leftHandle := old c.leftHandle }

/-- The teams of a context are discarded: those on a core at their next group boundary, the others at once, with every COPY
round on their handles (R434). (Log entry 57, DEDUCED.) -/
def State.discardTeams (s : State) (ck : Nat) : State :=
  let s1 : State := { s with
    teams := s.teams.map fun e =>
      if e.2.ctx = ck then (e.1, { e.2 with handles := e.2.handles.map fun h => (h.1, ({} : Handle)) }) else e
    ops := s.ops.filter fun o => !(o.ctx == ck && (match o.kind with
      | .copy _ => true
      | _ => false)) }
  let here := (s1.teams.filter fun e => e.2.ctx == ck && e.2.life == .resident).map (·.1)
  let s2 := here.foldl (fun (st : State) t => st.stopTeam t .discard) s1
  let away (t : Nat) : Bool := match tget? s2.teams t with
    | some x => x.ctx == ck && x.life != .resident
    | none => false
  let s3 := ((s2.teams.filter fun e => away e.1).map (·.1)).foldl (fun (st : State) t => st.dropToken t) s2
  { s3 with teams := s3.teams.filter fun e => !away e.1, gangs := s3.gangs.filter fun e => !away e.2.team }

/-- Nothing of a context stands on a core or in flight, and its ladle jobs and inbound writes have ended (R434). -/
def State.ctxEmpty (s : State) (ck : Nat) : Bool :=
  !(s.teams.any fun e => e.2.ctx == ck) && !(s.ops.any fun o => o.ctx == ck && !o.kind.isChapp) &&
    !(s.chains.any fun e => e.2.ctx == ck && s.waitingCard (s.ctx ck).part e.2) &&
    !(s.jobs.any fun j => j.ctx == ck && j.status.isNone && !j.back) && !s.inbound.any fun e => e.ctx == ck

/-- The slot cycles of a context that is no more stay in the interval's count, and belong to none (R377; log entry 48, DEDUCED). -/
def passOn (occ : Tbl Nat) (ck : Nat) : Tbl Nat :=
  match tget? occ ck with
  | some n => tput (tdel occ ck) deadKey (tget occ deadKey 0 + n)
  | none => occ

/-- The context is gone: its job identifier, residency entries, save reservations and sessions with it; its frames keep owner
tags that no later context has (R434). -/
def State.removeCtx (s : State) (ck : Nat) : State :=
  let c := s.ctx ck
  let p := s.part c.part
  let gone (n : Nat) : Bool := (tget? s.teams n).isNone && !s.grids.any fun e => e.1 == n && e.2.ctx != ck
  let s1 := s.setPart c.part { p with resid := p.resid.filter fun e => e.2.ctx != ck
                                      reservation := p.reservation.filter fun r => !gone r.1 }
  { s1 with
    ctxs := tdel s1.ctxs ck
    grids := s1.grids.filter fun e => e.2.ctx != ck
    chains := s1.chains.filter fun e => e.2.ctx != ck
    jobs := s1.jobs.filter fun j => j.ctx != ck
    ops := s1.ops.filter fun o => o.ctx != ck
    owners := s1.owners.map fun e => if e.2 = .ctx c.num ∧ s.frameOf c.part e.1 = true then (e.1, .ctx 64) else e
    cores := s1.cores.map fun e => (e.1, e.2.forget ck)
    clusters := s1.clusters.map fun e =>
      (e.1, { e.2 with tlb := e.2.tlb.filter fun x => x.ctx != ck, mid := e.2.mid.filter fun x => x.ctx != ck,
                       occ := passOn e.2.occ ck })
    sessions := (s.closeTenants ck).sessions }

/-- CTXDEL (R434): the context's teams are discarded, and the reply follows once its jobs have ended and it is removed.
(Log entry 57, DEDUCED.) -/
def execCtxdel (m : Msg) (s : State) : Host.Outcome State Fault Refusal :=
  let num := msgNum m 1 1
  s.command m 0x0012 [1] 4 (m.body.length == 16 && msgNum m 0 1 == 1 && msgNum m 2 6 == 0 && msgNum m 8 8 == 0) fun x =>
    let q := s.takeDeferred m
    let ck := ctxKey x.tag num
    if num = 0 ∨ 63 < num ∨ (tget? s.ctxs ck).isNone = true then q.1.reply m 2 1 []
    else
      let s1 := (q.1.setCtx ck { s.ctx ck with stopped := true, deleting := true }).discardTeams ck
      if s1.ctxEmpty ck then (s1.removeCtx ck).reply m 0 0 (bytesOfNat 1 num) else s1.defer m q.2

/-- BIND (R431, R434). -/
def execBind (m : Msg) (s : State) : Host.Outcome State Fault Refusal :=
  let ck (x : Session) : Nat := ctxKey x.tag (msgNum m 0 1)
  let job := msgNum m 4 4
  s.command m 0x0013 [1] 4 (m.body.length == 8 && msgNum m 1 3 == 0 && decide (job < 2 ^ 24)) fun x =>
    if 63 < msgNum m 0 1 ∨ (tget? s.ctxs (ck x)).isNone = true then s.reply m 2 2 []
    else if job ≠ 0 ∧ (s.ctxs.any fun e => e.1 != ck x && e.2.job == some job) = true then s.reply m 2 1 []
    else (s.setCtx (ck x) { s.ctx (ck x) with job := if job = 0 then none else some job }).reply m 0 0 []

/-- The team that a ticket names in a partition (R389). -/
def State.ticketTeam (s : State) (tag n : Nat) : Option Nat :=
  (s.teams.find? fun e => e.2.part == tag && (e.2.wake == .ticket n || e.2.stopping == some (.save (.ticket n)))).map (·.1)

/-- RELEASE (R389, R434): the faulting group issues again, or the trap is delivered to the team's own handler. -/
def execRelease (m : Msg) (s : State) : Host.Outcome State Fault Refusal :=
  let how := msgNum m 4 1
  s.command m 0x0014 [1] 4 (m.body.length == 5 && decide (how ≤ 1)) fun x =>
    match s.ticketTeam x.tag (msgNum m 0 4) with
    | none => s.reply m 2 1 []
    | some tk =>
      let t := s.team tk
      let one (g : Gang) : Gang := match g.resumeTrap with
        | some f => if how = 0 then { g with resumeTrap := none } else { g with resumeTrap := none, wait := .trap f }
        | none => g
      let s1 := s.setTeam tk { t with wake := .ready, stopping := if t.stopping.isSome then some (.save .ready) else none }
      let s2 : State := { s1 with gangs := s1.gangs.map fun e => if e.2.team = tk then (e.1, one e.2) else e }
      s2.reply m 0 0 []

/-! ## Commands of contexts -/

/-- The code of an access that fails: 1 for translation, 2 for permission (R434). -/
def accessCode (status : Nat) : Nat := if status = 2 then 1 else 2

/-- WRITE (R434, R436): every page is checked, and the bytes become an inbound write. -/
def execWrite (m : Msg) (s : State) : Host.Outcome State Fault Refusal :=
  let va := msgNum m 0 8
  let data := m.body.drop 8
  s.command m 0x0020 [1, 2] 4 (decide (9 ≤ m.body.length) && decide (m.body.length ≤ 65544)) fun x =>
    match s.outsideItems x.key x.level .write (words8 va data.length) (fun a => (data.drop (a - va)).take (8 - a % 8)) with
    | .error c => (s.zeroWalks x.key (words8 va data.length)).reply m 2 (accessCode c) []
    | .ok l =>
      let e : Inbound := { id := s.nextKey, ctx := x.key, part := x.tag, sess := some m.sess, seq := m.seq, items := l }
      { s with nextKey := s.nextKey + 1, inbound := s.inbound ++ [e] }

/-- Read one access of a READ: a byte behind poison has a free value (log entry 15, DESIGN CHOICE). -/
def State.readOutside (s : State) (ck : Nat) (i : Item) : State × List Byte :=
  let s1 := s.own (s.ctx ck).num (i.pa / 65536) i.shared
  if s1.mem.poisoned i.pa i.w then
    let f := s1.free
    (f.2, bytesOfNat i.w f.1.toNat)
  else (s1, s1.mem.bytes i.pa i.w)

/-- READ (R367, R434, R436): the bytes at the banks, once every frame is ready. -/
def execRead (m : Msg) (s : State) : Host.Outcome State Fault Refusal :=
  let va := msgNum m 0 8
  let n := msgNum m 8 4
  s.command m 0x0021 [1, 2] 4 (m.body.length == 12 && decide (1 ≤ n) && decide (n ≤ 65536)) fun x =>
    let q := s.takeDeferred m
    match s.outsideItems x.key x.level .read (words8 va n) (fun _ => []) with
    | .error c => (q.1.zeroWalks x.key (words8 va n)).reply m 2 (accessCode c) []
    | .ok l =>
      let c := s.ctx x.key
      if l.all fun i => s.ownReady c.part c.num (i.pa / 65536) i.shared then
        let r := l.foldl (fun (acc : State × List Byte) (i : Item) =>
          let y := acc.1.readOutside x.key i
          (y.1, acc.2 ++ y.2)) (q.1, [])
        r.1.reply m 0 0 r.2
      else q.1.defer m q.2

/-- The grids of a partition that have not retired. -/
def State.liveGrids (s : State) (tag : Nat) : Nat := (s.grids.filter fun e => e.2.part == tag && !e.2.retired).length

/-- LAUNCH_CMD (R321, R344, R345, R357, R434, R436): the record is checked and becomes a root grid, once every earlier WRITE of
the session has been replied to. -/
def execLaunchCmd (m : Msg) (s : State) : Host.Outcome State Fault Refusal :=
  s.command m 0x0022 [1, 2] 4 (m.body.length == 64) fun x =>
    let q := s.takeDeferred m
    if s.inbound.any fun e => e.sess == some m.sess && decide (e.id < q.2) then q.1.defer m q.2
    else
      let c := s.ctx x.key
      let r := recordOf fun i => BitVec.ofNat 64 (msgNum m (8 * i) 8)
      let code := c.refusal r false false (decide (4096 ≤ s.liveGrids x.tag))
      if code ≠ 0 then q.1.reply m 2 code []
      else
        let p := s.part x.tag
        let n := p.grids + 1
        let g := (q.1.setPart x.tag { p with grids := n }).acceptGrid
          { record := r, ctx := x.key, part := x.tag, level := rootLevel c.num r.sup, sess := some m.sess, number := n }
        g.1.reply m 0 0 (bytesOfNat 8 n)

/-- MALFORMED_COMMAND (R432, R433): every other OP is answered with STATUS 5; as a first message, or with another version, with
STATUS 4. -/
def execMalformedCommand (m : Msg) (s : State) : Host.Outcome State Fault Refusal :=
  s.command m m.op [0, 1, 2] 0 false fun _ => s

end Sys2Proof.Machine
end

