-- ==== Sys2Proof/Machine/Memory.lean ====
section
/-! DEFINITION. The memory words: lane loads and stores (R177 to R181), PFD (R183), the atomics (R184 to R188) and the
uniform memory words (R189, R190).  Their accesses are performed later, by the steps of Machine/Flight.lean. -/

namespace Sys2Proof.Machine

/-! ## Shared parts -/

/-- The access width of a T value, in bytes (R178). -/
def widthOf : Nat → Nat
  | 1 | 5 => 4
  | 2 | 6 => 2
  | 3 | 7 => 1
  | _ => 8

/-- The access width of a size code, in bytes (R188, R189). -/
def sizeOf (code : Nat) : Nat := 8 / 2 ^ code

/-- The effective addresses of the executing lanes, ascending (R173). -/
def State.laneAddrs (s : State) (x y : VReg) : List (Nat × Nat) :=
  (lanesOf s.exec_).map fun (l : Fin 32) => (l.val, (x.at l.val + y.at l.val).toNat)

/-- Give a destination that a later return fills its P shape and its slab, and the zeroed lanes their 0 (R56, R57, R179). -/
def State.takeP (s : State) (d : Nat) : R State :=
  if d < 96 then do
    s.ready (s.vBusy d)
    let old := s.g.vreg d
    let z := s.zeroed
    let new : VReg := .p (Vector.ofFn fun l => if inSet z l then {} else old.lane l)
    s.needSlab old new
    pure (s.setG (s.g.setV d new))
  else pure s

/-- Where a lane word's returned values go. -/
def State.laneDst (s : State) (d : Nat) : Dst := if d < 96 then .vec d s.exec_ else .nowhere

/-- Items of global accesses through their translations. -/
def globalItems (w : Nat) (l : List (Nat × Nat)) (es : List TlbEntry) : List Item :=
  (l.zip es).map fun p => itemOf p.1.1 p.1.2 w p.2

/-- Put a lane's store into the access of its aligned 64-byte block (R147, R180): `i` is the lane's own access.  The access
sets the D bits of every page that a lane of it went through (R362). -/
def joinBlock (i : Item) : List Item → List Item
  | [] => [i]
  | j :: r =>
    if i.pa / 64 = j.pa / 64 then
      let lo := min i.pa j.pa
      let hi := max (i.pa + i.w) (j.pa + j.w)
      { j with va := min i.va j.va, pa := lo, w := hi - lo, pieces := j.pieces ++ i.pieces,
               dirt := j.dirt ++ i.dirt.filter fun d => !j.dirt.any fun e =>
                 e.leaf1 == d.leaf1 && e.leaf2 == d.leaf2 && e.va / 65536 == d.va / 65536 } :: r
    else j :: joinBlock i r

/-- The accesses of a lane store: one for each aligned 64-byte block, the lanes of a block in ascending order. -/
def storeItems (items : List Item) (data : Nat → Word) : List Item :=
  items.foldl (fun l i => joinBlock { i with pieces := piecesOf i.pa i.w (data i.lane) } l) []

/-! ## Lane loads and stores (R177 to R181) -/

/-- LDG (R179). -/
def execLdg (d : Nat) (a b : Src) (t : Nat) (s : State) : Host.Outcome State Fault Refusal :=
  s.conclude do
    s.accept {}
    if s.exec_ = 0 then pure s
    else
      s.flagRoom s.cl.seta
      s.destReady d true
      let r ← s.sources s.exec_ [(a, 0), (b, 0)]
      let l := s.laneAddrs (opnd r.2 0) (opnd r.2 1)
      let es ← r.1.checkGlobal .read (widthOf t) false l
      let s1 ← (r.1.useTlb es).takeP d
      pure (s1.issueLoad (s1.newOp s1.cl.seta (.load (s1.laneDst d) t false) (globalItems (widthOf t) l es)))

/-- LDS (R179). -/
def execLds (d : Nat) (a b : Src) (t : Nat) (s : State) : Host.Outcome State Fault Refusal :=
  s.conclude do
    s.accept {}
    if s.exec_ = 0 then pure s
    else
      s.flagRoom s.cl.seta
      s.destReady d true
      let r ← s.sources s.exec_ [(a, 0), (b, 0)]
      let l := s.laneAddrs (opnd r.2 0) (opnd r.2 1)
      r.1.checkSpad .read (widthOf t) false l
      let s1 ← r.1.takeP d
      pure (s1.issueLoad (s1.newOp s1.cl.seta (.load (s1.laneDst d) t true) (l.map fun x => spadItem x.1 x.2 (widthOf t))))

/-- STG (R180). -/
def execStg (data : Nat) (a b : Src) (t : Nat) (s : State) : Host.Outcome State Fault Refusal :=
  s.conclude do
    s.accept { z := false }
    if s.exec_ = 0 then pure s
    else
      s.flagRoom s.cl.seta
      let r ← s.sources s.exec_ [(a, 0), (b, 0), (⟨data, 0⟩, t)]
      let l := s.laneAddrs (opnd r.2 0) (opnd r.2 1)
      let es ← r.1.checkGlobal .write (widthOf t) false l
      let s1 := r.1.useTlb es
      pure (s1.issueStore (s1.newOp s1.cl.seta (.store false) (storeItems (globalItems (widthOf t) l es) (opnd r.2 2).at)))

/-- STS (R180). -/
def execSts (data : Nat) (a b : Src) (t : Nat) (s : State) : Host.Outcome State Fault Refusal :=
  s.conclude do
    s.accept { z := false }
    if s.exec_ = 0 then pure s
    else
      s.flagRoom s.cl.seta
      let r ← s.sources s.exec_ [(a, 0), (b, 0), (⟨data, 0⟩, t)]
      let l := s.laneAddrs (opnd r.2 0) (opnd r.2 1)
      r.1.checkSpad .write (widthOf t) false l
      pure (r.1.issueStore (r.1.newOp r.1.cl.seta (.store true)
        (storeItems (l.map fun x => spadItem x.1 x.2 (widthOf t)) (opnd r.2 2).at)))

/-! ## PFD (R183) -/

/-- The translation of a stream element that passes the checks of R174; none for one that fails. -/
def State.elemEntry (s : State) (size a : Nat) : Option TlbEntry :=
  match s.checkGlobal .read size false [(0, a)] with
  | .ok [e] => some e
  | _ => none

/-- PFD's operands, without a trap: a lane whose operand is marked, fails a check or is poisoned has no address (R183).  A
missing bypass entry leaves no lane one (log entry 40, DEDUCED). -/
def State.pfdAddrs (s : State) (a b : Src) : R (State × List (Nat × Nat)) := do
  let srcs := [(a, 0), (b, 0)]
  let ns := streamsOf srcs
  if srcs.any fun x => s.bypassMissing x.1 then pure (s.advance ns, [])
  else
    let _ ← (s.allElems ns).mapM fun x => match s.elemEntry x.2.2 x.2.1 with
      | some e => s.settled .operand e x.2.1 x.2.2
      | none => .ok ()
    let r := s.loadStreams ns s.elemEntry
    let x := r.1.operand r.2 a 0
    let y := r.1.operand r.2 b 0
    let ok (l : Nat) : Bool := (markIn x s.exec_ l).isNone && (markIn y s.exec_ l).isNone
    pure (r.1.advance ns, (s.laneAddrs x.1 y.1).filter fun p => ok p.1)

/-- Request one line for L1 as a load miss would; a lane that fails a check, or whose data is poisoned, is dropped, and a
line that a load would hit is not requested (R183). (Log entry 40, DEDUCED.) -/
def State.prefetch (s : State) (ea : Nat) : State :=
  match s.checkGlobal .read 1 false [(0, ea)] with
  | .ok [e] =>
    let pa := e.phys ea
    let line := pa / 128
    let held := (s.core s.g.core).l1.any fun x =>
      x.ctx == s.g.ctx && x.line == line && decide (s.ns < x.expiry) && decide (s.g.va ≤ x.grant)
    if held || s.mem.poisoned (line * 128) 128 then s
    else (s.useTlb [e]).issueOp (s.newOp 15 .prefetch [itemOf 0 ea 1 e])
  -- a table that the lane's walk must zero is zeroed when its frame is ready (R367)
  | .error (.walk fs _ _) => s.ownTables s.g.ctx fs
  | _ => s

/-- PFD (R183): .l1 requests each lane's line for L1; .l2 brings it no further than its home bank, where it changes
nothing that a program observes. (Log entry 40, DEDUCED.) -/
def execPfd (a b : Src) (level : Nat) (s : State) : Host.Outcome State Fault Refusal :=
  s.conclude do
    s.accept { z := false }
    if s.exec_ = 0 then pure s
    else
      s.ready (s.srcBusy a || s.srcBusy b)
      let r ← s.pfdAddrs a b
      pure (if level = 0 then r.2.foldl (fun (st : State) p => st.prefetch p.2) r.1 else r.1)

/-! ## Atomics (R184 to R188) -/

/-- The operation of an integer atomic's T and SAT (R185). -/
def atomOp (sat t : Nat) : Option AtomOp :=
  if sat = 0 then
    match t with
    | 0 => some .add
    | 1 => some .min
    | 2 => some .max
    | 3 => some .minu
    | 4 => some .maxu
    | 5 => some .and
    | 6 => some .or
    | _ => some .xor
  else
    match t with
    | 0 => some .xchg
    | 1 => some .cas
    | _ => none

/-- The accesses of an atomic: its operand and compare values go with each lane's access. -/
def atomItems (w : Nat) (l : List (Nat × Nat)) (es : List TlbEntry) (x c : Nat → Word) : List Item :=
  (globalItems w l es).map fun i => { i with x := x i.lane, cmp := c i.lane }

/-- ATOM32 and ATOM64 (R185, R186). -/
def State.atomWord (s : State) (w d : Nat) (a b : Src) (t : Nat) : Host.Outcome State Fault Refusal :=
  s.conclude do
    let cas := s.pfx.sat == 1 && t == 1
    s.accept { sat := true, c := cas }
    match atomOp s.pfx.sat t with
    | none => s.undefWord
    | some op =>
      if s.exec_ = 0 then pure s
      else
        s.flagRoom s.cl.seta
        s.destReady d true
        let r ← s.sources s.exec_ ([(a, 0), (b, 0)] ++ (if cas then [(s.srcC, 0)] else []))
        let l := s.laneAddrs (opnd r.2 0) (.u 0)
        let es ← r.1.checkGlobal .atomic w false l
        let s1 ← (r.1.useTlb es).takeP d
        pure (s1.issueOp (s1.newOp s1.cl.seta (.atomic op w (s1.laneDst d) {} 0 false)
          (atomItems w l es (opnd r.2 1).at (opnd r.2 2).at)))

/-- ATOM32 (R186). -/
def execAtom32 (d : Nat) (a b : Src) (t : Nat) (s : State) : Host.Outcome State Fault Refusal := s.atomWord 4 d a b t
/-- ATOM64 (R186). -/
def execAtom64 (d : Nat) (a b : Src) (t : Nat) (s : State) : Host.Outcome State Fault Refusal := s.atomWord 8 d a b t

/-- The rounding mode that FATOM captures, as a code: 1 RNE, 2 RTZ, 3 RUP, 4 RDN (R187, R227). -/
def State.modeCode (s : State) (rm : Nat) : Nat := if rm = 0 then s.g.fround + 1 else rm

/-- FATOM's operation (R187). -/
def fatomOp : Nat → AtomOp
  | 0 => .fadd
  | 1 => .fmin
  | _ => .fmax

/-- FATOM (R187); with the BAUF feature masked it is undefined (R379), at the word's own position.  (Log entry 26, DEDUCED.) -/
def execFatom (d : Nat) (a b : Src) (t : Nat) (s : State) : Host.Outcome State Fault Refusal :=
  s.conclude do
    s.accept { rm := true, nf := true, c := true }
    if s.pfx.rm = 3 then s.undefFirst
    else if !(s.ctx s.g.ctx).featmask.getLsbD 6 then s.undefWord
    else if s.exec_ = 0 then pure s
    else
      s.flagRoom s.cl.seta
      s.destReady d true
      let r ← s.sources s.exec_ [(a, 0), (b, 0), (s.srcC, 0)]
      let spec := opnd r.2 2
      let bad := disagree s.exec_ spec fun x => x.toNat % 256
      if bad ≠ 0 then s.trapR 0x03 0 (some bad)
      else
        let n := bits (spec.at (firstLane s.exec_)) 7 0
        let e := (s.ctx s.g.ctx).entry n
        let width := e.fmt.width
        if !e.usable || e.fmt.kind == 3 || !([8, 16, 32, 64].contains width) then s.trapR 0x04 (BitVec.ofNat 64 n)
        else
          let w := width / 8
          let l := s.laneAddrs (opnd r.2 0) (.u 0)
          let es ← r.1.checkGlobal .atomic w false l
          let s1 ← (r.1.useTlb es).takeP d
          pure (s1.issueOp (s1.newOp s1.cl.seta
            (.atomic (fatomOp t) w (s1.laneDst d) e (s.modeCode s.pfx.rm) (s.pfx.nf == 1))
            (atomItems w l es (opnd r.2 1).at fun _ => 0)))

/-- RED (R188). -/
def execRed (size : Nat) (a b : Src) (t : Nat) (s : State) : Host.Outcome State Fault Refusal :=
  s.conclude do
    s.accept { z := false }
    if s.exec_ = 0 then pure s
    else
      s.flagRoom s.cl.seta
      let w := sizeOf size
      let r ← s.sources s.exec_ [(a, 0), (b, 0)]
      let l := s.laneAddrs (opnd r.2 0) (.u 0)
      let es ← r.1.checkGlobal .atomic w false l
      let s1 := r.1.useTlb es
      pure (s1.issueOp (s1.newOp s1.cl.seta (.red ((atomOp 0 t).getD .add) w) (atomItems w l es (opnd r.2 1).at fun _ => 0)))

/-! ## Uniform memory words (R189, R190) -/

/-- ULD (R189). -/
def execUld (d a w : Nat) (s : State) : Host.Outcome State Fault Refusal :=
  s.conclude do
    s.accept { m := false, z := false }
    s.flagRoom s.cl.seta
    s.ready (s.sBusy d)
    let x ← s.sget a
    let l := [(0, x.toNat)]
    let es ← s.checkGlobal .read (sizeOf w) true l
    let s1 := s.useTlb es
    pure (s1.issueLoad (s1.newOp s1.cl.seta (.load (.scl d) 0 false) (globalItems (sizeOf w) l es)))

/-- UST (R189). -/
def execUst (d a w : Nat) (s : State) : Host.Outcome State Fault Refusal :=
  s.conclude do
    s.accept { m := false, z := false }
    s.flagRoom s.cl.seta
    let x ← s.sget a
    let y ← s.sget d
    let l := [(0, x.toNat)]
    let es ← s.checkGlobal .write (sizeOf w) true l
    let s1 := s.useTlb es
    pure (s1.issueStore (s1.newOp s1.cl.seta (.store false) (storeItems (globalItems (sizeOf w) l es) fun _ => y)))

/-- ULDS (R189). -/
def execUlds (d a w : Nat) (s : State) : Host.Outcome State Fault Refusal :=
  s.conclude do
    s.accept { m := false, z := false }
    s.flagRoom s.cl.seta
    s.ready (s.sBusy d)
    let x ← s.sget a
    s.checkSpad .read (sizeOf w) true [(0, x.toNat)]
    pure (s.issueLoad (s.newOp s.cl.seta (.load (.scl d) 0 true) [spadItem 0 x.toNat (sizeOf w)]))

/-- USTS (R189). -/
def execUsts (d a w : Nat) (s : State) : Host.Outcome State Fault Refusal :=
  s.conclude do
    s.accept { m := false, z := false }
    s.flagRoom s.cl.seta
    let x ← s.sget a
    let y ← s.sget d
    s.checkSpad .write (sizeOf w) true [(0, x.toNat)]
    pure (s.issueStore (s.newOp s.cl.seta (.store true) (storeItems [spadItem 0 x.toNat (sizeOf w)] fun _ => y)))

/-- UATOM's operation (R190). -/
def uatomOp : Nat → AtomOp
  | 0 => .add
  | 1 => .minu
  | 2 => .maxu
  | 3 => .and
  | 4 => .or
  | 5 => .xor
  | 6 => .xchg
  | _ => .cas

/-- UATOM (R190). -/
def execUatom (d a op x : Nat) (s : State) : Host.Outcome State Fault Refusal :=
  s.conclude do
    s.accept { m := false, z := false }
    s.flagRoom s.cl.seta
    s.ready (s.sBusy d)
    let p ← s.sget a
    let v ← s.sget x
    let c ← if op = 7 then s.sget d else pure 0
    let l := [(0, p.toNat)]
    let es ← s.checkGlobal .atomic 8 true l
    let s1 := s.useTlb es
    pure (s1.issueOp (s1.newOp s1.cl.seta (.atomic (uatomOp op) 8 (.scl d) {} 0 false)
      (atomItems 8 l es (fun _ => v) fun _ => c)))

end Sys2Proof.Machine
end

