-- ==== Sys2Proof/Machine/Product.lean ====
section
/-! DEFINITION. What matrix operations compute when they complete: the product (R304, R305), the moves and conversions
of accumulators (R307 to R309), QTILE (R312 to R314, R232, R234), and the order they keep (R170, R315). -/

namespace Sys2Proof.Machine

/-! ## Shapes and regions (R298) -/

/-- M (which is N) and K of a shape code. -/
def shapeDims : Nat → Nat × Nat
  | 1 => (64, 128)
  | 2 => (64, 256)
  | 3 => (32, 64)
  | 4 => (64, 32)
  | _ => (64, 64)

/-- The row length of a shape's accumulator region, which is also its number of rows. -/
def regionSide (shape : Nat) : Nat := if shape = 3 then 32 else 64
/-- The cells of a shape's region. -/
def regionCells (shape : Nat) : Nat := regionSide shape * regionSide shape
/-- The accumulator cell, in the 64 × 64 tile, of cell `x` of a region in row-major order. -/
def regionCell (shape x : Nat) : Nat := x / regionSide shape * 64 + x % regionSide shape

/-- A cell of an accumulator. -/
def Acc.cell (a : Acc) (i : Nat) : Nat := (tget a.cells i 0).toNat

/-- An accumulator with the cells of a region replaced; cells of 0 are not listed. -/
def Acc.withRegion (a : Acc) (shape : Nat) (f : Nat → Nat) : Acc :=
  let side := regionSide shape
  let v (i : Nat) : BitVec 32 :=
    if i / 64 < side ∧ i % 64 < side then BitVec.ofNat 32 (f (i / 64 * side + i % 64)) else tget a.cells i 0
  { a with cells := (List.range 4096).filterMap fun i => if v i = 0 then none else some (i, v i) }

/-- The delta-4 block size of a BLK code (R238). -/
def blockSize (blk : Nat) : Nat := 16 * 2 ^ blk

/-! ## The product (R304, R305) -/

/-- The exact sum of values that are not special, an empty or zero sum being +0. (Log entry 34, DEDUCED.) -/
def sumNum (l : List Num) : Num := l.foldl (fun a x => Num.add false a x) (.zero false)

/-- A chunk's sum of 16 products (R304), without a special: each is truncated to the chunk's own grain. -/
def chunkSum (ps : List Num) : Num :=
  if ps.all Num.isZero then (if ps.all Num.sign then .zero true else .zero false)
  else
    let e := (ps.filter fun p => !p.isZero).foldl (fun (m : Int) p => max m p.flog) (-100000)
    sumNum (ps.map fun p => if p.isZero then .zero false else Num.truncTo (e - 48) p)

/-- A chunk's value and the flags of its specials (R305). -/
def chunk (a b : List Num) : Num × Byte :=
  let ab := a ++ b
  let ps := List.zipWith Num.mul a b
  if ab.any Num.isNan then (.nan false, if ab.any Num.isSig then fNV else fNone)
  else if ps.any Num.isNan then (.nan false, fNV)
  else if (ps.any fun p => p.isInf && p.sign) && (ps.any fun p => p.isInf && !p.sign) then (.nan false, fNV)
  else match ps.find? Num.isInf with
    | some p => (.inf p.sign, fNone)
    | none => (chunkSum ps, fNone)

/-- One chunk's step of a cell: its sum rounded once, added once (R304). -/
def chunkStep (f : Fmt) (c : Num × Byte × Nat) (a b : List Num) : Num × Byte × Nat :=
  let t := chunk a b
  let r := f.round t.1 .rne false
  let x := f.value r.1
  let y := Num.add false c.1 x
  let inv := if y.isNan && !c.1.isNan && !x.isNan then fNV else fNone
  let q := f.round y .rne false
  (f.value q.1, c.2.1 ||| t.2 ||| r.2 ||| inv ||| q.2, q.1)

/-- The chunks of a row and a column, ascending. -/
def chunks (f : Fmt) : Nat → List Num → List Num → Num × Byte × Nat → Num × Byte × Nat
  | 0, _, _, c => c
  | n + 1, a, b, c => chunks f n (a.drop 16) (b.drop 16) (chunkStep f c (a.take 16) (b.take 16))

/-- The layouts of an operation's operands: A, then B (R299, R303). -/
def MatOp.layA (m : MatOp) : Lay :=
  { off := m.offA, rho := (shapeDims m.shape).1, k := (shapeDims m.shape).2, f := m.ae.fmt, mode := m.asm, bs := blockSize m.blk }
/-- B's layout. -/
def MatOp.layB (m : MatOp) : Lay :=
  { off := m.offB, rho := (shapeDims m.shape).1, k := (shapeDims m.shape).2, f := m.be.fmt, mode := m.bsm, bs := blockSize m.blk }

/-- The cells of MMA's result and the OR of its flags (R304, R305). -/
def MatOp.product (m : MatOp) (accum : Bool) (spad : Memory) (acc : Acc) : List Nat × Byte :=
  let a := m.layA.rows spad m.ascale
  let b := m.layB.rows spad m.bscale
  let f := m.ce.fmt
  let n := (shapeDims m.shape).2 / 16
  let cell (i j : Nat) (ra rb : List Num) : Num × Byte × Nat :=
    let start := if accum then f.value (acc.cell (i * 64 + j) % 2 ^ f.width) else .zero false
    chunks f n ra rb (start, fNone, 0)
  let all := (a.zipIdx).flatMap fun x => (b.zipIdx).map fun y => cell x.2 y.2 x.1 y.1
  (all.map fun c => c.2.2, all.foldl (fun (fl : Byte) c => fl ||| c.2.1) fNone)

/-! ## Draws and modes -/

/-- A captured rounding mode: 5 is stochastic, with the draw of number `q` (R308). -/
def MatOp.modeAt (m : MatOp) (q : Word) : Mode :=
  if m.mode = 5 then .stoch ((draw64 m.seed q).toNat % 2 ^ 32) else modeOf m.mode

/-- The mode of cell `x` in row-major order (R308). -/
def MatOp.cellMode (m : MatOp) (x : Nat) : Mode :=
  m.modeAt ((m.ctr + BitVec.ofNat 64 (x / 32)) * 32 + BitVec.ofNat 64 (x % 32))

/-- The mode of element `j` of lane `l` (R229, R308). -/
def MatOp.laneMode (m : MatOp) (j l : Nat) : Mode :=
  m.modeAt ((m.ctr + BitVec.ofNat 64 j) * 32 + BitVec.ofNat 64 l)

/-- A cell converted to the output entry (R308). -/
def MatOp.convertCell (m : MatOp) (c : Nat) (mode : Mode) : Rounded :=
  convert (c % 2 ^ m.ce.fmt.width) m.ce.fmt m.oute.fmt mode m.sat

/-! ## QTILE (R312 to R314) -/

/-- The bytes of a source element (R312). -/
def MatOp.sourceBytes (m : MatOp) : Nat := if m.be.fmt.width ≤ 8 then 1 else if m.be.fmt.width ≤ 16 then 2 else 4

/-- The 4,096 source values, row-major. -/
def MatOp.source (m : MatOp) (spad : Memory) : List Num :=
  let f := m.be.fmt
  (List.range 4096).map fun x => f.value (spad.value (m.offA + x * m.sourceBytes) m.sourceBytes % 2 ^ f.width)

/-- The elements of a QTILE block (R312); with no scale mode BLK 3 makes blocks of two rows. (Log entry 81, DESIGN CHOICE.) -/
def MatOp.blockLen (m : MatOp) : Nat := if m.asm = 2 then 64 else blockSize m.blk

/-- Cut a list into pieces of `n`. -/
def pieces {α : Type} (n : Nat) : Nat → List α → List (List α)
  | 0, _ => []
  | k + 1, l => l.take n :: pieces n k (l.drop n)

/-- The largest magnitude of a block, NaN elements apart (R313). -/
def blockMax (l : List Num) : Num :=
  l.foldl (fun m x => if !x.isNan && Num.lt m x.abs then x.abs else m) (.zero false)

/-- The magnitude that R232 takes for maxf. -/
def Fmt.scaleMax (f : Fmt) : Num :=
  match f.kind with
  | 0 => f.maxf
  | 3 => .ofInt 1
  | _ =>
    let hi := Num.scale2 (-f.fw) (.ofInt (f.hi - f.bias))
    let lo := Num.scale2 (-f.fw) (.ofInt (f.lo - f.bias))
    if hi.isZero then lo.abs else hi

/-- The least E with `m ≤ maxf * 2^E` (R232, R313). -/
def leastE (f : Fmt) (m : Num) : Int :=
  match m with
  | .inf _ => 32767
  | .nan _ => 32767
  | .fin _ n _ _ =>
    if n = 0 then -4096
    else
      let q := Num.div m f.scaleMax.abs
      let e := q.flog
      if Num.eqv q (.fin false 1 1 e) then e else e + 1

/-- The delta of a block of maximum `m` (R232). -/
def deltaOf (f : Fmt) (base : Int) (m : Num) : Nat := if m.isZero then 15 else (min 15 (max 0 (base - leastE f m))).toNat

/-- The Q16 scale of a block of maximum `m` (R234). -/
def q16ScaleOf (s m : Num) : Nat :=
  match Num.div (Num.mul (.ofInt 255) m) s with
  | .fin _ n d e =>
    let nd := scaled n d e
    min 255 (max 1 ((nd.1 + nd.2 - 1) / nd.2))
  | _ => 255

/-- QTILE.max: the blocks' maxima as binary32, D's value, and NV when an element is NaN (R313); the rounding to binary32 sets no flag. (Log
entry 81, DESIGN CHOICE.) -/
def MatOp.maxima (m : MatOp) (spad : Memory) : List Nat × Word × Byte :=
  let src := m.source spad
  let n := 4096 / m.blockLen
  let ms := (pieces m.blockLen n src).map blockMax
  let top := blockMax ms
  let code (x : Num) : Nat := (fmtF32.round x .rup false).1
  let e := (leastE m.ae.fmt top % 65536).toNat
  (ms.map code, BitVec.ofNat 64 (code top + e * 2 ^ 32), if src.any Num.isNan then fNV else fNone)

/-- One element quantised (R314): under its block's delta or Q16 scale. -/
def MatOp.quantise (m : MatOp) (sc : Nat) (v : Num) (mode : Mode) : Rounded :=
  let f := m.ae.fmt
  match m.asm with
  | 1 => roundOp f (v.scale2 ((sc : Int) - baseOf m.ascale)) [v] mode m.sat
  | 2 =>
    let s := f32 (m.ascale.toNat % 2 ^ 32)
    let r := chooseLevel (f.levels.map fun lv => Num.mul s (Num.ofFrac (lv * sc) 32385 0 false)) v mode
    (r.1, r.2 ||| sigFlag [v])
  | _ => roundOp f v [v] mode m.sat

/-- QTILE's destination layout (R314). -/
def MatOp.destLay (m : MatOp) : Lay := { off := m.offB, rho := 64, k := 64, f := m.ae.fmt, mode := m.asm, bs := blockSize m.blk }

/-- QTILE.cvt: the bytes of the destination layout and the OR of the flags (R314). -/
def MatOp.quantised (m : MatOp) (spad : Memory) : List Byte × Byte :=
  let src := m.source spad
  let n := 4096 / m.blockLen
  let scale (b : List Num) : Nat :=
    match m.asm with
    | 1 => deltaOf m.ae.fmt (baseOf m.ascale) (blockMax b)
    | 2 => q16ScaleOf (f32 (m.ascale.toNat % 2 ^ 32)) (blockMax b)
    | _ => 0
  let bs := (pieces m.blockLen n src).map fun b => (scale b, b)
  let rs := (bs.zipIdx).flatMap fun x => (x.1.2.zipIdx).map fun y =>
    m.quantise x.1.1 y.1 (m.cellMode (x.2 * m.blockLen + y.2))
  ((m.destLay.image (rs.map (·.1)).toArray (bs.map (·.1)).toArray), rs.foldl (fun (fl : Byte) r => fl ||| r.2) fNone)

/-! ## Ranges and order (R170, R315) -/

/-- The bytes of a cell's container (R307). -/
def MatKind.container : MatKind → Nat
  | .mst c _ => c
  | _ => 4

/-- The scratchpad ranges that an operation reads or writes. -/
def MatOp.ranges (m : MatOp) : List (Nat × Nat) :=
  match m.kind with
  | .mma _ => [(m.offA, m.layA.size), (m.offB, m.layB.size)]
  | .mld => [(m.offA, 4 * regionCells m.shape)]
  | .mst c _ => [(m.offA, c * regionCells m.shape)]
  | .mzero => []
  | .mrd .. => []
  | .qmax _ => [(m.offA, 4096 * m.sourceBytes), (m.offB, 4 * (4096 / m.blockLen))]
  | .qcvt => [(m.offA, 4096 * m.sourceBytes), (m.offB, m.destLay.size)]

/-- The operation names an accumulator. -/
def MatKind.namesAcc : MatKind → Bool
  | .qmax _ | .qcvt => false
  | _ => true

/-- A lane access to scratchpad must wait for an earlier matrix operation of its team (R170). (Log entry 12, DEDUCED.) -/
def State.matrixAhead (s : State) (o : Op) (i : Item) : Bool :=
  o.kind.onSpad && s.ops.any fun p => p.team == o.team && decide (p.id < o.id) && (match p.kind with
    | .matrix m => m.ranges.any fun r => overlap i.pa i.w r.1 r.2
    | _ => false)

/-- Two matrix operations of a team, `p` issued first, are ordered with each other: they name the same accumulator and the same shape
(R315). -/
def MatOp.orderedWith (m q : MatOp) : Bool := m.kind.namesAcc && q.kind.namesAcc && q.acc == m.acc && q.shape == m.shape

/-- A matrix operation may take effect once those of a list have: every other earlier operation of its team on the same accumulator and
shape has completed, and its gang's earlier scratchpad accesses have been performed (R170, R315). (Log entry 12, DEDUCED.) -/
def State.readyAfter (s : State) (o : Op) (m : MatOp) (ids : List Nat) : Bool :=
  !s.ops.any fun p => decide (p.id < o.id) && (match p.kind with
    | .matrix q => p.team == o.team && m.orderedWith q && !ids.contains p.id
    | _ => p.gang == o.gang && p.kind.onSpad && p.items.any fun i => !i.done)

/-- A matrix operation may take effect. -/
def State.matrixReady (s : State) (o : Op) (m : MatOp) : Bool := s.readyAfter o m []

/-! ## Taking effect -/





/-- Write bytes to a team's scratchpad, as poisoned ones when marked (R307, R312). -/
def Team.spadWrite (t : Team) (off : Nat) (bs : List Byte) (bad : Bool) : Team :=
  let m := t.spad.write (piecesOfBytes off bs)
  { t with spad := if bad then m.poisonRange off bs.length else m }

/-- Flags delivered to all 32 lanes (R305). -/
def Gang.raiseAll (g : Gang) (f : Byte) : Gang := g.raise fun _ => f

/-- MRD's value in lane `l`: its cells, raw or converted, and the flags of the conversions (R309). -/
def MatOp.mrdLane (m : MatOp) (a : Acc) (first c : Nat) (conv : Bool) (l : Nat) : Word × Byte :=
  let e := 8 / c
  let r (j : Nat) : Rounded :=
    let v := a.cell (regionCell m.shape (first + l * e + j))
    if conv then m.convertCell v (m.laneMode j l) else (v, fNone)
  (packElems (64 / e) fun j => (r j).1, (List.range e).foldl (fun b j => b ||| (r j).2) fNone)

/-- What a matrix operation does when it completes (R304 to R314).  MRD of a marked accumulator sets no flag. (Log entry 79, DESIGN
CHOICE.) -/
def State.matrixEffect (s : State) (o : Op) (m : MatOp) : State :=
  let t := s.team o.team
  let a := t.accOf m.acc
  let g := s.gang o.gang
  match m.kind with
  | .mma accum =>
    let r := m.product accum t.spad a
    let cells := r.1.toArray
    let bad := m.ranges.any fun x => t.spad.poisoned x.1 x.2
    let a1 := a.withRegion m.shape fun x => cells.getD x 0
    (s.setTeam o.team (t.setAcc m.acc { a1 with mark := a.mark || bad })).setGang o.gang (g.raiseAll r.2)
  | .mld =>
    let bad := t.spad.poisoned m.offA (4 * regionCells m.shape)
    let a1 := a.withRegion m.shape fun x => t.spad.value (m.offA + 4 * x) 4
    s.setTeam o.team (t.setAcc m.acc { a1 with mark := if bad then true else if m.shape = 3 then a.mark else false })
  | .mzero =>
    let a1 := a.withRegion m.shape fun _ => 0
    s.setTeam o.team (t.setAcc m.acc { a1 with mark := if m.shape = 3 then a.mark else false })
  | .mst c conv =>
    let rs := (List.range (regionCells m.shape)).map fun x =>
      if conv then m.convertCell (a.cell (regionCell m.shape x)) (m.cellMode x) else (a.cell (regionCell m.shape x), fNone)
    let fl := rs.foldl (fun (b : Byte) r => b ||| r.2) fNone
    (s.setTeam o.team (t.spadWrite m.offA (rs.flatMap fun r => bytesOfNat c r.1) a.mark)).setGang o.gang (g.raiseAll fl)
  | .mrd d e first c conv =>
    let v (l : Nat) : Slot :=
      if a.mark then { val := Config.freeValue s.freeCtr, mark := some 0 } else { val := (m.mrdLane a first c conv l).1 }
    let fl (l : Nat) : Byte := if conv && !a.mark && inSet e l then (m.mrdLane a first c conv l).2 else fNone
    let g1 := if d < 96 then g.setV d ((g.vreg d).merge e v) else g
    { s with freeCtr := s.freeCtr + 1 }.setGang o.gang (g1.raise fl)
  | .qmax d =>
    let bad := t.spad.poisoned m.offA (4096 * m.sourceBytes)
    let r := m.maxima t.spad
    let out : VReg := if bad then .p (Vector.replicate 32 { val := Config.freeValue s.freeCtr, mark := some 0 }) else .u r.2.1
    let g1 := if d < 96 then g.setV d out else g
    ({ s with freeCtr := s.freeCtr + 1 }.setTeam o.team (t.spadWrite m.offB (r.1.flatMap (bytesOfNat 4)) bad)).setGang o.gang
      (g1.raiseAll r.2.2)
  | .qcvt =>
    let bad := t.spad.poisoned m.offA (4096 * m.sourceBytes)
    let r := m.quantised t.spad
    (s.setTeam o.team (t.spadWrite m.offB r.1 bad)).setGang o.gang (g.raiseAll r.2)

/-! ## Two unordered operations (R316) -/

/-- The operation writes accumulators, in its shape's region (R307). -/
def MatKind.writesAcc : MatKind → Bool
  | .mma _ | .mld | .mzero => true
  | _ => false
/-- The operation writes cell `i` of accumulator `k`; cell 4096 stands for the accumulator's mark. -/
def MatOp.writesCell (m : MatOp) (k i : Nat) : Bool :=
  m.kind.writesAcc && m.acc == k && (i == 4096 || (decide (i / 64 < regionSide m.shape) && decide (i % 64 < regionSide m.shape)))
/-- The scratchpad range that an operation writes. -/
def MatOp.writesSpad (m : MatOp) : List (Nat × Nat) :=
  match m.kind with
  | .mst .. => m.ranges
  | .qmax _ | .qcvt => m.ranges.drop 1
  | _ => []
/-- Some range of one list overlaps some range of another. -/
def overlaps (l r : List (Nat × Nat)) : Bool := l.any fun x => r.any fun y => overlap x.1 x.2 y.1 y.2

/-- The operation writes bytes of an aligned 8-byte word of scratchpad. -/
def MatOp.writesWord (m : MatOp) (w : Nat) : Bool := overlaps m.writesSpad [(8 * w, 8)]

/-- Put an operation somewhere in an order, where free bits say, but before none that it is to come after. -/
def putIn (b : Nat → Bool) (after : Nat → Bool) (x : Nat) : Nat → List Nat → List Nat
  | _, [] => [x]
  | t, y :: r => if b t && !(y :: r).any after then x :: y :: r else y :: putIn b after x (t + 1) r

/-- The order of `n` operations at a place, chosen for that place alone by free bits, but for those that are ordered with each other:
`before i j` says that `i` comes before `j` (R315, R316). -/
def orderAt (before : Nat → Nat → Bool) (c : Nat → Bool) (place : Nat) : Nat → List Nat
  | 0 => []
  | n + 1 => putIn (fun t => c ((place * 64 + n) * 64 + t)) (fun y => before y n) n 0 (orderAt before c place n)

/-- The last of an order that writes a place, before one operation of it or of them all. -/
def lastWriter (l : List Nat) (writes : Nat → Bool) (stop : Option Nat) : Option Nat :=
  ((match stop with
    | some j => l.takeWhile fun x => x != j
    | none => l).filter writes).getLast?

/-- A team's matrix state as one of several operations finds it, or as they leave it: each cell and each aligned 8-byte word,
poison included, from the last operation before it in the order of that place (R316).  `outs` is what each operation leaves. -/
def Team.mix (t : Team) (ms : List MatOp) (outs : List Team) (order : Nat → List Nat) (stop : Option Nat) : Team :=
  let from_ (place : Nat) (writes : MatOp → Bool) : Option Team :=
    (lastWriter (order place) (fun j => (ms[j]?).any writes) stop).bind fun j => outs[j]?
  let accs := (List.range 8).filter fun k => ms.any fun m => m.writesCell k 4096
  let t1 := accs.foldl (fun (u : Team) k =>
    let src (i : Nat) : Acc := ((from_ (2 * (k * 8192 + i)) fun m => m.writesCell k i).getD t).accOf k
    u.setAcc k { cells := (List.range 4096).filterMap fun i =>
                   let v := tget (src i).cells i 0
                   if v = 0 then none else some (i, v)
                 mark := (src 4096).mark }) t
  let words := (ms.flatMap MatOp.writesSpad).flatMap fun r => (List.range (r.2 / 8)).map (r.1 / 8 + ·)
  { t1 with spad := words.foldl (fun m w => match from_ (2 * w + 1) fun m => m.writesWord w with
      | some u => (m.zero (8 * w) 8).overlay (u.spad.extract (8 * w) 8) 0 0
      | none => m) t.spad }

/-- What each of several operations leaves, when each finds what the others leave as the orders say. -/
def State.matrixRound (s : State) (l : List (Op × MatOp)) (tk : Nat) (order : Nat → List Nat) (outs : List Team) : List Team :=
  l.zipIdx.map fun x =>
    ((s.setTeam tk ((s.team tk).mix (l.map (·.2)) outs order (some x.2))).matrixEffect x.1.1 x.1.2).team tk

/-- Rounds until what the operations leave stands. -/
def State.matrixRounds (s : State) (l : List (Op × MatOp)) (tk : Nat) (order : Nat → List Nat) : Nat → List Team → List Team
  | 0, outs => outs
  | n + 1, outs =>
    let new := s.matrixRound l tk order outs
    if new = outs then outs else s.matrixRounds l tk order n new

/-- Operations of a team take effect together: every cell of an accumulator and every aligned 8-byte word of scratchpad has an order of
its own, chosen freely among those that keep R315's; an operation finds there what the last writer before it left, and the last writer of
all stands (R316).  Where orders would make a value depend on itself, the operations follow one another whole. (Log entry 12, DEDUCED.) -/
def State.matrixMeet (s : State) (l : List (Op × MatOp)) (tk : Nat) : State :=
  let c := Config.mixed (s.freeCtr + 1)
  let before (i j : Nat) : Bool := match l[i]?, l[j]? with
    | some p, some o => decide (p.1.id < o.1.id) && o.2.orderedWith p.2
    | _, _ => false
  let order (place : Nat) : List Nat := orderAt before c place l.length
  let t := s.team tk
  let ms := l.map (·.2)
  let s0 : State := { s with freeCtr := s.freeCtr + 2 }
  let outs := s.matrixRounds l tk order 8192 (l.map fun x => (s.matrixEffect x.1 x.2).team tk)
  if s.matrixRound l tk order outs = outs then
    (l.zipIdx.foldl (fun (st : State) x => (st.setTeam tk (t.mix ms outs order (some x.2))).matrixEffect x.1.1 x.1.2) s0).setTeam tk
      (t.mix ms outs order none)
  else (order 0).foldl (fun (st : State) j => match l[j]? with
    | some x => st.matrixEffect x.1 x.2
    | none => st) s0

/-- The other matrix operations of an operation's team in flight. -/
def State.partners (s : State) (o : Op) : List (Op × MatOp) :=
  s.ops.filterMap fun p => match p.kind with
    | .matrix q => if p.team == o.team && p.id != o.id then some (p, q) else none
    | _ => none

/-- The operations that take effect together with one about to complete: those of its partners that a free choice names, and that may
once what they are ordered after among them has. (Log entry 12, DEDUCED.) -/
def State.meets (s : State) (o : Op) : List (Op × MatOp) :=
  (s.partners o).foldl (fun l x =>
    if Config.mixed s.freeCtr ((o.id + x.1.id) ^ 2 + x.1.id) && s.readyAfter x.1 x.2 (o.id :: l.map (·.1.id)) then l ++ [x] else l) []

/-- An operation that has taken effect lets its flag go, and its core's need may fall (R408). -/
def State.retireMatrix (s : State) (o : Op) : State := ((s.detachOp o).dropOp o.id).noteMma o.core

/-- MATRIX_OP_COMPLETE (R316, R319): an operation that may take effect does, and lets its flag go; those that overlap it complete
with it. -/
def execMatrixOpComplete (op : Nat) (s : State) : Host.Outcome State Fault Refusal :=
  match s.op? op with
  | some o =>
    match o.kind with
    | .matrix m =>
      .next (if s.matrixReady o m then
        match s.meets o with
        | [] => (s.matrixEffect o m).retireMatrix o
        | l => (((o, m) :: l).map (·.1)).foldl State.retireMatrix (s.matrixMeet ((o, m) :: l) o.team)
      else s)
    | _ => .next s
  | none => .next s

end Sys2Proof.Machine
end

