-- ==== Sys2Proof/Machine/Matrix.lean ====
section
/-! DEFINITION. The matrix words: format words and their checks (R238, R239), MMA (R302, R303), MZERO, MLD and MST (R307,
R308), MRD (R309), PLST and PLLD (R310, R311), QTILE (R312) and MFENCE (R317). -/

namespace Sys2Proof.Machine

/-! ## Format words (R238, R239) -/

/-- A format word's fields. -/
structure FmtWord where
  gen : Nat
  sat : Bool
  rnd : Nat
  bsc : Nat
  asc : Nat
  blk : Nat
  bsm : Nat
  asm : Nat
  out : Nat
  acc : Nat
  be : Nat
  ae : Nat
  deriving DecidableEq, Repr

/-- The fields of a format word. -/
def fmtWord (x : Word) : FmtWord :=
  { gen := bits x 63 57, sat := bits x 56 56 == 1, rnd := bits x 55 54, bsc := bits x 53 46, asc := bits x 45 38,
    blk := bits x 37 36, bsm := bits x 35 34, asm := bits x 33 32, out := bits x 31 24, acc := bits x 23 16,
    be := bits x 15 8, ae := bits x 7 0 }

/-- A format-table entry of the current gang's context. -/
def State.entry (s : State) (n : Nat) : FtEntry := (s.ctx s.g.ctx).entry n
/-- A feature bit of the context is set (R379). -/
def State.feature (s : State) (n : Nat) : Bool := (s.ctx s.g.ctx).featmask.getLsbD n

/-- FMTENTRY naming an entry unless a condition holds. -/
def State.entryCheck (s : State) (n : Nat) (ok : Bool) : R Unit := if ok then .ok () else s.trapR 0x04 (BitVec.ofNat 64 n)

/-- A format word may give an entry a scale mode, whatever the word that takes it (R239, R379). -/
def State.scaleMode (s : State) (e : FtEntry) (mode : Nat) : Bool :=
  match mode with
  | 0 => true
  | 1 => e.fmt.kind != 3 && s.feature 3
  | 2 => e.fmt.kind == 3 && s.feature 4
  | _ => false

/-- A scale mode is allowed for an operand entry and block size along K (R239, R301, R379). -/
def State.scaleOk (s : State) (e : FtEntry) (mode bs k : Nat) : Bool :=
  s.scaleMode e mode && (mode != 1 || decide (bs ≤ k)) && (mode != 2 || k % 64 == 0)

/-- The vote of a format word or descriptor (R32, R239): the lowest lane's value, or a trap. (Log entry 36, DEDUCED.) -/
def State.vote (s : State) (r : VReg) (f : Word → Nat) (trap : Lanes → Word → R Unit) : R Word := do
  let bad := disagree s.exec_ r f
  let x := r.at (firstLane s.exec_)
  if bad ≠ 0 then trap bad x
  pure x

/-- FMTDIV (R239). -/
def State.fmtdiv (s : State) (bad : Lanes) (_x : Word) : R Unit := s.trapR 0x03 0 (some bad)

/-- The format word that a register holds, voted. -/
def State.voteFmt (s : State) (r : VReg) : R FmtWord := do
  let x ← s.vote r BitVec.toNat s.fmtdiv
  pure (fmtWord x)

/-- FMTSTALE when GEN is nonzero and not the captured generation (R239). -/
def State.genCheck (s : State) (w : FmtWord) : R Unit :=
  let g := (s.ctx s.g.ctx).gen
  if w.gen ≠ 0 ∧ w.gen ≠ g then s.trapR 0x05 (BitVec.ofNat 64 g) else .ok ()

/-- The scale scalar of an operand, read when its mode calls for one (R301, R303). -/
def State.scaleScalar (s : State) (mode n : Nat) : R Word := if mode = 1 ∨ mode = 2 then s.sget n else .ok 0

/-- ALIGN and PERM for scratchpad ranges (R303, R307): the offsets' alignments, then the allocation. -/
def State.spadRanges_ (s : State) (l : List (Nat × Nat × Nat)) : R Unit :=
  let size := (s.team s.g.team).spadLen
  match l.find? fun x => x.1 % x.2.2 != 0 with
  | some x => s.trapR 0x08 (BitVec.ofNat 64 x.1)
  | none =>
    match l.find? fun x => decide (size < x.1 + x.2.1) with
    | some x => s.trapR 0x0B (BitVec.ofNat 64 x.1)
    | none => .ok ()

/-- A collective word runs in all 32 lanes (R296). -/
def State.collective (s : State) : R Unit := if s.exec_ = 0xFFFFFFFF then .ok () else s.trapR 0x02 0

/-- The team declares the accumulator (R48). -/
def State.accDeclared (s : State) (k : Nat) : R Unit :=
  if k < (s.team s.g.team).accIdx.length then .ok () else s.undefWord

/-- The core's matrix queue has room (R298). -/
def State.matrixRoom (s : State) : R Unit :=
  let n := (s.ops.filter fun o => o.core == s.g.core && (match o.kind with
    | .matrix _ => true
    | _ => false)).length
  if Config.matrixQueue ≤ n then s.holdR .queue else .ok ()

/-- What a matrix word finds before it issues: room in the queue and on its flag (R77, R94, R298). -/
def State.matrixSlot (s : State) : R Unit := do
  s.matrixRoom
  s.flagRoom s.cl.setb

/-- A matrix operation enters the queue, attached to SETB (R77, R303). -/
def State.enterMatrix (s : State) (m : MatOp) : State :=
  s.issueOp (s.newOp s.cl.setb (.matrix { m with seed := s.g.seed, ctr := s.g.ctr }) [])

/-- The mode code of a RND or RM field: 5 is stochastic (R227, R238). -/
def State.rndCode (s : State) (rnd : Nat) : Nat := if rnd = 3 then 5 else s.modeCode rnd

/-- Advance the generator's counter (R292). -/
def State.advanceCtr (s : State) (n : Nat) : State := s.setG { s.g with ctr := s.g.ctr + BitVec.ofNat 64 n }

/-- No prefix field is accepted. -/
def bare : Accept := { m := false, z := false }

/-! ## MMA (R302, R303) -/

/-- The units that an MMA draws (R406). -/
def drawUnits (ae be : FtEntry) : Nat := (ae.fmt.planeCount * be.fmt.planeCount + 3) / 4

/-- MMA waits for its grant while its core's level is below its draw, and requests it (R303, R409, R410). (Log entry 47, DEDUCED.) -/
def State.grant (s : State) (d : Nat) : R Unit :=
  if d ≤ (s.core s.g.core).level then .ok () else s.requestGrant.holdR (.grant d)

/-- MMA (R302, R303). -/
def execMma (shape acc : Nat) (a b : Src) (accum : Nat) (s : State) : Host.Outcome State Fault Refusal :=
  s.conclude do
    s.accept bare
    s.accDeclared acc
    s.matrixSlot
    s.bypassCheck [(a, 0), (b, 0)]
    s.collective
    let r ← s.sources s.exec_ [(a, 0), (b, 0)]
    let w ← s.voteFmt (opnd r.2 1)
    let desc ← s.vote (opnd r.2 0) BitVec.toNat fun _ x => s.trapR 0x02 x
    let sa ← s.scaleScalar w.asm w.asc
    let sb ← s.scaleScalar w.bsm w.bsc
    let k := (shapeDims shape).2
    let ae := s.entry w.ae
    let be := s.entry w.be
    let ce := s.entry w.acc
    s.entryCheck w.ae ae.operandOk
    s.entryCheck w.be be.operandOk
    s.entryCheck w.acc ce.accOk
    s.entryCheck w.ae (s.scaleOk ae w.asm (blockSize w.blk) k)
    s.entryCheck w.be (s.scaleOk be w.bsm (blockSize w.blk) k)
    s.genCheck w
    let m : MatOp :=
      { kind := .mma (accum == 1), acc := acc, shape := shape, offA := bits desc 31 0, offB := bits desc 63 32, ae := ae, be := be,
        ce := ce, asm := w.asm, bsm := w.bsm, blk := w.blk, ascale := sa, bscale := sb, draw := drawUnits ae be }
    s.spadRanges_ (m.ranges.map fun x => (x.1, x.2, 256))
    s.grant m.draw
    pure ((r.1.enterMatrix m).noteMma s.g.core)

/-! ## MZERO, MLD and MST (R307, R308) -/

/-- MZERO (R307). -/
def execMzero (shape acc : Nat) (s : State) : Host.Outcome State Fault Refusal :=
  s.conclude do
    s.accept bare
    s.accDeclared acc
    s.matrixSlot
    s.collective
    pure (s.enterMatrix { kind := .mzero, acc := acc, shape := shape })

/-- The voted scratchpad offset of MLD and MST: bits 31:0 of A (R307). (Log entry 36, DEDUCED.) -/
def State.voteOffset (s : State) (r : VReg) : R Nat := do
  let x ← s.vote r (fun x => bits x 31 0) fun _ x => s.trapR 0x02 (BitVec.ofNat 64 (bits x 31 0))
  pure (bits x 31 0)

/-- MLD and MST.raw (R307). -/
def State.moveWord (s : State) (kind : MatKind) (shape acc : Nat) (a : Src) : Host.Outcome State Fault Refusal :=
  s.conclude do
    s.accept bare
    s.accDeclared acc
    s.matrixSlot
    s.bypassCheck [(a, 0)]
    s.collective
    let r ← s.sources s.exec_ [(a, 0)]
    let off ← s.voteOffset (opnd r.2 0)
    let m : MatOp := { kind := kind, acc := acc, shape := shape, offA := off }
    s.spadRanges_ (m.ranges.map fun x => (x.1, x.2, 256))
    pure (r.1.enterMatrix m)

/-- MLD (R307). -/
def execMld (shape acc : Nat) (a : Src) (s : State) : Host.Outcome State Fault Refusal := s.moveWord .mld shape acc a

/-- MST.raw (R307). -/
def execMstRaw (shape acc : Nat) (a : Src) (s : State) : Host.Outcome State Fault Refusal :=
  s.moveWord (.mst 4 false) shape acc a

/-- The container bytes of the T values 1 to 3 of MST and MRD (R307, R309). -/
def containerOf : Nat → Nat
  | 2 => 2
  | 3 => 1
  | _ => 4

/-- The entries of a conversion from an accumulator: ACC, OUT and the rounding (R308, R379), and the scale modes that its
format word gives AE and BE (R239).  An AE or BE that is invalid raises nothing of itself, since the conversion
uses neither. (Log entry 79, DESIGN CHOICE.) -/
def State.convertEntries (s : State) (w : FmtWord) (width rnd : Nat) : R (FtEntry × FtEntry) := do
  let ce := s.entry w.acc
  let oute := s.entry w.out
  s.entryCheck w.acc ce.accOk
  s.entryCheck w.out (oute.usable && decide (oute.fmt.width ≤ width) && (rnd != 3 || s.feature 2))
  s.entryCheck w.ae (s.scaleMode (s.entry w.ae) w.asm)
  s.entryCheck w.be (s.scaleMode (s.entry w.be) w.bsm)
  s.genCheck w
  pure (ce, oute)

/-- MST.c32, .c16 and .c8 (R307, R308). -/
def execMstConvert (shape acc : Nat) (a b : Src) (t : Nat) (s : State) : Host.Outcome State Fault Refusal :=
  s.conclude do
    s.accept bare
    s.accDeclared acc
    s.matrixSlot
    s.bypassCheck [(a, 0), (b, 0)]
    s.collective
    let r ← s.sources s.exec_ [(a, 0), (b, 0)]
    let w ← s.voteFmt (opnd r.2 1)
    let off ← s.voteOffset (opnd r.2 0)
    let c := containerOf t
    let es ← s.convertEntries w (8 * c) w.rnd
    let m : MatOp := { kind := .mst c true, acc := acc, shape := shape, offA := off, ce := es.1, oute := es.2,
                       mode := s.rndCode w.rnd, sat := w.sat }
    s.spadRanges_ (m.ranges.map fun x => (x.1, x.2, 256))
    let s1 := r.1.enterMatrix m
    pure (if m.mode = 5 then s1.advanceCtr ((regionCells shape + 31) / 32) else s1)

/-! ## MRD (R309) -/

/-- MRD (R309): `c` is the container's bytes; a conversion takes its format word from `b`.  A specification that names an accumulator
above the declared count raises UNDEF at the word (R91), every other bad one at the group. (Log entry 26, DEDUCED.) -/
def State.mrdWord (s : State) (d : Nat) (a : Src) (b : Option Src) (c : Nat) : Host.Outcome State Fault Refusal :=
  s.conclude do
    s.accept { rm := true }
    let e := 8 / c
    if s.exec_ = 0 then pure (if b.isSome then s.drawn e else s)
    else
      let srcs := (a, 0) :: (match b with
        | some x => [(x, 0)]
        | none => [])
      s.matrixSlot
      s.destReady d true
      let r ← s.sources s.exec_ srcs
      let spec ← s.vote (opnd r.2 0) BitVec.toNat fun _ _ => s.trapR 0x02 0
      let acc := bits spec 2 0
      let shape := bits spec 6 3
      let first := bits spec 18 7
      if (s.team s.g.team).accIdx.length ≤ acc then s.undefWord spec
      else if bits spec 63 19 ≠ 0 ∨ 4 < shape ∨ first % (32 * e) ≠ 0 ∨ regionCells shape < first + 32 * e then s.trapR 0x01 spec
      else
        let m0 : MatOp := { kind := .mrd d s.exec_ first c b.isSome, acc := acc, shape := shape }
        let m ← (if b.isSome then do
            let w ← s.voteFmt (opnd r.2 1)
            let rnd := if s.pfx.rm = 0 then w.rnd else s.pfx.rm
            let es ← s.convertEntries w (8 * c) w.rnd
            pure { m0 with ce := es.1, oute := es.2, mode := s.rndCode rnd, sat := w.sat }
          else pure m0)
        let s1 ← r.1.takeP d
        let s2 := s1.enterMatrix m
        pure (if m.mode = 5 then s2.advanceCtr e else s2)

/-- MRD.raw (R309). -/
def execMrdRaw (d : Nat) (a : Src) (s : State) : Host.Outcome State Fault Refusal := s.mrdWord d a none 4

/-- MRD.c32, .c16 and .c8 (R309). -/
def execMrdConvert (d : Nat) (a b : Src) (t : Nat) (s : State) : Host.Outcome State Fault Refusal :=
  s.mrdWord d a (some b) (containerOf t)

/-! ## PLST and PLLD (R310, R311) -/

/-- The descriptor of PLST and PLLD, checked (R310): the entry, the layout and START. -/
def State.planeDesc (s : State) (x : Word) (t : Nat) : R PlaneRef := do
  let e := if t = 2 then 4 else 8
  let k := 32 * 2 ^ bits x 55 54
  let rho := if bits x 53 53 = 0 then 32 else 64
  let start := bits x 47 32
  let n := bits x 63 56
  let ent := s.entry n
  if bits x 52 48 ≠ 0 ∨ start % (32 * e) ≠ 0 ∨ rho * k < start + 32 * e then s.trapR 0x01 x
  else
    s.entryCheck n (ent.operandOk && decide (ent.fmt.width ≤ 64 / e))
    let p : PlaneRef := { ent := ent, k := k, rho := rho, base := bits x 31 0, start := start, e := e }
    s.spadRanges_ [(p.base, p.lay.size, 256)]
    pure p

/-- An access of a lane to a layout: its span is the whole layout. -/
def planeItem (p : PlaneRef) (lane : Nat) : Item := { lane := lane, va := p.base, pa := p.base, w := p.lay.size }

/-- PLST (R310, R311): one scratchpad store of every executing lane's codes. -/
def execPlst (data : Nat) (a : Src) (t : Nat) (s : State) : Host.Outcome State Fault Refusal :=
  s.conclude do
    s.accept { z := false }
    if s.exec_ = 0 then pure s
    else
      s.flagRoom s.cl.setb
      let r ← s.sources s.exec_ [(a, 0), (⟨data, 0⟩, t)]
      let x ← s.vote (opnd r.2 0) BitVec.toNat fun _ _ => s.trapR 0x02 0
      let p ← s.planeDesc x t
      let w := 64 / p.e
      let ps := (lanesOf s.exec_).flatMap fun (l : Fin 32) => (List.range p.e).flatMap fun j =>
        p.lay.put (p.start + l.val * p.e + j) (elem w ((opnd r.2 1).at l.val) j % 2 ^ p.ent.fmt.width)
      pure (r.1.issueStore (r.1.newOp r.1.cl.setb (.store true) [{ planeItem p 0 with pieces := ps }]))

/-- PLLD (R310, R311). -/
def execPlld (d : Nat) (a : Src) (t : Nat) (s : State) : Host.Outcome State Fault Refusal :=
  s.conclude do
    s.accept {}
    if s.exec_ = 0 then pure s
    else
      s.flagRoom s.cl.setb
      s.destReady d true
      let r ← s.sources s.exec_ [(a, 0)]
      let x ← s.vote (opnd r.2 0) BitVec.toNat fun _ _ => s.trapR 0x02 0
      let p ← s.planeDesc x t
      let s1 ← r.1.takeP d
      let items := (lanesOf s.exec_).map fun (l : Fin 32) =>
        { planeItem p l.val with plane := some { p with start := p.start + l.val * p.e } }
      pure (s1.issueLoad (s1.newOp s1.cl.setb (.load (s1.laneDst d) 0 true) items))

/-! ## QTILE (R312) -/

/-- QTILE's checks and capture.  D is P from QTILE.max's issue until it completes, for the poison that its source holds then makes the
result P: its slab is taken here, and a result that is U frees it (R57, R312, R320). (Log entry 35, DEDUCED.)  BE is checked before AE. (Log entry
81, DESIGN CHOICE.) -/
def State.qtileWord (s : State) (kind : MatKind) (d : Nat) (a b : Src) : Host.Outcome State Fault Refusal :=
  s.conclude do
    s.accept bare
    s.matrixSlot
    s.destReady d true
    s.bypassCheck [(a, 0), (b, 0)]
    s.collective
    let r ← s.sources s.exec_ [(a, 0), (b, 0)]
    let w ← s.voteFmt (opnd r.2 1)
    let desc ← s.vote (opnd r.2 0) BitVec.toNat fun _ x => s.trapR 0x02 x
    let sa ← s.scaleScalar w.asm w.asc
    let be := s.entry w.be
    let ae := s.entry w.ae
    s.entryCheck w.be (be.usable && be.fmt.kind != 3 && decide (be.fmt.width ≤ 32))
    s.entryCheck w.ae (ae.operandOk && s.scaleOk ae w.asm (blockSize w.blk) 64 && (w.rnd != 3 || s.feature 2))
    let sv := f32 (sa.toNat % 2 ^ 32)
    s.entryCheck w.ae (w.asm != 2 || (!sv.isNan && !sv.isInf && Num.lt (.zero false) sv))
    s.genCheck w
    let m : MatOp :=
      { kind := kind, offA := bits desc 31 0, offB := bits desc 63 32, ae := ae, be := be, asm := w.asm, blk := w.blk,
        ascale := sa, mode := s.rndCode w.rnd, sat := w.sat }
    s.spadRanges_ ((m.ranges.zip [8, 256]).map fun x => (x.1.1, x.1.2, x.2))
    let s1 ← r.1.takeP d
    let s2 := s1.enterMatrix m
    pure (if kind = .qcvt ∧ m.mode = 5 then s2.advanceCtr 128 else s2)

/-- QTILE.max (R313). (Log entry 35, DEDUCED.) -/
def execQtileMax (d : Nat) (a b : Src) (s : State) : Host.Outcome State Fault Refusal := s.qtileWord (.qmax d) d a b

/-- QTILE.cvt (R314). -/
def execQtileCvt (a b : Src) (s : State) : Host.Outcome State Fault Refusal := s.qtileWord .qcvt 112 a b

/-! ## MFENCE (R317) -/

/-- MFENCE (R317): the gang's, or the team's, matrix operations issued before it complete.  An operation of another gang
issued after the fence began is not waited for. -/
def execMfence (scope : Nat) (s : State) : Host.Outcome State Fault Refusal :=
  let upto := match s.g.wait with
    | .mfence n => n
    | _ => s.nextOp
  let busy := s.ops.any fun o => decide (o.id < upto) && (o.gang == s.cur || (scope == 1 && o.team == s.g.team)) &&
    (match o.kind with
      | .matrix _ => true
      | _ => false)
  s.conclude (if busy then s.holdR (.mfence upto) else .ok s)

end Sys2Proof.Machine
end

