-- ==== Sys2Proof/Machine/Flight.lean ====
section
/-! DEFINITION. The steps that perform accesses in flight (R138 to R147, R216): LOAD_MISS_SERVE, LOAD_COMPLETE,
STORE_PERFORMED, STORE_ACK and LEASE_EXPIRY.  A step whose condition does not hold leaves the state as it is (log
entry 10). -/

namespace Sys2Proof.Machine

/-- An item of an operation may be performed now (R145, R170, R367). -/
def State.mayPerform (s : State) (o : Op) (idx : Nat) (i : Item) : Bool := s.itemReady o idx i && !s.matrixAhead o i



/-- A prefetched line arrives: it is installed in L1, unless it is poisoned, and the request is over (R183). -/
def State.servePrefetch (s : State) (o : Op) (i : Item) (evict evictL2 : List Nat) : State :=
  let c := s.ctx o.ctx
  let s1 := s.own c.num (i.pa / 65536) i.shared
  if s1.mem.poisoned (i.pa / 128 * 128) 128 then s1.dropOp o.id
  else (s1.serveLoad o 0 i evict evictL2).dropOp o.id

/-- LOAD_MISS_SERVE (R138, R140, R183): a home bank, or a scratchpad bank, serves one access of a load, or a prefetch, with
the lines of L1 and of L2 that make room for it. -/
def execLoadMissServe (op item : Nat) (evict evictL2 : List Nat) (s : State) : Host.Outcome State Fault Refusal :=
  match s.op? op with
  | some o =>
    match o.items[item]? with
    | some i =>
      .next (if s.mayPerform o item i && (o.kind.onSpad || (s.core o.core).l1Room (i.pa / 128) evict) then
          if o.kind == .prefetch then s.servePrefetch o i evict evictL2
          else if o.kind.isLoad then s.serveLoad o item i evict evictL2 else s
        else s)
    | none => .next s
  | none => .next s

/-- LOAD_COMPLETE (R216): every lane's value is written. -/
def execLoadComplete (op : Nat) (s : State) : Host.Outcome State Fault Refusal :=
  match s.op? op with
  | some o => .next (if o.kind.isLoad && o.allDone then s.completeLoad o else s)
  | none => .next s

/-- STORE_PERFORMED (R138, R141): a store's or an atomic's access takes effect at its bank. -/
def execStorePerformed (op item : Nat) (s : State) : Host.Outcome State Fault Refusal :=
  match s.op? op with
  | some o =>
    match o.items[item]? with
    | some i => .next (if o.kind.isAccess && !o.kind.isLoad && s.mayPerform o item i then s.performItem o item i else s)
    | none => .next s
  | none => .next s

/-- STORE_ACK (R141, R216): a store or atomic all of whose accesses are performed is acknowledged. -/
def execStoreAck (op : Nat) (s : State) : Host.Outcome State Fault Refusal :=
  match s.op? op with
  | some o => .next (if o.kind.isAccess && !o.kind.isLoad && o.allDone then s.ackOp o else s)
  | none => .next s

/-- LEASE_EXPIRY (R140): a line whose lease has ended leaves L1. -/
def execLeaseExpiry (core ctx line : Nat) (s : State) : Host.Outcome State Fault Refusal :=
  let c := s.core core
  .next (s.setCore core { c with l1 := c.l1.filter fun x =>
    !(x.ctx == ctx && x.line == line && decide (x.expiry ≤ s.ns)) })

end Sys2Proof.Machine
end

