-- ==== Sys2Proof/Machine/Integer.lean ====
section
/-! DEFINITION. The integer, logic, shift, bit-field, selection, compare, address and move words (R247 to R256). -/

namespace Sys2Proof.Machine

/-- An element read as signed or unsigned. -/
def elemInt (signed : Bool) (w : Nat) (x : Word) (j : Nat) : Int :=
  if signed then signedOf w (elem w x j) else (elem w x j : Nat)

/-- One lane of an integer word (R247): each element exactly, clamped under SAT with FS and NX (R248). -/
def intLane (t : Nat) (signed sat : Bool) (f : Int → Int → Int → Int) (a b c : Word) : Word × Byte :=
  let w := viewWidth t
  let hi : Int := ((2 ^ (w - 1) : Nat) : Int) - 1
  let lo : Int := -((2 ^ (w - 1) : Nat) : Int)
  let r (j : Nat) : Int := f (elemInt signed w a j) (elemInt signed w b j) (elemInt signed w c j)
  let clamp (x : Int) : Int := if sat then (if hi < x then hi else if x < lo then lo else x) else x
  let hit := sat && (List.range (64 / w)).any fun j => decide (hi < r j) || decide (r j < lo)
  (packElems w fun j => (clamp (r j) % (2 ^ w : Nat)).toNat, if hit then fFS ||| fNX else fNone)

/-- An integer word over its operands, with R55's affine rows where they apply. -/
def intWord (s : State) (t : Nat) (signed : Bool) (aff : List VReg → Option VReg) (f : Int → Int → Int → Int)
    (xs : List VReg) : Computed :=
  let sat := s.pfx.sat == 1
  let lane := laneWise xs false fun l => intLane t signed sat f ((opnd xs 0).at l) ((opnd xs 1).at l) ((opnd xs 2).at l)
  if t = 0 ∧ !sat then
    match aff xs with
    | some r => (r, fun _ => fNone)
    | none => lane
  else lane

/-- The affine row of two operands. -/
def aff2 (f : VReg → VReg → Option VReg) (xs : List VReg) : Option VReg := f (opnd xs 0) (opnd xs 1)
/-- No affine row. -/
def affNone (_ : List VReg) : Option VReg := none
/-- IMAD's composition of the IMUL row with the IADD row (R55). -/
def affMad (xs : List VReg) : Option VReg :=
  match affMul (opnd xs 0) (opnd xs 1) with
  | some p => affAdd p (opnd xs 2)
  | none => none

/-- IADD (R249). -/
def execIadd (d : Nat) (a b : Src) (t : Nat) (s : State) : Host.Outcome State Fault Refusal :=
  s.laneWord { nf := true, sat := true } d [(a, t), (b, t)] fun st xs =>
    .ok (st, intWord s t true (aff2 affAdd) (fun x y _ => x + y) xs)

/-- ISUB (R249). -/
def execIsub (d : Nat) (a b : Src) (t : Nat) (s : State) : Host.Outcome State Fault Refusal :=
  s.laneWord { nf := true, sat := true } d [(a, t), (b, t)] fun st xs =>
    .ok (st, intWord s t true (aff2 affSub) (fun x y _ => x - y) xs)

/-- IMUL (R249). -/
def execImul (d : Nat) (a b : Src) (t : Nat) (s : State) : Host.Outcome State Fault Refusal :=
  s.laneWord { nf := true, sat := true } d [(a, t), (b, t)] fun st xs =>
    .ok (st, intWord s t true (aff2 affMul) (fun x y _ => x * y) xs)

/-- IMULH (R249): the high half of the signed product. -/
def execImulh (d : Nat) (a b : Src) (t : Nat) (s : State) : Host.Outcome State Fault Refusal :=
  s.laneWord {} d [(a, t), (b, t)] fun st xs =>
    .ok (st, intWord s t true affNone (fun x y _ => (x * y) / (2 ^ viewWidth t : Nat)) xs)

/-- IMULHU (R249): the high half of the unsigned product. -/
def execImulhu (d : Nat) (a b : Src) (t : Nat) (s : State) : Host.Outcome State Fault Refusal :=
  s.laneWord {} d [(a, t), (b, t)] fun st xs =>
    .ok (st, intWord s t false affNone (fun x y _ => (x * y) / (2 ^ viewWidth t : Nat)) xs)

/-- IMAD (R249): a·b + c, c the prefix's operand. -/
def execImad (d : Nat) (a b : Src) (t : Nat) (s : State) : Host.Outcome State Fault Refusal :=
  s.laneWord { nf := true, sat := true, c := true } d [(a, t), (b, t)] fun st xs =>
    .ok (st, intWord s t true affMad (fun x y z => x * y + z) xs)

/-- IMIN (R249). -/
def execImin (d : Nat) (a b : Src) (t : Nat) (s : State) : Host.Outcome State Fault Refusal :=
  s.laneWord {} d [(a, t), (b, t)] fun st xs => .ok (st, intWord s t true affNone (fun x y _ => if y < x then y else x) xs)

/-- IMAX (R249). -/
def execImax (d : Nat) (a b : Src) (t : Nat) (s : State) : Host.Outcome State Fault Refusal :=
  s.laneWord {} d [(a, t), (b, t)] fun st xs => .ok (st, intWord s t true affNone (fun x y _ => if x < y then y else x) xs)

/-- IMINU (R249). -/
def execIminu (d : Nat) (a b : Src) (t : Nat) (s : State) : Host.Outcome State Fault Refusal :=
  s.laneWord {} d [(a, t), (b, t)] fun st xs => .ok (st, intWord s t false affNone (fun x y _ => if y < x then y else x) xs)

/-- IMAXU (R249). -/
def execImaxu (d : Nat) (a b : Src) (t : Nat) (s : State) : Host.Outcome State Fault Refusal :=
  s.laneWord {} d [(a, t), (b, t)] fun st xs => .ok (st, intWord s t false affNone (fun x y _ => if x < y then y else x) xs)

/-- IABS (R249). -/
def execIabs (d : Nat) (a : Src) (t : Nat) (s : State) : Host.Outcome State Fault Refusal :=
  s.laneWord { nf := true, sat := true } d [(a, t)] fun st xs =>
    .ok (st, intWord s t true affNone (fun x _ _ => (x.natAbs : Int)) xs)

/-! ## Logic, shifts and bit counts (R250) -/

/-- A word that computes each element as an unsigned number. -/
def bitWord (t : Nat) (f : Nat → Nat → Nat → Nat) (xs : List VReg) : Computed :=
  let w := viewWidth t
  laneWise xs false fun l =>
    (packElems w fun j => f w (elem w ((opnd xs 0).at l) j) (elem w ((opnd xs 1).at l) j), fNone)

/-- AND (R250). -/
def execAndw (d : Nat) (a b : Src) (t : Nat) (s : State) : Host.Outcome State Fault Refusal :=
  s.laneWord {} d [(a, t), (b, t)] fun st xs => .ok (st, bitWord t (fun _ x y => x &&& y) xs)

/-- OR (R250). -/
def execOrw (d : Nat) (a b : Src) (t : Nat) (s : State) : Host.Outcome State Fault Refusal :=
  s.laneWord {} d [(a, t), (b, t)] fun st xs => .ok (st, bitWord t (fun _ x y => x ||| y) xs)

/-- XOR (R250). -/
def execXorw (d : Nat) (a b : Src) (t : Nat) (s : State) : Host.Outcome State Fault Refusal :=
  s.laneWord {} d [(a, t), (b, t)] fun st xs => .ok (st, bitWord t (fun _ x y => x ^^^ y) xs)

/-- ANDN (R250): a AND NOT b. -/
def execAndn (d : Nat) (a b : Src) (t : Nat) (s : State) : Host.Outcome State Fault Refusal :=
  s.laneWord {} d [(a, t), (b, t)] fun st xs => .ok (st, bitWord t (fun w x y => x &&& (2 ^ w - 1 - y)) xs)

/-- SHL (R250), with R55's affine row. -/
def execShl (d : Nat) (a b : Src) (t : Nat) (s : State) : Host.Outcome State Fault Refusal :=
  s.laneWord {} d [(a, t), (b, t)] fun st xs =>
    let lane := bitWord t (fun w x k => if w ≤ k then 0 else x <<< k) xs
    .ok (st, if t = 0 then (match affShl (opnd xs 0) (opnd xs 1) with
      | some r => (r, fun _ => fNone)
      | none => lane) else lane)

/-- SHR (R250). -/
def execShr (d : Nat) (a b : Src) (t : Nat) (s : State) : Host.Outcome State Fault Refusal :=
  s.laneWord {} d [(a, t), (b, t)] fun st xs => .ok (st, bitWord t (fun w x k => if w ≤ k then 0 else x >>> k) xs)

/-- SAR (R250): the sign bit enters. -/
def execSar (d : Nat) (a b : Src) (t : Nat) (s : State) : Host.Outcome State Fault Refusal :=
  s.laneWord {} d [(a, t), (b, t)] fun st xs =>
    .ok (st, bitWord t (fun w x k => ((signedOf w x / (2 ^ min k w : Nat)) % (2 ^ w : Nat)).toNat) xs)

/-- ROL (R250). -/
def execRol (d : Nat) (a b : Src) (t : Nat) (s : State) : Host.Outcome State Fault Refusal :=
  s.laneWord {} d [(a, t), (b, t)] fun st xs =>
    .ok (st, bitWord t (fun w x k => (x <<< (k % w)) % 2 ^ w ||| x >>> (w - k % w)) xs)

/-- The one bits of a number of `w` bits. -/
def popCount (w x : Nat) : Nat := ((List.range w).filter fun i => x.testBit i).length

/-- POPC (R250). -/
def execPopc (d : Nat) (a : Src) (t : Nat) (s : State) : Host.Outcome State Fault Refusal :=
  s.laneWord {} d [(a, t)] fun st xs => .ok (st, bitWord t (fun w x _ => popCount w x) xs)

/-- CLZ (R250). -/
def execClz (d : Nat) (a : Src) (t : Nat) (s : State) : Host.Outcome State Fault Refusal :=
  s.laneWord {} d [(a, t)] fun st xs =>
    .ok (st, bitWord t (fun w x _ => if x = 0 then w else w - 1 - Nat.log2 x) xs)

/-! ## Bit fields (R251) -/

/-- The extracted field of BFX. -/
def bfxElem (w p n sx x : Nat) : Nat :=
  if w ≤ p ∨ n = 0 then 0
  else
    let m := min n (w - p)
    let f := x / 2 ^ p % 2 ^ m
    if sx = 1 then (signedOf m f % (2 ^ w : Nat)).toNat else f

/-- The element of BFI. -/
def bfiElem (w p n x c : Nat) : Nat :=
  if w ≤ p ∨ n = 0 then x
  else
    let m := min n (w - p)
    x - (x / 2 ^ p % 2 ^ m) * 2 ^ p + (c % 2 ^ m) * 2 ^ p

/-- BFX (R251); its specification is read through the i64 view. -/
def execBfx (d : Nat) (a b : Src) (t : Nat) (s : State) : Host.Outcome State Fault Refusal :=
  s.laneWord {} d [(a, t), (b, 0)] fun st xs =>
    .ok (st, laneWise xs false fun l =>
      let sp := (opnd xs 1).at l
      let w := viewWidth t
      (packElems w fun j => bfxElem w (bits sp 7 0) (bits sp 15 8) (bits sp 16 16) (elem w ((opnd xs 0).at l) j), fNone))

/-- BFI (R251): the insert value is the prefix's operand. -/
def execBfi (d : Nat) (a b : Src) (t : Nat) (s : State) : Host.Outcome State Fault Refusal :=
  s.laneWord { c := true } d [(a, t), (b, 0)] fun st xs =>
    .ok (st, laneWise xs false fun l =>
      let sp := (opnd xs 1).at l
      let w := viewWidth t
      (packElems w fun j =>
        bfiElem w (bits sp 7 0) (bits sp 15 8) (elem w ((opnd xs 0).at l) j) (elem w ((opnd xs 2).at l) j), fNone))

/-! ## Selection, comparison, address and move -/

/-- SEL (R252), with its rule of R55: two equal U, or two equal A, give that shape. -/
def execSel (d : Nat) (a b : Src) (k : Nat) (s : State) : Host.Outcome State Fault Refusal :=
  s.laneWord {} d [(a, 0), (b, 0)] fun st xs =>
    let x := opnd xs 0
    let y := opnd xs 1
    .ok (st, (if !x.isP && x = y then x
      else perLane fun l => if inSet (s.mask k) l then x.at l else y.at l), fun _ => fNone)

/-- ICMP (R253): a mask bit is set when the condition holds for every element of the lane. -/
def execIcmp (cond k : Nat) (a b : Src) (t : Nat) (s : State) : Host.Outcome State Fault Refusal :=
  s.conclude do
    s.accept {}
    if s.exec_ = 0 then s.noLanes false
    else
      let r ← s.sources s.exec_ [(a, t), (b, t)]
      let w := viewWidth t
      pure (r.1.mput k fun l => (List.range (64 / w)).all fun j =>
        let x := elem w ((opnd r.2 0).at l) j
        let y := elem w ((opnd r.2 1).at l) j
        icmpHolds cond (signedOf w x) (signedOf w y) x y)

/-- LEA (R254): the SHL row composed with the IADD row. -/
def execLea (d : Nat) (a b : Src) (k : Nat) (s : State) : Host.Outcome State Fault Refusal :=
  s.laneWord {} d [(a, 0), (b, 0)] fun st xs =>
    let aff := match affShl (opnd xs 0) (.u (BitVec.ofNat 64 k)) with
      | some p => affAdd p (opnd xs 1)
      | none => none
    .ok (st, match aff with
      | some r => (r, fun _ => fNone)
      | none => (perLane fun l => ((opnd xs 0).at l <<< k) + (opnd xs 1).at l, fun _ => fNone))

/-- MOV (R255): the source's shape and contents. -/
def execMov (d : Nat) (a : Src) (s : State) : Host.Outcome State Fault Refusal :=
  s.laneWord {} d [(a, 0)] fun st xs => .ok (st, opnd xs 0, fun _ => fNone)

/-- AFF (R256): a base and a stride that are U make A. -/
def execAff (d : Nat) (a b : Src) (s : State) : Host.Outcome State Fault Refusal :=
  s.laneWord {} d [(a, 0), (b, 0)] fun st xs =>
    .ok (st, (match opnd xs 0, opnd xs 1 with
      | .u x, .u y => .a x y
      | x, y => perLane fun l => x.at l + BitVec.ofNat 64 l * y.at l), fun _ => fNone)

end Sys2Proof.Machine
end

