-- ==== Sys2Proof/Machine/Elementary.lean ====
section
/-! DEFINITION. The functions of the special-function unit as values (R285, R286): square roots exact to a sticky
bit beyond any entry's precision, and EXP2, LOG2, SIN, COS and TANH rounded to nearest-even at 68 significand
bits from enclosing intervals of rising precision. -/

namespace Sys2Proof.Machine

/-- The integer square root of `x`, one bit at a time from bit `k - 1` down. -/
def isqrt (x : Nat) : Nat → Nat → Nat
  | 0, acc => acc
  | k + 1, acc => if (acc + 2 ^ k) * (acc + 2 ^ k) ≤ x then isqrt x k (acc + 2 ^ k) else isqrt x k acc

/-- The square root of `n / d * 2^e`, as an exact value or as the midpoint of an interval of more than 128
significand bits that holds it. -/
def sqrtFrac (n d : Nat) (e : Int) : Num :=
  let n1 := if e % 2 = 0 then n else 2 * n
  let e1 := if e % 2 = 0 then e else e - 1
  let k := (264 + Nat.log2 d - Nat.log2 n1) / 2 + 1
  let num := n1 * 2 ^ (2 * k)
  let x := num / d
  let r := isqrt x (Nat.log2 x / 2 + 1) 0
  if r * r = x ∧ num % d = 0 then .fin false r 1 (e1 / 2 - k) else .fin false (2 * r + 1) 1 (e1 / 2 - k - 1)

/-- `2^p * atan (1 / k)` to within the number of terms summed. -/
def atanTerms (k2 : Nat) : Nat → Nat → Nat → Bool → Int
  | 0, _, _, _ => 0
  | fuel + 1, t, j, neg =>
    if t = 0 then 0
    else Num.signed neg (t / j) + atanTerms k2 fuel (t / k2) (j + 2) (!neg)

/-- `2^p * atan (1 / k)`, within `p`. -/
def atanInv (k p : Nat) : Int := atanTerms (k * k) p (2 ^ p / k) 1 false

/-- `2^p * pi`, within `20 * p`. -/
def piFix (p : Nat) : Int := 16 * atanInv 5 p - 4 * atanInv 239 p

/-- The sum of `t / j` over odd `j`, each term `z * z / 2^(2p)` times the one before. -/
def atanhTerms (p z2 : Nat) : Nat → Nat → Nat → Nat
  | 0, _, _ => 0
  | fuel + 1, t, j => if t = 0 then 0 else t / j + atanhTerms p z2 fuel (t * z2 / 2 ^ p) (j + 2)

/-- `2^p * 2 * atanh (z / 2^p)` for `z` at most `2^p / 3`, within `8 * p`. -/
def atanh2 (p z : Nat) : Nat := 2 * atanhTerms p (z * z / 2 ^ p) p z 1

/-- `2^p * ln 2`, within `8 * p`. -/
def ln2Fix (p : Nat) : Nat := atanh2 p (2 ^ p / 3)

/-- The Taylor sum of the exponential. -/
def expTerms (p x : Nat) : Nat → Nat → Nat → Nat
  | 0, _, _ => 0
  | fuel + 1, t, j => if t = 0 then 0 else t + expTerms p x fuel (t * x / 2 ^ p / (j + 1)) (j + 1)

/-- `2^p * exp (x / 2^p)` for `x` below `2^p`, within `4 * p`. -/
def expFix (p x : Nat) : Nat := expTerms p x p (2 ^ p) 0

/-- The alternating Taylor sum of sine (from `j = 1`) or cosine (from `j = 0`). -/
def trigTerms (p x2 : Nat) : Nat → Nat → Nat → Bool → Int
  | 0, _, _, _ => 0
  | fuel + 1, t, j, neg =>
    if t = 0 then 0
    else Num.signed neg t + trigTerms p x2 fuel (t * x2 / 2 ^ p / ((j + 1) * (j + 2))) (j + 2) (!neg)

/-- `2^p * sin (x / 2^p)` for `x` of at most `2^p`. -/
def sinFix (p x : Nat) : Int := trigTerms p (x * x / 2 ^ p) p x 1 false
/-- `2^p * cos (x / 2^p)` for `x` of at most `2^p`. -/
def cosFix (p x : Nat) : Int := trigTerms p (x * x / 2 ^ p) p (2 ^ p) 0 false

/-- The interval `(a ± err) * 2^e` as two values. -/
def around (a : Int) (err : Nat) (e : Int) : Num × Num :=
  (.ofFrac (a - err) 1 e false, .ofFrac (a + err) 1 e false)

/-- The precisions tried, in bits. -/
def precisions : List Nat := [192, 384, 768, 1536, 3072]

/-- The value at 68 bits on which both ends of an enclosing interval agree. -/
def settle (f : Nat → Num × Num) : Num :=
  match (precisions.map f).find? fun i => Num.eqv (Num.roundBits 68 i.1) (Num.roundBits 68 i.2) with
  | some i => Num.roundBits 68 i.1
  | none => Num.roundBits 68 (f 3072).1

/-- EXP2 of the signed fraction `i / d` (R286). -/
def exp2Frac (i : Int) (d : Nat) : Num :=
  let k := i / (d : Int)
  let r := (i % (d : Int)).toNat
  if 40000 < k then .fin false 1 1 40000
  else if k < -40000 then .fin false 1 1 (-40000)
  else if r = 0 then .fin false 1 1 k
  else settle fun p => around (expFix p (r * ln2Fix p / d) : Nat) (64 * p) (k - p)

/-- LOG2 of the positive fraction `n / d` times `2^e` (R286). -/
def log2Frac (n d : Nat) (e : Int) : Num :=
  let k := floorLog2 n d
  let nd := scaled n d (-k)
  if nd.1 = nd.2 then .ofInt (k + e)
  else settle fun p =>
    let z := (nd.1 - nd.2) * 2 ^ p / (nd.1 + nd.2)
    around ((k + e) * (2 ^ p : Nat) + (atanh2 p z * 2 ^ p / ln2Fix p : Nat)) (64 * p) (-(p : Int))

/-- The quadrant and the reduced argument of `n / d`, at `p` bits: `n / d = q * pi / 2 + r` with `r` in
`[0, pi / 2)`, `r` within `2^16` units. -/
def reduceTrig (p n d : Nat) : Nat × Nat :=
  let big := p + Nat.log2 (n / d + 1) + 8
  let half := ((piFix (big + 16)).toNat) / 2
  let x := n * 2 ^ (big + 16) / d
  (x / half, x % half / 2 ^ (big + 16 - p))

/-- SIN (or, with `quarter` 1, COS) of a signed fraction (R286). -/
def trigFrac (quarter : Nat) (neg : Bool) (n d : Nat) : Num :=
  settle fun p =>
    let qr := reduceTrig p n d
    let half := ((piFix (p + 16)).toNat) / 2 ^ 17
    let q := (qr.1 + quarter) % 4
    -- in an odd quadrant the value is that of the complement
    let v : Int := if q % 2 = 0 then sinFix' p half qr.2 else cosFix' p half qr.2
    let s := (decide (2 ≤ q)) != (neg && quarter == 0)
    around (if s then -v else v) (2 ^ 18) (-(p : Int))
where
  /-- sine of `r` in `[0, pi / 2)`, through the complement above `pi / 4` -/
  sinFix' (p half r : Nat) : Int := if 2 * r ≤ half then sinFix p r else cosFix p (half - r)
  /-- cosine of `r` in `[0, pi / 2)`, through the complement above `pi / 4` -/
  cosFix' (p half r : Nat) : Int := if 2 * r ≤ half then cosFix p r else sinFix p (half - r)

/-- TANH of the positive fraction `n / d` (R286). -/
def tanhFrac (n d : Nat) : Num :=
  if 200 * d ≤ n then .fin false 1 1 0
  else settle fun p =>
    let l := ln2Fix p
    let x := 2 * n * 2 ^ p / d
    let k := x / l
    let t := 2 ^ p * 2 ^ p / expFix p (x % l) / 2 ^ k
    around ((2 ^ p - t) * 2 ^ p / (2 ^ p + t) : Nat) (4096 * p) (-(p : Int))

/-- The magnitude is so small that SIN and TANH round to the operand and COS to 1 at 68 bits. -/
def tiny (n d : Nat) (e : Int) : Bool := decide (floorLog2 n d + e < -40)

end Sys2Proof.Machine
end

