-- ==== Sys2Proof/Machine/Sfu.lean ====
section
/-! DEFINITION. The special-function words (R283 to R291, R293): correctly rounded quotients and roots, the
elementary functions, ACT, CATS and RNG; the sticky-flag words XFR and XFC (R237); and SFU_COMPLETE (R284). -/

namespace Sys2Proof.Machine

/-! ## Issue and completion (R284) -/

/-- Issue a special-function word's result: D must be available, its slab is taken, and the word attaches to SETA
(R57, R284). -/
def State.sfuIssue (s : State) (d : Nat) (r : VReg) (kind : Option VReg → OpKind) : R State :=
  if d < 96 then do
    s.ready (s.vBusy d)
    let old := s.g.vreg d
    let fin := mergeReg old r s.g.live s.exec_ s.zeroed
    s.needSlab old fin
    let g := s.g.setV d (if fin.isP then .p old.lanes else old)
    let s1 := s.setG { g with staged := g.staged.filter fun n => !(n == d) }
    pure (s1.issueOp (s1.newOp s.cl.seta (kind (some fin)) []))
  else pure (s.issueOp (s.newOp s.cl.seta (kind none) []))

/-- The flags a word delivers: those of its executing lanes, none under NF (R235). -/
def State.flagVec (s : State) (f : LaneFlags) : Vector Byte 32 :=
  Vector.ofFn fun l => if inSet s.exec_ l && s.pfx.nf == 0 then f l else 0

/-- The frame of a special-function word (R274, R284, R295). -/
def State.sfuWord (s : State) (k : Accept) (d t : Nat) (srcs : List Src) (header : R Unit) (bank : Option Nat)
    (op : Fmt → (Nat → Nat → Mode) → Bool → Nat → Nat → List Nat → Rounded) : Host.Outcome State Fault Refusal :=
  s.conclude do
    s.accept k
    let views := srcs.map fun a => (a, t)
    if s.exec_ = 0 then pure (s.drawn (viewCount t))
    else
      s.flagRoom s.cl.seta
      let value (f : Fmt) : List VReg → Computed := floatWord t f s.stoch (op f s.modeAt (s.pfx.sat == 1))
      State.stallFirst (fun _ => s.destReady d (s.widens d (s.shown views)
          ((s.captureEntry t).map fun f => (value f (s.shown views)).1))) do
        s.bypassCheck views
        let f ← s.captureEntry t
        header
        let r ← s.sources s.exec_ views
        let c := value f r.2
        -- an enabled flag raises ARITH before anything is written (R236, R284)
        let _ ← r.1.flags c.2
        (r.1.drawn (viewCount t)).sfuIssue d c.1 fun fin => .sfu d fin (s.flagVec c.2) bank

/-- The operation is a special-function word's. -/
def OpKind.isSfu : OpKind → Bool
  | .sfu .. | .xfc .. => true
  | _ => false

/-- The result of a special-function word is written, its flags delivered, and its flag let go (R284). -/
def State.sfuDone (s : State) (o : Op) : State :=
  let put (d : Nat) (fin : Option VReg) (g : Gang) : Gang := match fin with
    | some r => g.setV d r
    | none => g
  let g := s.gang o.gang
  let g1 := match o.kind with
    | .sfu d fin flags _ => (put d fin g).raise fun l => flags.toList.getD l 0
    | .xfc d fin => put d fin g
    | _ => g
  ((s.setGang o.gang g1).detachOp o).dropOp o.id

/-- SFU_COMPLETE (R284): the gang's oldest special-function word completes. -/
def execSfuComplete (op : Nat) (s : State) : Host.Outcome State Fault Refusal :=
  match s.op? op with
  | some o =>
    if o.kind.isSfu && !(s.ops.any fun p => p.gang == o.gang && p.kind.isSfu && decide (p.id < o.id)) then .next (s.sfuDone o)
    else .next s
  | none => .next s

/-! ## Correctly rounded words (R285) -/

/-- Round an infinite result of a division by zero: DZ is set, in place of OF in an entry without infinities. -/
def dzRound (f : Fmt) (v : Num) (mode : Mode) (sat : Bool) : Rounded :=
  let r := f.round v mode sat
  (r.1, (r.2 &&& ~~~fOF) ||| fDZ)

/-- a / b (R285). -/
def divOp (f : Fmt) (mode : Mode) (sat : Bool) (a b : Num) : Rounded :=
  let v := Num.div a b
  if v.isInf && !a.isInf then dzRound f v mode sat else roundOp f v [a, b] mode sat

/-- The square root of a value (R285). -/
def sqrtNum : Num → Num
  | .nan s => .nan s
  | .inf neg => if neg then .nan false else .inf false
  | .fin neg n d e => if n = 0 then .zero neg else if neg then .nan false else sqrtFrac n d e

/-- 1 / √a (R285). -/
def rsqOp (f : Fmt) (mode : Mode) (sat : Bool) (a : Num) : Rounded :=
  match a with
  | .fin neg n d e =>
    if n = 0 then dzRound f (.inf neg) mode sat
    else if neg then roundOp f (.nan false) [a] mode sat
    -- the root of the reciprocal, exact or to a sticky bit
    else roundOp f (sqrtFrac d n (-e)) [a] mode sat
  | .inf neg => roundOp f (if neg then .nan false else .zero false) [a] mode sat
  | .nan _ => roundOp f a [a] mode sat

/-- RCP (R285). -/
def execRcp (d : Nat) (a : Src) (t : Nat) (s : State) : Host.Outcome State Fault Refusal :=
  s.sfuWord fpAccept d t [a] (.ok ()) none fun f mode sat j l cs => divOp f (mode j l) sat (.ofInt 1) (f.value (codeAt cs 0))

/-- RSQ (R285). -/
def execRsq (d : Nat) (a : Src) (t : Nat) (s : State) : Host.Outcome State Fault Refusal :=
  s.sfuWord fpAccept d t [a] (.ok ()) none fun f mode sat j l cs => rsqOp f (mode j l) sat (f.value (codeAt cs 0))

/-- SQRT (R285). -/
def execSqrt (d : Nat) (a : Src) (t : Nat) (s : State) : Host.Outcome State Fault Refusal :=
  s.sfuWord fpAccept d t [a] (.ok ()) none fun f mode sat j l cs =>
    let v := f.value (codeAt cs 0)
    roundOp f (sqrtNum v) [v] (mode j l) sat

/-- FDIV (R285). -/
def execFdiv (d : Nat) (a b : Src) (t : Nat) (s : State) : Host.Outcome State Fault Refusal :=
  s.sfuWord fpAccept d t [a, b] (.ok ()) none fun f mode sat j l cs =>
    divOp f (mode j l) sat (f.value (codeAt cs 0)) (f.value (codeAt cs 1))

/-! ## Elementary functions (R286) -/

/-- A function's value to 68 bits, the flags its special case sets, and whether it is inexact. -/
structure Elem68 where
  y : Num
  flags : Byte := 0
  inexact : Bool := false
  deriving DecidableEq, Repr

/-- Round an elementary function's value (R286). -/
def roundElem (f : Fmt) (v : Num) (x : Elem68) (mode : Mode) (sat : Bool) : Rounded :=
  let r := roundOp f x.y [v] mode sat
  (r.1, r.2 ||| x.flags ||| (if x.inexact then fNX else fNone))

/-- 2^a (R286). -/
def exp2Num : Num → Elem68
  | .nan s => { y := .nan s }
  | .inf neg => { y := if neg then .zero false else .inf false }
  | .fin neg n d e =>
    let nd := scaled n d e
    { y := exp2Frac (Num.signed neg nd.1) nd.2, inexact := nd.1 % nd.2 != 0 }

/-- The value is a power of two. -/
def isPow2 (n d : Nat) : Bool :=
  let nd := scaled n d (-(floorLog2 n d))
  nd.1 == nd.2

/-- log2 a (R286). -/
def log2Num : Num → Elem68
  | .nan s => { y := .nan s }
  | .inf neg => { y := if neg then .nan false else .inf false }
  | .fin neg n d e =>
    if n = 0 then { y := .inf true, flags := fDZ }
    else if neg then { y := .nan false }
    else { y := log2Frac n d e, inexact := !isPow2 n d }

/-- sin a (R286). -/
def sinNum : Num → Elem68
  | .nan s => { y := .nan s }
  | .inf _ => { y := .nan false }
  | .fin neg n d e =>
    if n = 0 then { y := .zero neg }
    else
      let nd := scaled n d e
      { y := if tiny n d e then .fin neg n d e else trigFrac 0 neg nd.1 nd.2, inexact := true }

/-- cos a (R286). -/
def cosNum : Num → Elem68
  | .nan s => { y := .nan s }
  | .inf _ => { y := .nan false }
  | .fin neg n d e =>
    if n = 0 then { y := .ofInt 1 }
    else
      let nd := scaled n d e
      { y := if tiny n d e then .ofInt 1 else trigFrac 1 neg nd.1 nd.2, inexact := true }

/-- tanh a (R286). -/
def tanhNum : Num → Elem68
  | .nan s => { y := .nan s }
  | .inf neg => { y := .ofInt (if neg then -1 else 1) }
  | .fin neg n d e =>
    if n = 0 then { y := .zero neg }
    else
      let nd := scaled n d e
      let m := if tiny n d e then .fin false n d e else tanhFrac nd.1 nd.2
      { y := if neg then m.neg else m, inexact := true }

/-- A word of one elementary function. -/
def State.elemWord (s : State) (d : Nat) (a : Src) (t : Nat) (fn : Num → Elem68) : Host.Outcome State Fault Refusal :=
  s.sfuWord fpAccept d t [a] (.ok ()) none fun f mode sat j l cs =>
    let v := f.value (codeAt cs 0)
    roundElem f v (fn v) (mode j l) sat

/-- EXP2 (R286). -/
def execExp2 (d : Nat) (a : Src) (t : Nat) (s : State) : Host.Outcome State Fault Refusal := s.elemWord d a t exp2Num
/-- LOG2 (R286). -/
def execLog2 (d : Nat) (a : Src) (t : Nat) (s : State) : Host.Outcome State Fault Refusal := s.elemWord d a t log2Num
/-- SIN (R286). -/
def execSin (d : Nat) (a : Src) (t : Nat) (s : State) : Host.Outcome State Fault Refusal := s.elemWord d a t sinNum
/-- COS (R286). -/
def execCos (d : Nat) (a : Src) (t : Nat) (s : State) : Host.Outcome State Fault Refusal := s.elemWord d a t cosNum
/-- TANH (R286). -/
def execTanh (d : Nat) (a : Src) (t : Nat) (s : State) : Host.Outcome State Fault Refusal := s.elemWord d a t tanhNum

/-! ## ACT (R287, R290) -/

/-- The context's function tables on the current gang's core. -/
def State.luts (s : State) : Luts := tget (s.core s.g.core).luts s.g.ctx {}

/-- A bank of function tables. -/
def Luts.bank (l : Luts) (n : Nat) : Memory := if n = 0 then l.bank0 else l.bank1

/-- A function header (R287). -/
structure FnHeader where
  lo : Nat
  scale : Nat
  first : Nat
  logn : Nat
  valid : Bool
  deriving DecidableEq, Repr

/-- A binary32 code is finite. -/
def finite32 (c : Nat) : Bool := fld c 30 23 != 255

/-- Function `f`'s header of a bank image, with its validity (R287). -/
def fnHeader (m : Memory) (f : Nat) : FnHeader :=
  let b := 16 * f
  let lo := m.value b 4
  let scale := m.value (b + 4) 4
  let first := m.value (b + 8) 2
  let logn := m.value (b + 10) 1
  let flags := m.value (b + 11) 1
  { lo := lo, scale := scale, first := first, logn := logn,
    valid := flags == 0x80 && m.value (b + 12) 4 == 0 && first / 512 == 0 && decide (logn ≤ 9) && finite32 lo &&
      finite32 scale && Num.lt (.zero false) (f32 scale) && decide (first + 2 ^ logn ≤ 512) }

/-- a · b + c in binary32, rounded to nearest even without flags. -/
def fma32 (a b c : Num) : Num := f32 (toF32 (Num.add false (Num.mul a b) c))

/-- The segmented cubic's value in binary32 (R290).  A `u` that rounds to -0 stays -0. (Log entry 77, DESIGN CHOICE.) -/
def cubicAt (m : Memory) (h : FnHeader) (a : Num) : Num :=
  let x := f32 (toF32 a)
  let top : Num := .ofInt (2 ^ h.logn : Nat)
  let u0 := f32 (toF32 (Num.mul (Num.add false x (f32 h.lo).neg) (f32 h.scale)))
  let u := if Num.lt u0 (.zero false) then .zero false else if Num.lt top u0 then top else u0
  let whole : Nat := match u with
    | .fin _ n d e => (scaled n d e).1 / (scaled n d e).2
    | _ => 0
  let i := min whole (2 ^ h.logn - 1)
  let g := Num.add false u (Num.ofInt i).neg
  let c (k : Nat) : Num := f32 (m.value (0x40 + 16 * (h.first + i) + 4 * k) 4)
  fma32 (fma32 (fma32 (c 3) g (c 2)) g (c 1)) g (c 0)

/-- ACT of one element (R290). -/
def actOp (m : Memory) (h : FnHeader) (f : Fmt) (mode : Mode) (sat : Bool) (a : Num) : Rounded :=
  match a with
  | .nan _ => roundOp f a [a] mode sat
  | _ =>
    let y := cubicAt m h a
    let r := f.round (match y with
      | .nan _ => .nan false
      | v => v) mode sat
    (r.1, if y.isNan then r.2 ||| fNV else r.2)

/-- ACT (R290). -/
def execAct (d : Nat) (a : Src) (f t : Nat) (s : State) : Host.Outcome State Fault Refusal :=
  let l := s.luts
  let m := l.bank l.sel
  let h := fnHeader m f
  s.sfuWord fpAccept d t [a] (if h.valid then .ok () else s.trapR 0x04 (BitVec.ofNat 64 f)) (some l.sel)
    fun fm mode sat j l cs => actOp m h fm (mode j l) sat (fm.value (codeAt cs 0))

/-! ## CATS and RNG (R291, R293) -/

/-- A weight as CATS takes it: its binary32 code, or 0 with IW when it is not finite or lies below -0 (R291). -/
def catsWeight (x : Word) : Nat × Bool :=
  let c := x.toNat % 2 ^ 32
  if !finite32 c || decide (2 ^ 31 < c) then (0, true) else (c, false)

/-- The running binary32 sums over the lanes, with their lanes and weights (R291). -/
def catsSums (r : VReg) : List (Fin 32) → Nat → List (Nat × Nat × Nat)
  | [], _ => []
  | l :: ls, acc =>
    let w := (catsWeight (r.at l)).1
    let x := toF32 (Num.add false (f32 acc) (f32 w))
    (l.val, x, w) :: catsSums r ls x

/-- The lane drawn at threshold `t` (R291). -/
def catsPick (sums : List (Nat × Nat × Nat)) (t : Num) : Word :=
  let above (x : Nat × Nat × Nat) : Bool := !t.isNan && Num.lt t (f32 x.2.1)
  match sums.find? above with
  | some x => BitVec.ofNat 64 x.1
  | none =>
    match (sums.filter fun x => Num.lt (.zero false) (f32 x.2.2)).getLast? with
    | some x => BitVec.ofNat 64 x.1
    | none => 0xFFFFFFFFFFFFFFFF

/-- CATS (R291).  The product of an infinite total and a draw of 0 is not stated: it is a free value (log entry 15, DESIGN CHOICE). -/
def execCats (d : Nat) (a b : Src) (s : State) : Host.Outcome State Fault Refusal :=
  s.conclude do
    s.accept { z := false }
    if s.exec_ = 0 then pure s
    else
      let e := s.exec_
      let low (x : Word) : Nat := x.toNat % 2 ^ 32
      let value (st : State) (xs : List VReg) : Bool × VReg :=
        let rv := low ((opnd xs 1).at (firstLane e))
        let sums := catsSums (opnd xs 0) (lanesOf e) 0
        let total := f32 ((sums.getLast?.map fun x => x.2.1).getD 0)
        let t : Num :=
          if total.isInf then (if rv = 0 then f32 (st.free.1.toNat % 2 ^ 32) else total)
          else f32 (toF32 (Num.scale2 (-32) (Num.mul total (.ofInt rv))))
        (total.isInf && rv == 0, .u (catsPick sums t))
      s.flagRoom s.cl.seta
      State.stallFirst (fun _ => s.destReady d (s.widens d [] (.ok (value s (s.shown [(a, 5), (b, 5)])).2))) do
        let r ← s.sources s.exec_ [(a, 5), (b, 5)]
        if disagree e (opnd r.2 1) low ≠ 0 then s.trapR 0x02 0
        else
          let v := value r.1 r.2
          let fl : LaneFlags := fun l => if (catsWeight ((opnd r.2 0).at l)).2 then fIW else fNone
          let _ ← r.1.flags fl
          (if v.1 then r.1.free.2 else r.1).sfuIssue d v.2 fun fin => .sfu d fin (s.flagVec fl) none

/-- The value RNG writes in lane `l` (R293). -/
def rngLane (g : Gang) (t l : Nat) : Word :=
  let z := draw64 g.seed (g.ctr * 32 + BitVec.ofNat 64 l)
  match t with
  | 0 => z
  | 4 => BitVec.ofNat 64 (fmtF64.round (.fin false (z.toNat / 2 ^ 11) 1 (-53)) .rne false).1
  | _ => packElems 32 fun j => toF32 (.fin false (z.toNat / 2 ^ (32 * j) % 2 ^ 32 / 2 ^ 8) 1 (-24))

/-- RNG (R293): the counter advances also when no lane executes. -/
def execRng (d t : Nat) (s : State) : Host.Outcome State Fault Refusal :=
  s.conclude do
    s.accept {}
    let s1 := s.setG { s.g with ctr := s.g.ctr + 1 }
    if s.exec_ = 0 then pure s1
    else
      s.flagRoom s.cl.seta
      s1.sfuIssue d (perLane (rngLane s.g t)) fun fin => .sfu d fin (Vector.replicate 32 0) none

/-! ## The sticky flags (R237) -/

/-- Some earlier operation of the gang has flags still to deliver. (Log entry 38, DEDUCED.) -/
def State.flagsPending (s : State) : Bool := s.ops.any fun o => o.gang == s.cur && (match o.kind with
  | .sfu .. | .matrix _ => true
  | .atomic op .. => op == .fadd || op == .fmin || op == .fmax
  | _ => false)

/-- The sticky flags, zero-extended in each lane. -/
def Gang.xfLanes (g : Gang) : VReg := perLane fun l => BitVec.zeroExtend 64 (g.xf.toList.getD l 0)

/-- XFR (R237). (Log entry 38, DEDUCED.) -/
def execXfr (d : Nat) (s : State) : Host.Outcome State Fault Refusal :=
  s.conclude do
    s.accept {}
    if s.exec_ = 0 then s.noLanes true
    else
      s.waitFor .fence s.flagsPending
      s.result d s.g.xfLanes

/-- XFC (R237): the flags that A's low byte names are cleared in the executing lanes.  Reading A may trap as reading any operand does:
BYPASS (R68), a stream's ALIGN, XLATE or PERM (R66), POISON. (Log entry 78, DESIGN CHOICE.) -/
def execXfc (d : Nat) (a : Src) (s : State) : Host.Outcome State Fault Refusal :=
  s.conclude do
    s.accept {}
    if s.exec_ = 0 then pure s
    else
      s.flagRoom s.cl.seta
      s.destReady d true
      let r ← s.sources s.exec_ [(a, 0)]
      s.waitFor .fence s.flagsPending
      let old := s.g.xfLanes
      let clear (l : Nat) : Byte := if inSet s.exec_ l then BitVec.ofNat 8 ((opnd r.2 0).at l).toNat else 0
      let g := r.1.g
      (r.1.setG { g with xf := Vector.ofFn fun l => g.xf[l] &&& ~~~(clear l) }).sfuIssue d old fun fin => .xfc d fin

end Sys2Proof.Machine
end

