-- ==== Sys2Proof/Machine/Shape.lean ====
section
/-! DEFINITION. The shape words SHAPE, SHASSERT, NARROW and WIDEN (R257 to R259). -/

namespace Sys2Proof.Machine

/-- The code of a shape (R257). -/
def VReg.shapeCode : VReg → Nat
  | .u _ => 0
  | .a _ _ => 1
  | .p _ => 2

/-- The register that an operation of the gang in flight will leave in a vector register whose shape is not yet
that of its result: a special-function word's (R57, R257), or QTILE.max's, which is P when its source is poisoned (R312,
R313). (Log entry 35, DEDUCED.) -/
def State.coming (s : State) (n : Nat) : Option VReg :=
  s.ops.findSome? fun o =>
    if o.gang == s.cur then
      match o.kind with
      | .sfu d fin _ _ => if d = n then fin else none
      | .xfc d fin => if d = n then fin else none
      | .matrix m => if m.kind = .qmax n then
          some (if (s.team o.team).spad.poisoned m.offA (4096 * m.sourceBytes) then .p (Vector.replicate 32 {}) else .u 0)
        else none
      | _ => none
    else none

/-- The shape an operand has, without reading a value (R54, R257). -/
def State.shapeOf (s : State) (a : Src) : Nat :=
  if 96 ≤ a.code ∧ a.code ≤ 103 then 2
  else if a.code < 96 then ((s.coming a.code).getD (s.g.vreg a.code)).shapeCode
  else (s.operand [] a 0).1.shapeCode

/-- SHAPE (R257): it reads no value; a stream source advances without loading; an element still to be written
already has its shape. -/
def execShape (d : Nat) (a : Src) (s : State) : Host.Outcome State Fault Refusal :=
  s.conclude do
    s.accept {}
    if s.exec_ = 0 then s.noLanes true
    else
      let k : VReg := .u (BitVec.ofNat 64 (s.shapeOf a))
      if s.bypassMissing a then
        State.stallFirst (fun _ => s.destReady d (s.widens d [] (.ok k))) (s.trapR 0x07 (BitVec.ofNat 64 (a.code - 104)))
      else (s.advance (streamsOf [(a, 0)])).result d k

/-- SHASSERT (R59, R258): SHAPE when the operand's shape is outside the set; its result is its operand. -/
def execShassert (a : Src) (set : Nat) (s : State) : Host.Outcome State Fault Refusal :=
  s.conclude do
    s.accept { m := false, z := false }
    if s.exec_ = 0 then s.noLanes true
    else
      let r ← s.sources s.exec_ [(a, 0)]
      if set.testBit (opnd r.2 0).shapeCode then r.1.result 112 (opnd r.2 0) else s.trapR 0x06 0

/-- The value of lane `l` without its mark when the lane is not live. -/
def dropDead (live : Lanes) (r : VReg) (l : Nat) : Slot :=
  if inSet live l then r.lane l else { val := r.at l }

/-- The most compact shape of a register over the live lanes (R58). -/
def narrowOf (live : Lanes) (r : VReg) : VReg :=
  let asP : VReg := .p (Vector.ofFn fun l => dropDead live r l)
  match lanesOf live with
  | [] => asP
  | l0 :: rest =>
    let x0 := r.at l0
    if (lanesOf live).all fun l => r.at l == x0 then .u x0
    else match rest with
      | [] => .u x0
      | l1 :: _ =>
        if l1.val = l0.val + 1 then
          let st := r.at l1 - x0
          let b := x0 - BitVec.ofNat 64 l0.val * st
          if (lanesOf live).all fun l => r.at l == b + BitVec.ofNat 64 l.val * st then .a b st else asP
        else asP

/-- Write all 32 lanes of a destination, whichever lanes are active, and push the result (R67, R259). -/
def State.wholeResult (s : State) (d : Nat) (r : VReg) : R State := do
  let s1 ← if d < 96 then (do
      s.ready (s.vBusy d)
      s.needSlab (s.g.vreg d) r
      let g := s.g.setV d r
      pure (s.setG { g with staged := g.staged.filter fun n => !(n == d) })) else pure s
  pure (s1.push r s.exec_)

/-- NARROW (R58, R259). -/
def execNarrow (d : Nat) (a : Src) (s : State) : Host.Outcome State Fault Refusal :=
  s.conclude do
    s.accept { m := false, z := false }
    if s.exec_ = 0 then s.noLanes true
    else
      let value (xs : List VReg) : VReg := narrowOf s.g.live (opnd xs 0)
      State.stallFirst (fun _ => s.destReady d (value (s.shown [(a, 0)])).isP) do
        let r ← s.sources s.g.live [(a, 0)]
        r.1.wholeResult d (value r.2)

/-- WIDEN (R58, R259). -/
def execWiden (d : Nat) (a : Src) (s : State) : Host.Outcome State Fault Refusal :=
  s.conclude do
    s.accept { m := false, z := false }
    if s.exec_ = 0 then s.noLanes true
    else
      let value (xs : List VReg) : VReg := .p (opnd xs 0).lanes
      State.stallFirst (fun _ => s.destReady d (value (s.shown [(a, 0)])).isP) do
        let r ← s.sources s.g.live [(a, 0)]
        r.1.wholeResult d (value r.2)

end Sys2Proof.Machine
end

