-- ==== Sys2Proof/Machine/Sync.lean ====
section
/-! DEFINITION. The synchronisation and launch words: BAR, BARA, BARW (R346 to R348), GBAR (R349), SYNCM (R350, R351), WAITF
(R352), LAUNCH and WAITCH (R353, R354). -/

namespace Sys2Proof.Machine

/-! ## Team barriers -/

/-- The team declares the barrier (R48, R347). -/
def State.barDeclared (s : State) (k : Nat) : R Unit :=
  if k < (s.team s.g.team).barIdx.length then .ok () else s.undefWord

/-- The arrival count that field B names (R347). -/
def State.barCount (s : State) (c : Nat) : R Nat := do
  if c = 0x80 then pure (s.grid s.g.grid).record.gangs
  else
    let x ← s.sget c
    if x.toNat = 0 ∨ 65535 < x.toNat then s.trapR 0x01 x else pure x.toNat

/-- Apply an arrival of count `c` at a barrier: none when the phase's target is another count (R346). -/
def Barrier.arrive (b : Barrier) (c : Nat) : Option Barrier :=
  if b.target.getD c = c then
    some (if b.arrivals + 1 = c then { phase := b.phase + 1 } else { b with arrivals := b.arrivals + 1, target := some c })
  else none

/-- Arrive at a barrier of the team; a completed phase is noted for the dispatcher (R339, R346). -/
def State.arrive (s : State) (k c : Nat) : R (State × Nat) :=
  let t := s.team s.g.team
  let b := t.bar k
  match b.arrive c with
  | none => s.trapR 0x02 (BitVec.ofNat 64 c)
  | some b1 =>
    let t1 : Team := { t with bars := tput t.bars k b1 }
    .ok (s.setTeam s.g.team (if b1.phase = b.phase then t1 else t1.noteBarrier s.ns), b.phase)

/-- The phase of a barrier of the current gang's team. -/
def State.barPhase (s : State) (k : Nat) : Nat := ((s.team s.g.team).bar k).phase

/-- BAR (R347): arrive, then wait until the phase it arrived in completes; a .t acquire on leaving (R162). -/
def execBar (k c : Nat) (s : State) : Host.Outcome State Fault Refusal :=
  s.concludeKeep (match s.g.wait with
    | .bar j p => if p < s.barPhase j then .ok s.acquireT else s.holdR (.bar j p)
    | _ => s.undone (do
      s.accept { m := false, z := false }
      s.barDeclared k
      let n ← s.barCount c
      s.releaseT
      s.arrive k n) |> fun r => match r with
        | .ok (t, p) => if p < t.barPhase k then .ok t.acquireT else t.holdR (.bar k p)
        | .error h => .error h)

/-- BARA (R347): arrive; s[D] takes the phase it arrived in. -/
def execBara (d k c : Nat) (s : State) : Host.Outcome State Fault Refusal :=
  s.conclude do
    s.accept { m := false, z := false }
    s.barDeclared k
    let n ← s.barCount c
    s.ready (s.sBusy d)
    s.releaseT
    let r ← s.arrive k n
    r.1.sput d (BitVec.ofNat 64 r.2)

/-- BARW (R347): wait until the phase number exceeds s[A]; a .t acquire on leaving (R162). -/
def execBarw (k a : Nat) (s : State) : Host.Outcome State Fault Refusal :=
  s.conclude (match s.g.wait with
    | .barw j above => if above < s.barPhase j then .ok s.acquireT else s.holdR (.barw j above)
    | _ => do
      s.accept { m := false, z := false }
      s.barDeclared k
      let x ← s.sget a
      s.waitFor .fence s.loadsPending
      if x.toNat < s.barPhase k then pure s.acquireT else s.holdR (.barw k x.toNat))

/-! ## The grid barrier -/

/-- GBAR (R349): a .p release, the arrival, and a .p acquire on leaving. -/
def execGbar (s : State) : Host.Outcome State Fault Refusal :=
  let leave (t : State) (p : Nat) : R State :=
    if p < (t.grid t.g.grid).phase then .ok (t.acquireP) else t.holdR (.gbar p)
  s.concludeKeep (match s.g.wait with
    | .gbar p => leave s p
    | _ =>
      match s.undone (do
        s.accept { m := false, z := false }
        s.releaseP) with
      | .error h => .error h
      | .ok t =>
        let p := (t.grid t.g.grid).phase
        let t1 := (t.setG { t.g with gridPhase := p + 1 }).gbarArrive t.g.team
        leave t1 p)

/-! ## SYNCM -/

/-- Lane `l`'s membership mask (R350). -/
def memberMask (r : VReg) (l : Nat) : Lanes := BitVec.truncate 32 (r.at l)

/-- The lanes whose masks conflict (R350); the lanes that have arrived in any group that is not complete count as held. (Log entry 82,
DESIGN CHOICE.) -/
def syncConflicts (e : Lanes) (groups : List SyncGroup) (m : Nat → Lanes) : Lanes :=
  setOf fun l => inSet e l && ((groups.any fun q => q.mask != m l && (inSet q.mask l || q.arrived &&& m l != 0)) ||
    (lanesOf e).any fun (k : Fin 32) => m k.val != m l && (inSet (m k.val) l.val || inSet (m l) k.val))

/-- Lane `l` joins its mask's group (R350); the group keeps the clause and position of the arrival that came last. -/
def joinGroup (groups : List SyncGroup) (l : Nat) (mask : Lanes) (clause pos : Nat) : List SyncGroup :=
  if groups.any fun q => q.mask == mask then
    groups.map fun q => if q.mask = mask then { q with arrived := q.arrived ||| laneBit l, clause := clause, pos := pos } else q
  else groups ++ [{ mask := mask, arrived := laneBit l, clause := clause, pos := pos }]

/-- SYNCM (R350): every condition is checked before any arrival is recorded; a group whose lanes have all arrived goes. -/
def execSyncm (a : Src) (s : State) : Host.Outcome State Fault Refusal :=
  s.conclude do
    s.accept { z := false }
    if s.exec_ = 0 then pure s
    else
      let r ← s.sources s.exec_ [(a, 0)]
      s.waitFor .fence s.loadsPending
      let e := s.exec_
      let m (l : Nat) : Lanes := memberMask (opnd r.2 0) l
      let named (x : Lanes) : Word := BitVec.zeroExtend 64 (m (firstLane x))
      let own := setOf fun l => inSet e l && !(inSet (m l) l)
      let conflict := syncConflicts e s.g.groups m
      let gone := setOf fun l => inSet e l && m l &&& ~~~s.g.live != 0
      if own ≠ 0 then s.trapR 0x02 (named own) (some own)
      else if conflict ≠ 0 then s.trapR 0x02 (named conflict) (some conflict)
      else if gone ≠ 0 then s.trapR 0x0C (named gone)
      else
        let pos := s.cl.first + (if s.g.latch.isSome then 1 else 0)
        let gs := (lanesOf e).foldl (fun q (l : Fin 32) => joinGroup q l.val (m l.val) s.cl.addr pos) s.g.groups
        pure (r.1.setG { r.1.g with groups := gs.filter fun q => q.arrived != q.mask })

/-! ## WAITF -/

/-- WAITF (R352): when no named flag is busy, a report that one carries is raised (R175, R201, R288). -/
def execWaitf (set : Nat) (s : State) : Host.Outcome State Fault Refusal :=
  s.conclude do
    s.accept { m := false, z := false }
    if s.g.anyBusy set then s.holdR (.waitf set)
    else match s.g.firstReport set with
      | some (n, r) => s.reportR (s.g.dropReport n r) r
      | none => pure s

/-! ## LAUNCH and WAITCH -/

/-- LAUNCH (R353): its checks, the .p release, the record, and the child grid of the launching context at the level of
R357.  With CHILD masked it is undefined (R379). -/
def execLaunch (d a : Nat) (s : State) : Host.Outcome State Fault Refusal :=
  s.conclude do
    s.accept { m := false, z := false }
    if !(s.ctx s.g.ctx).featmask.getLsbD 7 then s.undefWord
    else if s.g.gindex ≠ 0 then s.trapR 0x02 0
    else
      let gr := s.grid s.g.grid
      if gr.depth = 9 then s.trapR 0x0D 9
      else
        let va ← s.sget a
        s.ready (s.sBusy d)
        s.flagRoom s.cl.setb
        s.handOff
        let s0 ← s.releaseP
        let r ← s0.readBlock va.toNat 8
        s0.blockPoison r.2 va
        let rec_ := recordOf (wordAt r.2)
        let s1 := r.1
        let t := s1.team s1.g.team
        let code := (s1.ctx s1.g.ctx).refusal rec_ (s1.g.level == 0) (decide (64 ≤ t.openChildren)) false
        if code ≠ 0 then s1.sput d (BitVec.ofNat 64 (2 ^ 63 + code))
        else
          let n := t.launches + 1
          let q := s1.acceptGrid
            { record := rec_, ctx := s1.g.ctx, part := s1.g.part, depth := gr.depth + 1,
              level := if rec_.sup then s1.g.level else 0, parent := some s1.g.team, child := n }
          let s2 := q.1.setTeam s1.g.team { t with launches := n, children := tput t.children n q.2 }
          s2.sput d (BitVec.ofNat 64 n)

/-- The team's leader gang has retired. -/
def State.leaderGone (s : State) : Bool :=
  !s.gangs.any fun e => e.2.team == s.g.team && e.2.gindex == 0 && e.2.life != .retired

/-- WAITCH (R354). -/
def execWaitch (a : Nat) (s : State) : Host.Outcome State Fault Refusal :=
  s.conclude do
    s.accept { m := false, z := false }
    if !(s.ctx s.g.ctx).featmask.getLsbD 7 then s.undefWord
    else
      let n ← (match s.g.wait with
        | .waitch n => pure n
        | _ => do
          let x ← s.sget a
          pure x.toNat)
      let t := s.team s.g.team
      if t.doneChildren.contains n then pure s.acquireP
      else if n = 0 ∨ (t.launches < n ∧ s.leaderGone = true) then s.trapR 0x0C (BitVec.ofNat 64 n)
      else s.holdR (.waitch n)

/-- WAITCH.all (R354): the children launched when it issued. -/
def execWaitchAll (s : State) : Host.Outcome State Fault Refusal :=
  s.conclude do
    s.accept { m := false, z := false }
    if !(s.ctx s.g.ctx).featmask.getLsbD 7 then s.undefWord
    else
      let t := s.team s.g.team
      let n := match s.g.wait with
        | .waitchAll n => n
        | _ => t.launches
      if (List.range n).all fun i => t.doneChildren.contains (i + 1) then pure s.acquireP
      else s.holdR (.waitchAll n)

end Sys2Proof.Machine
end

