-- ==== Sys2Proof/Machine/Table.lean ====
section
/-! DEFINITION. The format-table words (R240 to R244), the function-table words (R287 to R289) and RNGSEED (R294). -/

namespace Sys2Proof.Machine

/-! ## The format table -/

/-- The format-table entry that a 32-byte image holds (R219). -/
def entryOf (w : Nat → Word) : FtEntry := { w0 := w 0, w1 := w 1, w2 := w 2, w3 := w 3 }

/-- The generation after one (R241). -/
def nextGen (g : Nat) : Nat := if g ≥ 127 then 1 else g + 1

/-- Replace an entry of the table and raise the generation (R167, R241). -/
def Ctx.setEntry (c : Ctx) (n : Nat) (e : FtEntry) : Ctx :=
  { c with ft := if e.isZero then tdel c.ft n else tput c.ft n e, gen := nextGen c.gen }

/-- Write an entry of the table as the loader does: the generation stays (R218). -/
def Ctx.install (c : Ctx) (e : Nat × FtEntry) : Ctx :=
  if 16 ≤ e.1 ∧ e.1 < 256 then { c with ft := if e.2.isZero then tdel c.ft e.1 else tput c.ft e.1 e.2 } else c

/-- The loader installs the entries of a kernel's `.ft` section in a context, of which no gang runs yet (R133, R218): like the placement
of a program, a load from outside the machine. (Log entry 2, DESIGN CHOICE.) -/
def State.installFormats (s : State) (ck : Nat) (l : List (Nat × FtEntry)) : State :=
  if s.gangs.any fun e => e.2.ctx == ck && e.2.life == .resident then s else s.setCtx ck (l.foldl Ctx.install (s.ctx ck))

/-- FTSET (R241, R379). (Log entry 28, DEDUCED.) -/
def execFtset (n a : Nat) (s : State) : Host.Outcome State Fault Refusal :=
  s.conclude do
    s.accept { m := false, z := false }
    let va ← s.sget a
    let r ← s.readBlock va.toNat 4
    s.blockPoison r.2 va
    let e := entryOf (wordAt r.2)
    let c := s.ctx s.g.ctx
    let masked := !c.featmask.getLsbD 0 || (!c.featmask.getLsbD 1 && e.fmt.kind == 3)
    if n < 16 ∨ masked = true ∨ !(e.isZero || e.consistent) then s.trapR 0x04 va
    else pure (r.1.setCtx s.g.ctx ((r.1.ctx s.g.ctx).setEntry n e))

/-- Word `k` of an entry. -/
def FtEntry.word (e : FtEntry) : Nat → Word
  | 0 => e.w0
  | 1 => e.w1
  | 2 => e.w2
  | _ => e.w3

/-- FTGET of an entry (R242). -/
def execFtgetEntry (d n k : Nat) (s : State) : Host.Outcome State Fault Refusal :=
  s.conclude do
    s.accept { m := false, z := false }
    s.sput d (((s.ctx s.g.ctx).entry n).word k)

/-- FTGET of the generation (R242). -/
def execFtgetGen (d : Nat) (s : State) : Host.Outcome State Fault Refusal :=
  s.conclude do
    s.accept { m := false, z := false }
    s.sput d (BitVec.ofNat 64 (s.ctx s.g.ctx).gen)

/-- FFENCE (R243): every gang of the context already sees each FTSET and each write of csr.xftrap. -/
def execFfence (_scope : Nat) (s : State) : Host.Outcome State Fault Refusal :=
  s.conclude do
    s.accept { m := false, z := false }
    pure s

/-- FMTSEL (R244).  When both entries are bad FMTENTRY reports X. (Log entry 78, DESIGN CHOICE.) -/
def execFmtsel (x y : Nat) (s : State) : Host.Outcome State Fault Refusal :=
  s.conclude do
    s.accept { m := false, z := false }
    let c := s.ctx s.g.ctx
    let ok (n w : Nat) : Bool := (c.entry n).usable && (c.entry n).fmt.kind != 3 && (c.entry n).fmt.width == w
    if !ok x 16 then s.trapR 0x04 (BitVec.ofNat 64 x)
    else if !ok y 8 then s.trapR 0x04 (BitVec.ofNat 64 y)
    else pure (s.setG { s.g with ef := BitVec.ofNat 16 (x + 256 * y) })

/-! ## The function tables -/

/-- The bytes of a bank image (R287). -/
def bankBytes : Nat := 8256

/-- The addresses at which the range of an image is checked: its start, and the start of the page its end may lie in.
(Log entry 69, DESIGN CHOICE.) -/
def imageChecks (va : Nat) : List (Nat × Nat) :=
  let last := (va + bankBytes - 1) / 65536 * 65536
  if last ≤ va then [(0, va)] else [(0, va), (1, last)]

/-- The parts of an image in the pages that `imageChecks` checks: their addresses and lengths. -/
def imageParts (va : Nat) : List (Nat × Nat) :=
  let last := (va + bankBytes - 1) / 65536 * 65536
  if last ≤ va then [(va, bankBytes)] else [(va, last - va), (last, va + bankBytes - last)]

/-- Read a bank image as loads (R138, R288): the image at offset 0, and whether it held poison. -/
def State.readImage (s : State) (va : Nat) : State × Memory × Bool :=
  (List.range (bankBytes / 8)).foldl (fun (acc : State × Memory × Bool) i =>
    let a := va + 8 * i
    match acc.1.xlate s.g.core s.g.ctx a with
    | .ok e =>
      let r := acc.1.loadNow s.cur e.shared a (e.phys a) 8
      (r.1, acc.2.1.write (piecesOf (8 * i) 8 r.2.val), acc.2.2 || r.2.mark.isSome)
    | .error _ => acc) (s, {}, false)

/-- LUTLD (R288). -/
def execLutld (a : Nat) (s : State) : Host.Outcome State Fault Refusal :=
  s.conclude do
    s.accept { m := false, z := false }
    s.flagRoom s.cl.seta
    let va ← s.sget a
    if va.toNat % 64 ≠ 0 then s.trapR 0x08 va
    else
      let es ← s.checkGlobal .read 1 true (imageChecks va.toNat)
      let _ ← (es.zip (imageParts va.toNat)).mapM fun x => s.settled .fence x.1 x.2.1 x.2.2
      let r := (s.useTlb es).readImage va.toNat
      -- the loads change no gang
      let t : State := { r.1 with cur := s.cur, gangs := s.gangs }
      pure (t.issueOp (t.newOp s.cl.seta (.lutld (1 - s.luts.sel) r.2.1 r.2.2 va) []))

/-- Put a bank of function tables. -/
def Luts.setBank (l : Luts) (n : Nat) (m : Memory) : Luts := if n = 0 then { l with bank0 := m } else { l with bank1 := m }

/-- A LUTLD may write its bank: no earlier LUTLD of the context on the core is in flight, and every special-function
word that captured the bank has completed (R288). -/
def State.lutldReady (s : State) (o : Op) (bank : Nat) : Bool :=
  !s.ops.any fun p => p.core == o.core && p.ctx == o.ctx && (match p.kind with
    | .lutld .. => decide (p.id < o.id)
    | .sfu _ _ _ b => b == some bank
    | _ => false)

/-- LUTLD_COMPLETE (R288): the bank is written; poisoned bytes leave every header invalid and a report. -/
def execLutldComplete (op : Nat) (s : State) : Host.Outcome State Fault Refusal :=
  match s.op? op with
  | some o =>
    match o.kind with
    | .lutld bank image bad addr =>
      if s.lutldReady o bank then
        let c := s.core o.core
        let l := (tget c.luts o.ctx {}).setBank bank (if bad then image.zero 0 64 else image)
        let s1 := s.setCore o.core { c with luts := tput c.luts o.ctx l }
        let g := s1.gang o.gang
        let r : Report := { engine := false, addr := addr }
        let g1 : Gang := if bad then { g.setFlag o.flag ((g.flag o.flag).report r) with lutReports := g.lutReports ++ [r] } else g
        .next (((s1.setGang o.gang g1).detachOp o).dropOp op)
      else .next s
    | _ => .next s
  | none => .next s

/-- LUTSWAP (R169, R289). -/
def execLutswap (s : State) : Host.Outcome State Fault Refusal :=
  s.conclude do
    s.accept { m := false, z := false }
    let busy := s.ops.any fun o => o.core == s.g.core && o.ctx == s.g.ctx && (match o.kind with
      | .lutld .. => true
      | _ => false)
    s.waitFor .lutswap busy
    match s.g.lutReports with
    | r :: _ => s.reportR (s.g.dropAnywhere r) r
    | [] =>
      let c := s.core s.g.core
      let l := s.luts
      pure (s.setCore s.g.core { c with luts := tput c.luts s.g.ctx { l with sel := 1 - l.sel } })

/-- RNGSEED (R294). -/
def execRngseed (a b : Nat) (s : State) : Host.Outcome State Fault Refusal :=
  s.conclude do
    s.accept { m := false, z := false }
    let x ← s.sget a
    let y ← s.sget b
    pure (s.setG { s.g with seed := x, ctr := y })

end Sys2Proof.Machine
end

