-- ==== Sys2Proof/Machine/Uniform.lean ====
section
/-! DEFINITION. The uniform scalar words (R31, R269 to R271), UNOP (R110), and the words that do nothing: hints (R93)
and the prefix word, which limits and modifies the lane word after it (R85, R86). -/

namespace Sys2Proof.Machine

/-- A uniform word of two sources: each must be available and unmarked; the result replaces s[D] and its mark
(R269, R271). (Log entry 29, DEDUCED.) -/
def State.uni2 (s : State) (d a b : Nat) (f : Word → Word → Word) : Host.Outcome State Fault Refusal :=
  s.conclude do
    s.accept { m := false, z := false }
    let x ← s.sget a
    let y ← s.sget b
    s.sput d (f x y)

/-- A uniform word of one source. (Log entry 29, DEDUCED.) -/
def State.uni1 (s : State) (d a : Nat) (f : Word → Word) : Host.Outcome State Fault Refusal :=
  s.conclude do
    s.accept { m := false, z := false }
    let x ← s.sget a
    s.sput d (f x)

/-- A uniform word of no source. -/
def State.uni0 (s : State) (d : Nat) (x : Word) : Host.Outcome State Fault Refusal :=
  s.conclude do
    s.accept { m := false, z := false }
    s.sput d x

/-- UNOP (R110). -/
def execUnop (s : State) : Host.Outcome State Fault Refusal := s.conclude (.ok s)

/-- UADD (R269). -/
def execUadd (d a b : Nat) (s : State) : Host.Outcome State Fault Refusal := s.uni2 d a b fun x y => x + y
/-- USUB (R269). -/
def execUsub (d a b : Nat) (s : State) : Host.Outcome State Fault Refusal := s.uni2 d a b fun x y => x - y
/-- UMUL (R269). -/
def execUmul (d a b : Nat) (s : State) : Host.Outcome State Fault Refusal := s.uni2 d a b fun x y => x * y
/-- UMULH (R269): the high half of the signed product. -/
def execUmulh (d a b : Nat) (s : State) : Host.Outcome State Fault Refusal :=
  s.uni2 d a b fun x y => BitVec.ofInt 64 (x.toInt * y.toInt / (2 ^ 64 : Nat))
/-- UAND (R269). -/
def execUand (d a b : Nat) (s : State) : Host.Outcome State Fault Refusal := s.uni2 d a b fun x y => x &&& y
/-- UOR (R269). -/
def execUor (d a b : Nat) (s : State) : Host.Outcome State Fault Refusal := s.uni2 d a b fun x y => x ||| y
/-- UXOR (R269). -/
def execUxor (d a b : Nat) (s : State) : Host.Outcome State Fault Refusal := s.uni2 d a b fun x y => x ^^^ y
/-- USHL (R269). -/
def execUshl (d a b : Nat) (s : State) : Host.Outcome State Fault Refusal :=
  s.uni2 d a b fun x y => if y.toNat < 64 then x <<< y.toNat else 0
/-- USHR (R269). -/
def execUshr (d a b : Nat) (s : State) : Host.Outcome State Fault Refusal :=
  s.uni2 d a b fun x y => if y.toNat < 64 then x >>> y.toNat else 0
/-- USAR (R269). -/
def execUsar (d a b : Nat) (s : State) : Host.Outcome State Fault Refusal :=
  s.uni2 d a b fun x y => x.sshiftRight (min y.toNat 63)
/-- UMIN (R269). -/
def execUmin (d a b : Nat) (s : State) : Host.Outcome State Fault Refusal :=
  s.uni2 d a b fun x y => if y.slt x then y else x
/-- UMAX (R269). -/
def execUmax (d a b : Nat) (s : State) : Host.Outcome State Fault Refusal :=
  s.uni2 d a b fun x y => if x.slt y then y else x
/-- USEQ (R269). -/
def execUseq (d a b : Nat) (s : State) : Host.Outcome State Fault Refusal :=
  s.uni2 d a b fun x y => if x = y then 1 else 0
/-- USLT (R269). -/
def execUslt (d a b : Nat) (s : State) : Host.Outcome State Fault Refusal :=
  s.uni2 d a b fun x y => if x.slt y then 1 else 0
/-- USLTU (R269). -/
def execUsltu (d a b : Nat) (s : State) : Host.Outcome State Fault Refusal :=
  s.uni2 d a b fun x y => if x.ult y then 1 else 0
/-- UADDI (R270). -/
def execUaddi (d imm : Nat) (s : State) : Host.Outcome State Fault Refusal :=
  s.uni1 d d fun x => x + BitVec.ofInt 64 (signedOf 16 imm)
/-- ULI (R270). -/
def execUli (d imm : Nat) (s : State) : Host.Outcome State Fault Refusal := s.uni0 d (BitVec.ofInt 64 (signedOf 16 imm))
/-- ULIT (R270): the literal word, sign-extended. -/
def execUlit (d lit : Nat) (s : State) : Host.Outcome State Fault Refusal := s.uni0 d (BitVec.ofInt 64 (signedOf 32 lit))
/-- ULIT64 (R270). -/
def execUlit64 (d lit : Nat) (s : State) : Host.Outcome State Fault Refusal := s.uni0 d (BitVec.ofNat 64 lit)
/-- UMOV (R269). -/
def execUmov (d a : Nat) (s : State) : Host.Outcome State Fault Refusal := s.uni1 d a fun x => x
/-- USHLI (R270). -/
def execUshli (d k : Nat) (s : State) : Host.Outcome State Fault Refusal := s.uni1 d d fun x => x <<< k

/-- HINT.k (R93): no operation; a prefix before it is ignored with it (R86). -/
def execHint (_k _x : Nat) (s : State) : Host.Outcome State Fault Refusal := s.conclude (.ok s)

/-- UHINT.k (R93): no operation. -/
def execUhint (_k _x : Nat) (s : State) : Host.Outcome State Fault Refusal := s.conclude (.ok s)

end Sys2Proof.Machine
end

