-- ==== Sys2Proof/Machine/Dispatch.lean ====
section
/-! DEFINITION. One arm for every constructor of Instr, each a direct call of its meaning. -/

namespace Sys2Proof.Machine

open Sys2Proof

def exec (i : Instr) (s : State) : Host.Outcome State Fault Refusal :=
  match i with
  | .iadd d a b t => Sys2Proof.Machine.execIadd d a b t s
  | .isub d a b t => Sys2Proof.Machine.execIsub d a b t s
  | .imul d a b t => Sys2Proof.Machine.execImul d a b t s
  | .imulh d a b t => Sys2Proof.Machine.execImulh d a b t s
  | .imulhu d a b t => Sys2Proof.Machine.execImulhu d a b t s
  | .imad d a b t => Sys2Proof.Machine.execImad d a b t s
  | .imin d a b t => Sys2Proof.Machine.execImin d a b t s
  | .imax d a b t => Sys2Proof.Machine.execImax d a b t s
  | .iminu d a b t => Sys2Proof.Machine.execIminu d a b t s
  | .imaxu d a b t => Sys2Proof.Machine.execImaxu d a b t s
  | .iabs d a t => Sys2Proof.Machine.execIabs d a t s
  | .andw d a b t => Sys2Proof.Machine.execAndw d a b t s
  | .orw d a b t => Sys2Proof.Machine.execOrw d a b t s
  | .xorw d a b t => Sys2Proof.Machine.execXorw d a b t s
  | .andn d a b t => Sys2Proof.Machine.execAndn d a b t s
  | .shl d a b t => Sys2Proof.Machine.execShl d a b t s
  | .shr d a b t => Sys2Proof.Machine.execShr d a b t s
  | .sar d a b t => Sys2Proof.Machine.execSar d a b t s
  | .rol d a b t => Sys2Proof.Machine.execRol d a b t s
  | .popc d a t => Sys2Proof.Machine.execPopc d a t s
  | .clz d a t => Sys2Proof.Machine.execClz d a t s
  | .bfx d a b t => Sys2Proof.Machine.execBfx d a b t s
  | .bfi d a b t => Sys2Proof.Machine.execBfi d a b t s
  | .sel d a b k => Sys2Proof.Machine.execSel d a b k s
  | .icmp cond k a b t => Sys2Proof.Machine.execIcmp cond k a b t s
  | .lea d a b k => Sys2Proof.Machine.execLea d a b k s
  | .mov d a => Sys2Proof.Machine.execMov d a s
  | .aff d a b => Sys2Proof.Machine.execAff d a b s
  | .shape d a => Sys2Proof.Machine.execShape d a s
  | .shassert a set => Sys2Proof.Machine.execShassert a set s
  | .widen d a => Sys2Proof.Machine.execWiden d a s
  | .narrow d a => Sys2Proof.Machine.execNarrow d a s
  | .shfl d a b t => Sys2Proof.Machine.execShfl d a b t s
  | .shflup d a b t => Sys2Proof.Machine.execShflup d a b t s
  | .shfldn d a b t => Sys2Proof.Machine.execShfldn d a b t s
  | .shflx d a b t => Sys2Proof.Machine.execShflx d a b t s
  | .bcast d a b => Sys2Proof.Machine.execBcast d a b s
  | .vote d a t => Sys2Proof.Machine.execVote d a t s
  | .scan d a t => Sys2Proof.Machine.execScan d a t s
  | .scanx d a t => Sys2Proof.Machine.execScanx d a t s
  | .rsum d a t => Sys2Proof.Machine.execRsum d a t s
  | .rmin d a t => Sys2Proof.Machine.execRmin d a t s
  | .rmax d a t => Sys2Proof.Machine.execRmax d a t s
  | .matchLane d a t => Sys2Proof.Machine.execMatchLane d a t s
  | .cmprs d a b => Sys2Proof.Machine.execCmprs d a b s
  | .syncm a => Sys2Proof.Machine.execSyncm a s
  | .fadd d a b t => Sys2Proof.Machine.execFadd d a b t s
  | .fsub d a b t => Sys2Proof.Machine.execFsub d a b t s
  | .fmul d a b t => Sys2Proof.Machine.execFmul d a b t s
  | .ffma d a b t => Sys2Proof.Machine.execFfma d a b t s
  | .fmin d a b t => Sys2Proof.Machine.execFmin d a b t s
  | .fmax d a b t => Sys2Proof.Machine.execFmax d a b t s
  | .fabs d a t => Sys2Proof.Machine.execFabs d a t s
  | .fneg d a t => Sys2Proof.Machine.execFneg d a t s
  | .fcmp cond k a b t => Sys2Proof.Machine.execFcmp cond k a b t s
  | .fclass d a t => Sys2Proof.Machine.execFclass d a t s
  | .frint d a t => Sys2Proof.Machine.execFrint d a t s
  | .cvt d a b t => Sys2Proof.Machine.execCvt d a b t s
  | .cvtfi d a t => Sys2Proof.Machine.execCvtfi d a t s
  | .cvtif d a t => Sys2Proof.Machine.execCvtif d a t s
  | .fscale d a b t => Sys2Proof.Machine.execFscale d a b t s
  | .xfr d => Sys2Proof.Machine.execXfr d s
  | .rcp d a t => Sys2Proof.Machine.execRcp d a t s
  | .rsq d a t => Sys2Proof.Machine.execRsq d a t s
  | .sqrt d a t => Sys2Proof.Machine.execSqrt d a t s
  | .exp2 d a t => Sys2Proof.Machine.execExp2 d a t s
  | .log2 d a t => Sys2Proof.Machine.execLog2 d a t s
  | .sin d a t => Sys2Proof.Machine.execSin d a t s
  | .cos d a t => Sys2Proof.Machine.execCos d a t s
  | .tanh d a t => Sys2Proof.Machine.execTanh d a t s
  | .act d a f t => Sys2Proof.Machine.execAct d a f t s
  | .fdiv d a b t => Sys2Proof.Machine.execFdiv d a b t s
  | .cats d a b => Sys2Proof.Machine.execCats d a b s
  | .rng d t => Sys2Proof.Machine.execRng d t s
  | .xfc d a => Sys2Proof.Machine.execXfc d a s
  | .sfuComplete op => Sys2Proof.Machine.execSfuComplete op s
  | .ldg d a b t => Sys2Proof.Machine.execLdg d a b t s
  | .stg data a b t => Sys2Proof.Machine.execStg data a b t s
  | .lds d a b t => Sys2Proof.Machine.execLds d a b t s
  | .sts data a b t => Sys2Proof.Machine.execSts data a b t s
  | .atom32 d a b t => Sys2Proof.Machine.execAtom32 d a b t s
  | .atom64 d a b t => Sys2Proof.Machine.execAtom64 d a b t s
  | .fatom d a b t => Sys2Proof.Machine.execFatom d a b t s
  | .red size a b t => Sys2Proof.Machine.execRed size a b t s
  | .pfd a b level => Sys2Proof.Machine.execPfd a b level s
  | .mma shape acc a b accum => Sys2Proof.Machine.execMma shape acc a b accum s
  | .mld shape acc a => Sys2Proof.Machine.execMld shape acc a s
  | .mstRaw shape acc a => Sys2Proof.Machine.execMstRaw shape acc a s
  | .mstConvert shape acc a b t => Sys2Proof.Machine.execMstConvert shape acc a b t s
  | .mzero shape acc => Sys2Proof.Machine.execMzero shape acc s
  | .qtileMax d a b => Sys2Proof.Machine.execQtileMax d a b s
  | .qtileCvt a b => Sys2Proof.Machine.execQtileCvt a b s
  | .plst data a t => Sys2Proof.Machine.execPlst data a t s
  | .plld d a t => Sys2Proof.Machine.execPlld d a t s
  | .mrdRaw d a => Sys2Proof.Machine.execMrdRaw d a s
  | .mrdConvert d a b t => Sys2Proof.Machine.execMrdConvert d a b t s
  | .matrixOpComplete op => Sys2Proof.Machine.execMatrixOpComplete op s
  | .hint k x => Sys2Proof.Machine.execHint k x s
  | .pfx m z rm nf sat c => Sys2Proof.Machine.execPfx m z rm nf sat c s
  | .uadd d a b => Sys2Proof.Machine.execUadd d a b s
  | .usub d a b => Sys2Proof.Machine.execUsub d a b s
  | .umul d a b => Sys2Proof.Machine.execUmul d a b s
  | .umulh d a b => Sys2Proof.Machine.execUmulh d a b s
  | .uand d a b => Sys2Proof.Machine.execUand d a b s
  | .uor d a b => Sys2Proof.Machine.execUor d a b s
  | .uxor d a b => Sys2Proof.Machine.execUxor d a b s
  | .ushl d a b => Sys2Proof.Machine.execUshl d a b s
  | .ushr d a b => Sys2Proof.Machine.execUshr d a b s
  | .usar d a b => Sys2Proof.Machine.execUsar d a b s
  | .umin d a b => Sys2Proof.Machine.execUmin d a b s
  | .umax d a b => Sys2Proof.Machine.execUmax d a b s
  | .useq d a b => Sys2Proof.Machine.execUseq d a b s
  | .uslt d a b => Sys2Proof.Machine.execUslt d a b s
  | .usltu d a b => Sys2Proof.Machine.execUsltu d a b s
  | .uaddi d imm => Sys2Proof.Machine.execUaddi d imm s
  | .uli d imm => Sys2Proof.Machine.execUli d imm s
  | .ulit d lit => Sys2Proof.Machine.execUlit d lit s
  | .ulit64 d lit => Sys2Proof.Machine.execUlit64 d lit s
  | .umov d a => Sys2Proof.Machine.execUmov d a s
  | .ushli d k => Sys2Proof.Machine.execUshli d k s
  | .uld d a w => Sys2Proof.Machine.execUld d a w s
  | .ust d a w => Sys2Proof.Machine.execUst d a w s
  | .ulds d a w => Sys2Proof.Machine.execUlds d a w s
  | .usts d a w => Sys2Proof.Machine.execUsts d a w s
  | .uatom d a op x => Sys2Proof.Machine.execUatom d a op x s
  | .bra off => Sys2Proof.Machine.execBra off s
  | .brz n off => Sys2Proof.Machine.execBrz n off s
  | .brnz n off => Sys2Proof.Machine.execBrnz n off s
  | .brm k off => Sys2Proof.Machine.execBrm k off s
  | .call link off => Sys2Proof.Machine.execCall link off s
  | .calli link ptr cls => Sys2Proof.Machine.execCalli link ptr cls s
  | .ret link => Sys2Proof.Machine.execRet link s
  | .jmpi ptr => Sys2Proof.Machine.execJmpi ptr s
  | .exit k => Sys2Proof.Machine.execExit k s
  | .pfi n off => Sys2Proof.Machine.execPfi n off s
  | .pfiLineDrop core va => Sys2Proof.Machine.execPfiLineDrop core va s
  | .bar k c => Sys2Proof.Machine.execBar k c s
  | .bara d k c => Sys2Proof.Machine.execBara d k c s
  | .barw k a => Sys2Proof.Machine.execBarw k a s
  | .waitf set => Sys2Proof.Machine.execWaitf set s
  | .launch d a => Sys2Proof.Machine.execLaunch d a s
  | .waitch a => Sys2Proof.Machine.execWaitch a s
  | .copy k a b => Sys2Proof.Machine.execCopy k a b s
  | .copyRoundEnd team h upto => Sys2Proof.Machine.execCopyRoundEnd team h upto s
  | .chapp d a b => Sys2Proof.Machine.execChapp d a b s
  | .seqw a b => Sys2Proof.Machine.execSeqw a b s
  | .seqr d a => Sys2Proof.Machine.execSeqr d a s
  | .hwait k full => Sys2Proof.Machine.execHwait k full s
  | .hrel k => Sys2Proof.Machine.execHrel k s
  | .hstate d k => Sys2Proof.Machine.execHstate d k s
  | .wpr d k => Sys2Proof.Machine.execWpr d k s
  | .stdefLoad n a => Sys2Proof.Machine.execStdefLoad n a s
  | .stdefStore n a => Sys2Proof.Machine.execStdefStore n a s
  | .stposRead d n => Sys2Proof.Machine.execStposRead d n s
  | .stposWrite n a => Sys2Proof.Machine.execStposWrite n a s
  | .resid d a b => Sys2Proof.Machine.execResid d a b s
  | .demote a b => Sys2Proof.Machine.execDemote a b s
  | .demoteMoveEnd op => Sys2Proof.Machine.execDemoteMoveEnd op s
  | .ftset n a => Sys2Proof.Machine.execFtset n a s
  | .ftgetEntry d n k => Sys2Proof.Machine.execFtgetEntry d n k s
  | .ftgetGen d => Sys2Proof.Machine.execFtgetGen d s
  | .ffence scope => Sys2Proof.Machine.execFfence scope s
  | .fmtsel x y => Sys2Proof.Machine.execFmtsel x y s
  | .lutld a => Sys2Proof.Machine.execLutld a s
  | .lutldComplete op => Sys2Proof.Machine.execLutldComplete op s
  | .mfence scope => Sys2Proof.Machine.execMfence scope s
  | .rngseed a b => Sys2Proof.Machine.execRngseed a b s
  | .fence kind scope => Sys2Proof.Machine.execFence kind scope s
  | .fenceLeaseWaitEnd gang => Sys2Proof.Machine.execFenceLeaseWaitEnd gang s
  | .tfence scope => Sys2Proof.Machine.execTfence scope s
  | .tlbi a mode scope => Sys2Proof.Machine.execTlbi a mode scope s
  | .ifence scope => Sys2Proof.Machine.execIfence scope s
  | .trap imm => Sys2Proof.Machine.execTrap imm s
  | .csrr d n iv => Sys2Proof.Machine.execCsrr d n iv s
  | .csrw a n iv => Sys2Proof.Machine.execCsrw a n iv s
  | .boost n => Sys2Proof.Machine.execBoost n s
  | .ember d a => Sys2Proof.Machine.execEmber d a s
  | .emberOff a => Sys2Proof.Machine.execEmberOff a s
  | .drawc c => Sys2Proof.Machine.execDrawc c s
  | .uhint k x => Sys2Proof.Machine.execUhint k x s
  | .instructionLineArrive core va => Sys2Proof.Machine.execInstructionLineArrive core va s
  | .fetchWalkResult core va => Sys2Proof.Machine.execFetchWalkResult core va s
  | .loadMissServe op item evict evictL2 => Sys2Proof.Machine.execLoadMissServe op item evict evictL2 s
  | .loadComplete op => Sys2Proof.Machine.execLoadComplete op s
  | .storePerformed op item => Sys2Proof.Machine.execStorePerformed op item s
  | .storeAck op => Sys2Proof.Machine.execStoreAck op s
  | .leaseExpiry core ctx line => Sys2Proof.Machine.execLeaseExpiry core ctx line s
  | .inboundWrite id => Sys2Proof.Machine.execInboundWrite id s
  | .slabDeadlock core => Sys2Proof.Machine.execSlabDeadlock core s
  | .gangRetire gang => Sys2Proof.Machine.execGangRetire gang s
  | .teamPlace tag => Sys2Proof.Machine.execTeamPlace tag s
  | .gridAging tag => Sys2Proof.Machine.execGridAging tag s
  | .coreReservation tag => Sys2Proof.Machine.execCoreReservation tag s
  | .preemptRequest tag => Sys2Proof.Machine.execPreemptRequest tag s
  | .drainDeadline team => Sys2Proof.Machine.execDrainDeadline team s
  | .swapOut team => Sys2Proof.Machine.execSwapOut team s
  | .timeSliceExpiry core ctx => Sys2Proof.Machine.execTimeSliceExpiry core ctx s
  | .gangIssueSelect core => Sys2Proof.Machine.execGangIssueSelect core s
  | .ladleAccept chain ladle => Sys2Proof.Machine.execLadleAccept chain ladle s
  | .ladleJobEnd job turn => Sys2Proof.Machine.execLadleJobEnd job turn s
  | .chainSequenceAdvance chain => Sys2Proof.Machine.execChainSequenceAdvance chain s
  | .peerJobReceive p => Sys2Proof.Machine.execPeerJobReceive p s
  | .bellowsStep rail => Sys2Proof.Machine.execBellowsStep rail s
  | .powerSample p => Sys2Proof.Machine.execPowerSample p s
  | .slowLimitWindow energy shares => Sys2Proof.Machine.execSlowLimitWindow energy shares s
  | .emberCandidate core => Sys2Proof.Machine.execEmberCandidate core s
  | .emberFlush team => Sys2Proof.Machine.execEmberFlush team s
  | .coalInterval rail => Sys2Proof.Machine.execCoalInterval rail s
  | .droop cluster => Sys2Proof.Machine.execDroop cluster s
  | .nearThresholdTransition core pipe busy4096 busy256 => Sys2Proof.Machine.execNearThresholdTransition core pipe busy4096 busy256 s
  | .temperatureRead temps => Sys2Proof.Machine.execTemperatureRead temps s
  | .hotPageMigration stack pages => Sys2Proof.Machine.execHotPageMigration stack pages s
  | .energyAccounting cluster nanojoules => Sys2Proof.Machine.execEnergyAccounting cluster nanojoules s
  | .hallmarkInterval use => Sys2Proof.Machine.execHallmarkInterval use s
  | .dramScrub stack corrected finds => Sys2Proof.Machine.execDramScrub stack corrected finds s
  | .unitFence f => Sys2Proof.Machine.execUnitFence f s
  | .cxlLinkFail port => Sys2Proof.Machine.execCxlLinkFail port s
  | .reforgeTick tag => Sys2Proof.Machine.execReforgeTick tag s
  | .reforgeSettleEnd tag => Sys2Proof.Machine.execReforgeSettleEnd tag s
  | .powerGood flow inlet strap => Sys2Proof.Machine.execPowerGood flow inlet strap s
  | .firmwareFetch key rollback selfCheck site => Sys2Proof.Machine.execFirmwareFetch key rollback selfCheck site s
  | .dramReady c => Sys2Proof.Machine.execDramReady c s
  | .slicesReady c => Sys2Proof.Machine.execSlicesReady c s
  | .ptpMessage port off => Sys2Proof.Machine.execPtpMessage port off s
  | .hello m => Sys2Proof.Machine.execHello m s
  | .health m => Sys2Proof.Machine.execHealth m s
  | .reset m => Sys2Proof.Machine.execReset m s
  | .image m => Sys2Proof.Machine.execImage m s
  | .reforge m => Sys2Proof.Machine.execReforge m s
  | .fenceCmd m => Sys2Proof.Machine.execFenceCmd m s
  | .ctxnew m => Sys2Proof.Machine.execCtxnew m s
  | .ctxdel m => Sys2Proof.Machine.execCtxdel m s
  | .bind m => Sys2Proof.Machine.execBind m s
  | .release m => Sys2Proof.Machine.execRelease m s
  | .write m => Sys2Proof.Machine.execWrite m s
  | .read m => Sys2Proof.Machine.execRead m s
  | .launchCmd m => Sys2Proof.Machine.execLaunchCmd m s
  | .malformedCommand m => Sys2Proof.Machine.execMalformedCommand m s
  | .droopRecovery cluster => Sys2Proof.Machine.execDroopRecovery cluster s
  | .dramShortageDemotion tag bytes => Sys2Proof.Machine.execDramShortageDemotion tag bytes s
  | .contextStop ctx => Sys2Proof.Machine.execContextStop ctx s
  | .contextRestore tag image => Sys2Proof.Machine.execContextRestore tag image s
  | .guaranteedShareSet tag stack shares => Sys2Proof.Machine.execGuaranteedShareSet tag stack shares s
  | .unop => Sys2Proof.Machine.execUnop s
  | .yield => Sys2Proof.Machine.execYield s
  | .gbar => Sys2Proof.Machine.execGbar s
  | .waitchAll => Sys2Proof.Machine.execWaitchAll s
  | .lutswap => Sys2Proof.Machine.execLutswap s
  | .rte => Sys2Proof.Machine.execRte s
  | .clauseIssue => Sys2Proof.Machine.execClauseIssue s
  | .coolantOutOfRange => Sys2Proof.Machine.execCoolantOutOfRange s
  | .fullFunction => Sys2Proof.Machine.execFullFunction s
  | .ptpHoldover => Sys2Proof.Machine.execPtpHoldover s
  | .coolantInRange => Sys2Proof.Machine.execCoolantInRange s
  | .coolantLossTimeout => Sys2Proof.Machine.execCoolantLossTimeout s

end Sys2Proof.Machine
end

