-- ==== Sys2Proof/Machine/Pair.lean ====
section
/-! DEFINITION. What a word reads and writes, for the pairing of two groups of one gang in one cycle (R38): registers, the
rest of a gang's state, tables, memory and operations in flight. -/

namespace Sys2Proof.Machine

/-- A piece of state that a word may read or write. -/
inductive Place where
  | v (n : Nat)
  | s (n : Nat)
  | m (n : Nat)
  | st (n : Nat)
  | flag (n : Nat)
  | act                           -- the active set
  | csr (n : Nat)                 -- a control and status register
  | ef                            -- the entries that FMTSEL selects
  | gen                           -- the generator
  | entry (n : Nat)               -- a format-table entry
  | table                         -- the table's generation, or an entry that cannot be told
  | lut                           -- the function-table selector
  | view                          -- what the gang's loads may return: VA and the TLBs
  | loads                         -- global loads and atomics in flight that return a value
  | spadLoads                     -- scratchpad loads in flight
  | stores                        -- global stores and atomics in flight
  | spadStores                    -- scratchpad stores in flight
  | atomics                       -- atomics in flight
  | special                       -- special-function words in flight
  | matrix                        -- matrix operations in flight
  | deliver                       -- operations in flight that have sticky flags to deliver
  | tables                        -- function-table loads in flight
  | mem                           -- memory and scratchpad, through an operation in flight
  | own                           -- memory that a word reads on its own account
  | bank                          -- memory that CHAPP writes at its bank
  deriving DecidableEq, Repr

/-! ## What words read -/

/-- What a translation and a load through it read: VA and the TLBs, the tables' roots and the lease length (R138, R143, R165). -/
def viaTables : List Place := [.view, .csr 0x07, .csr 0x10, .csr 0x11]

/-- What an operand reads (R83); a stream's elements are loads of the word's own (R66). -/
def srcPlaces (a : Src) : List Place :=
  if a.code < 96 then [.v a.code]
  else if a.code < 104 then .st (a.code - 96) :: .own :: .bank :: viaTables
  else if 120 ≤ a.code then [.s (a.code - 120)]
  else []

/-- What a view of a floating-point word reads: the entry that FMTSEL selects (R244, R273). -/
def viewPlaces (ef : BitVec 16) : Nat → List Place
  | 6 => [.ef, .entry (ef &&& 0xFF).toNat]
  | 7 => [.ef, .entry (ef >>> 8).toNat]
  | _ => []

/-- What a word that raises flags reads: the traps enabled on them, unless NF is 1 (R236). -/
def trapPlaces (p : Latch) : List Place := if p.nf = 1 then [] else [.csr 0x06]

/-- What rounding reads: the dynamic mode, or the generator, and whether it may be used (R227, R229, R379). -/
def roundPlaces (p : Latch) : List Place := if p.rm = 0 then [.csr 0x05] else if p.rm = 3 then [.gen, .csr 0x13] else []

/-- What a floating-point word reads beside its operands. -/
def floatPlaces (p : Latch) (ef : BitVec 16) (t : Nat) : List Place := viewPlaces ef t ++ trapPlaces p ++ roundPlaces p

/-- What a memory word reads beside its operands: a store may log a page (R382). -/
def memPlaces (store : Bool) : List Place := viaTables ++ if store then [.csr 0x17] else []

/-- The operations in flight that a release at .t waits for, or one at .p (R149). -/
def waitsT : List Place := [.loads, .spadLoads, .spadStores, .atomics]
/-- The acknowledgements that a hand-off waits for (R155). -/
def waitsAcks : List Place := [.stores, .spadStores]

/-- What a word reads, with the prefix `p` and the entries `ef` that its gang has selected; none for a step that is no word.  A word that
waits for operations in flight reads those of the kinds that it waits for. -/
def readsOf (p : Latch) (ef : BitVec 16) : Instr → Option (List Place)
  -- integer, shape and cross-lane words
  | .iadd _ a b _ | .isub _ a b _ | .imul _ a b _ | .imad _ a b _ =>
    some (.act :: srcPlaces a ++ srcPlaces b ++ if p.sat = 1 then trapPlaces p else [])
  | .iabs _ a _ => some (.act :: srcPlaces a ++ if p.sat = 1 then trapPlaces p else [])
  | .imulh _ a b _ | .imulhu _ a b _ | .imin _ a b _ | .imax _ a b _ | .iminu _ a b _ | .imaxu _ a b _ | .andw _ a b _
  | .orw _ a b _ | .xorw _ a b _ | .andn _ a b _ | .shl _ a b _ | .shr _ a b _ | .sar _ a b _ | .rol _ a b _ | .bfx _ a b _
  | .bfi _ a b _ | .lea _ a b _ | .aff _ a b | .shfl _ a b _ | .shflup _ a b _ | .shfldn _ a b _ | .shflx _ a b _ | .bcast _ a b
  | .cmprs _ a b | .icmp _ _ a b _ => some (.act :: srcPlaces a ++ srcPlaces b)
  | .sel _ a b k => some (.act :: .m k :: srcPlaces a ++ srcPlaces b)
  | .popc _ a _ | .clz _ a _ | .mov _ a | .shape _ a | .shassert a _ | .widen _ a | .narrow _ a | .vote _ a _ | .scan _ a _
  | .scanx _ a _ | .rsum _ a _ | .rmin _ a _ | .rmax _ a _ | .matchLane _ a _ => some (.act :: srcPlaces a)
  | .syncm a => some (.act :: .loads :: .spadLoads :: srcPlaces a)
  -- floating-point, conversion, special-function and random words
  | .fadd _ a b t | .fsub _ a b t | .fmul _ a b t | .ffma _ a b t | .fscale _ a b t | .fdiv _ a b t =>
    some (.act :: floatPlaces p ef t ++ srcPlaces a ++ srcPlaces b)
  | .fmin _ a b t | .fmax _ a b t | .fcmp _ _ a b t => some (.act :: viewPlaces ef t ++ trapPlaces p ++ srcPlaces a ++ srcPlaces b)
  | .cvt _ a b _ => some (.act :: trapPlaces p ++ roundPlaces p ++ srcPlaces a ++ srcPlaces b)
  | .fabs _ a t | .fneg _ a t => some (.act :: viewPlaces ef t ++ trapPlaces p ++ srcPlaces a)
  | .fclass _ a t => some (.act :: viewPlaces ef t ++ srcPlaces a)
  | .frint _ a t | .cvtfi _ a t | .cvtif _ a t | .rcp _ a t | .rsq _ a t | .sqrt _ a t | .exp2 _ a t | .log2 _ a t | .sin _ a t
  | .cos _ a t | .tanh _ a t => some (.act :: floatPlaces p ef t ++ srcPlaces a)
  | .act _ a _ t => some (.act :: .lut :: floatPlaces p ef t ++ srcPlaces a)
  | .cats _ a b => some (.act :: trapPlaces p ++ srcPlaces a ++ srcPlaces b)
  | .rng _ _ => some [.act, .gen]
  | .xfr _ => some [.act, .deliver]
  | .xfc _ a => some (.act :: .deliver :: srcPlaces a)
  -- lane memory words
  | .ldg _ a b _ => some (.act :: .mem :: .bank :: memPlaces false ++ srcPlaces a ++ srcPlaces b)
  | .lds _ a b _ => some (.act :: .mem :: srcPlaces a ++ srcPlaces b)
  | .stg d a b _ => some (.act :: .v d :: memPlaces true ++ srcPlaces a ++ srcPlaces b)
  | .sts d a b _ => some (.act :: .v d :: srcPlaces a ++ srcPlaces b)
  | .atom32 _ a b _ | .atom64 _ a b _ | .red _ a b _ => some (.act :: .mem :: .bank :: memPlaces true ++ srcPlaces a ++ srcPlaces b)
  | .fatom _ a b _ =>
    some (.act :: .mem :: .bank :: .csr 0x13 :: memPlaces true ++ roundPlaces p ++ srcPlaces a ++ srcPlaces b)
  | .pfd a b _ => some (.act :: memPlaces false ++ srcPlaces a ++ srcPlaces b)
  -- matrix words; what their format words and descriptors name is `State.namedPlaces`
  | .mma _ _ a b _ | .mstConvert _ _ a b _ | .qtileMax _ a b | .qtileCvt a b | .mrdConvert _ a b _ =>
    some (.act :: .mem :: .csr 0x13 :: srcPlaces a ++ srcPlaces b)
  | .mld _ _ a | .mstRaw _ _ a | .mrdRaw _ a | .plld _ a _ => some (.act :: .mem :: srcPlaces a)
  | .plst d a _ => some (.act :: .v d :: srcPlaces a)
  | .mzero .. | .yield => some [.act]
  -- hints and the prefix word
  | .hint .. | .pfx .. | .uhint .. | .unop => some []
  -- uniform scalar words
  | .uadd _ a b | .usub _ a b | .umul _ a b | .umulh _ a b | .uand _ a b | .uor _ a b | .uxor _ a b | .ushl _ a b | .ushr _ a b
  | .usar _ a b | .umin _ a b | .umax _ a b | .useq _ a b | .uslt _ a b | .usltu _ a b => some [.s a, .s b]
  | .uaddi d _ | .ushli d _ => some [.s d]
  | .uli .. | .ulit .. | .ulit64 .. => some []
  | .umov _ a => some [.s a]
  -- uniform memory words
  | .uld _ a _ => some (.mem :: .bank :: .s a :: memPlaces false)
  | .ulds _ a _ => some [.mem, .s a]
  | .ust d a _ => some (.s d :: .s a :: memPlaces true)
  | .usts d a _ => some [.s d, .s a]
  | .uatom d a op x => some (.mem :: .bank :: .s a :: .s x :: (if op = 7 then [.s d] else []) ++ memPlaces true)
  -- control flow
  | .bra _ => some []
  | .brz n _ | .brnz n _ => some [.s n]
  | .brm k _ | .exit k => some [.act, .m k]
  | .call l _ => some [.act, .v l]
  | .calli l x _ => some [.act, .v l, .v x]
  | .ret l => some [.act, .v l]
  | .jmpi x => some [.act, .v x]
  | .pfi .. => some [.view]
  -- synchronisation and launch words
  | .bar _ c | .bara _ _ c => some ((if c = 0x80 then [] else [.s c]) ++ waitsT)
  | .barw _ a => some [.s a, .loads, .spadLoads]
  | .gbar => some (.loads :: .spadLoads :: waitsAcks)
  | .waitchAll => some []
  | .waitf set => some ((List.range 12).filterMap fun n => if set.testBit n then some (.flag n) else none)
  | .launch _ a => some (.loads :: .spadLoads :: .own :: .bank :: .s a :: waitsAcks ++ memPlaces false)
  | .ember _ a => some (.own :: .bank :: .s a :: memPlaces false)
  | .waitch a | .emberOff a => some [.s a]
  -- engine words
  | .copy _ a b | .demote a b => some (.s a :: .s b :: waitsAcks)
  | .chapp _ a b => some (.own :: .bank :: .s a :: .s b :: waitsAcks ++ memPlaces true)
  | .seqw a b => some (.own :: .bank :: .s a :: .s b :: memPlaces false)
  | .seqr _ a => some (.own :: .bank :: .s a :: memPlaces false)
  | .hwait .. | .hstate .. | .wpr .. => some []
  | .hrel _ => some (.loads :: .spadLoads :: waitsAcks)
  | .stdefLoad _ a => some (.own :: .bank :: .s a :: memPlaces false)
  | .stdefStore n a => some (.st n :: .s a :: memPlaces true)
  | .stposRead _ n => some [.st n]
  | .stposWrite _ a => some [.s a]
  | .resid _ a b => some [.s a, .s b]
  -- format and function tables
  | .ftset _ a => some (.own :: .bank :: .table :: .s a :: memPlaces false)
  | .ftgetEntry _ n _ => some [.entry n]
  | .ftgetGen _ => some [.table]
  | .fmtsel x y => some [.entry x, .entry y]
  | .ffence _ => some []
  | .lutld a => some (.own :: .bank :: .lut :: .s a :: memPlaces false)
  | .lutswap => some [.lut, .tables]
  | .mfence _ => some [.matrix]
  | .rngseed a b => some [.s a, .s b]
  -- fences and translation words
  | .fence k scope => some (.loads :: .spadLoads :: if k = 0 ∨ scope = 0 then [] else if scope = 1 then waitsT else waitsAcks)
  | .tfence _ | .ifence _ => some waitsAcks
  | .tlbi a mode _ => some (.loads :: .stores :: if mode = 0 then [.s a] else [])
  -- traps, registers, load words
  | .trap _ => some []
  | .rte => some [.loads, .spadLoads, .special, .matrix, .tables]
  | .csrr _ n _ => some (if n = 0x0B ∨ n = 0x0C then [.gen] else [.csr n])
  | .csrw a n _ => some [.s a, .csr n]
  | .boost _ | .drawc _ => some []
  | _ => none

/-! ## What words write -/

/-- What a lane word with a vector destination writes; its operands' streams advance. -/
def laneWrites (d : Nat) (srcs : List Src) : List Place :=
  .v d :: (srcs.flatMap srcPlaces).filter fun c => match c with
    | .st _ => true
    | _ => false

/-- What a word writes, where a later word may read it; `stoch` says that the word has drawn random bits, `seta` and `setb` are its
clause's flags. -/
def writesOf (stoch : Bool) (seta setb : Nat) : Instr → List Place
  | .iadd d a b _ | .isub d a b _ | .imul d a b _ | .imulh d a b _ | .imulhu d a b _ | .imad d a b _ | .imin d a b _ | .imax d a b _
  | .iminu d a b _ | .imaxu d a b _ | .andw d a b _ | .orw d a b _ | .xorw d a b _ | .andn d a b _ | .shl d a b _ | .shr d a b _
  | .sar d a b _ | .rol d a b _ | .bfx d a b _ | .bfi d a b _ | .sel d a b _ | .lea d a b _ | .aff d a b | .shfl d a b _ | .shflup d a b _
  | .shfldn d a b _ | .shflx d a b _ | .bcast d a b | .cmprs d a b => laneWrites d [a, b]
  | .iabs d a _ | .popc d a _ | .clz d a _ | .mov d a | .shape d a | .widen d a | .narrow d a | .vote d a _ | .scan d a _
  | .scanx d a _ | .rsum d a _ | .rmin d a _ | .rmax d a _ | .matchLane d a _ => laneWrites d [a]
  | .shassert a _ | .syncm a => laneWrites 112 [a]
  | .icmp _ k a b _ | .fcmp _ k a b _ => .m k :: laneWrites 112 [a, b]
  | .fadd d a b _ | .fsub d a b _ | .fmul d a b _ | .ffma d a b _ | .fmin d a b _ | .fmax d a b _ | .cvt d a b _ | .fscale d a b _ =>
    (if stoch then [.gen] else []) ++ laneWrites d [a, b]
  | .fabs d a _ | .fneg d a _ | .fclass d a _ | .frint d a _ | .cvtfi d a _ | .cvtif d a _ =>
    (if stoch then [.gen] else []) ++ laneWrites d [a]
  | .xfr d => laneWrites d []
  | .fdiv d a b _ | .cats d a b => .flag seta :: .special :: .deliver :: (if stoch then [.gen] else []) ++ laneWrites d [a, b]
  | .rcp d a _ | .rsq d a _ | .sqrt d a _ | .exp2 d a _ | .log2 d a _ | .sin d a _ | .cos d a _ | .tanh d a _ | .act d a _ _ =>
    .flag seta :: .special :: .deliver :: (if stoch then [.gen] else []) ++ laneWrites d [a]
  | .xfc d a => .flag seta :: .special :: laneWrites d [a]
  | .rng d _ => .flag seta :: .special :: .deliver :: .gen :: laneWrites d []
  | .ldg d a b _ => .flag seta :: .loads :: laneWrites d [a, b]
  | .lds d a b _ => .flag seta :: .spadLoads :: laneWrites d [a, b]
  | .atom32 d a b _ | .atom64 d a b _ =>
    .flag seta :: .stores :: .atomics :: .mem :: .own :: (if d < 96 then [.loads] else []) ++ laneWrites d [a, b]
  | .fatom d a b _ =>
    .flag seta :: .stores :: .atomics :: .deliver :: .mem :: .own :: (if d < 96 then [.loads] else []) ++ laneWrites d [a, b]
  | .stg _ a b _ => .flag seta :: .stores :: .mem :: .own :: laneWrites 112 [a, b]
  | .sts _ a b _ => .flag seta :: .spadStores :: .mem :: laneWrites 112 [a, b]
  | .red _ a b _ => .flag seta :: .stores :: .atomics :: .mem :: .own :: laneWrites 112 [a, b]
  | .pfd a b _ => laneWrites 112 [a, b]
  | .mma _ _ a b _ | .qtileCvt a b | .mstConvert _ _ a b _ =>
    .flag setb :: .matrix :: .deliver :: .mem :: (if stoch then [.gen] else []) ++ laneWrites 112 [a, b]
  | .mld _ _ a | .mstRaw _ _ a => .flag setb :: .matrix :: .deliver :: .mem :: laneWrites 112 [a]
  | .mzero .. => [.flag setb, .matrix, .deliver]
  | .qtileMax d a b => .flag setb :: .matrix :: .deliver :: .mem :: laneWrites d [a, b]
  | .mrdRaw d a => .flag setb :: .matrix :: .deliver :: laneWrites d [a]
  | .mrdConvert d a b _ => .flag setb :: .matrix :: .deliver :: (if stoch then [.gen] else []) ++ laneWrites d [a, b]
  | .plst _ a _ => .flag setb :: .spadStores :: .mem :: laneWrites 112 [a]
  | .plld d a _ => .flag setb :: .spadLoads :: laneWrites d [a]
  | .uadd d _ _ | .usub d _ _ | .umul d _ _ | .umulh d _ _ | .uand d _ _ | .uor d _ _ | .uxor d _ _ | .ushl d _ _ | .ushr d _ _
  | .usar d _ _ | .umin d _ _ | .umax d _ _ | .useq d _ _ | .uslt d _ _ | .usltu d _ _ | .uaddi d _ | .uli d _ | .ulit d _ | .ulit64 d _
  | .umov d _ | .ushli d _ => [.s d]
  | .uld d _ _ => [.s d, .flag seta, .loads]
  | .ulds d _ _ => [.s d, .flag seta, .spadLoads]
  | .ust .. => [.flag seta, .stores, .mem, .own]
  | .usts .. => [.flag seta, .spadStores, .mem]
  | .uatom d .. => [.s d, .flag seta, .loads, .stores, .atomics, .mem, .own]
  | .exit _ => [.act]
  | .bar .. | .barw .. | .gbar | .waitchAll | .waitch _ | .seqw .. | .hwait .. | .tlbi .. => [.view]
  | .fence k _ => if k = 1 then [] else [.view]
  | .bara d _ _ | .ember d _ | .seqr d _ | .hstate d _ | .resid d .. | .ftgetEntry d .. | .ftgetGen d | .csrr d .. => [.s d]
  | .launch d _ => [.s d, .flag setb]
  | .copy .. | .demote .. => [.flag setb]
  | .chapp d .. => [.s d, .flag setb, .bank]
  | .wpr d _ => [.s d, .view]
  | .stdefLoad n _ | .stposWrite n _ => [.st n]
  | .stposRead d _ => [.s d]
  | .stdefStore .. => [.stores, .mem, .own]
  | .ftset n _ => [.table, .entry n]
  | .fmtsel .. => [.ef]
  | .lutld _ => [.flag seta, .tables]
  | .lutswap => [.lut]
  | .rngseed .. => [.gen]
  | .csrw _ n _ => [.csr n]
  | _ => []

/-! ## What a word's operands name -/

/-- The values of operands in the lowest executing lane, where the word can read them. -/
def State.voteOf (s : State) (srcs : List (Src × Nat)) : Option (List Word) :=
  match s.sources s.exec_ srcs with
  | .ok r => some (r.2.map fun x => x.at (firstLane s.exec_))
  | .error _ => none

/-- What a matrix word's format word names: its entries, the generation that it checks, the scale scalars of A and of B that the word
reads, and what the rounding of a conversion reads (R238, R239, R301). -/
def FmtWord.places (w : FmtWord) (scaleA scaleB convert : Bool) (rnd : Nat) : List Place :=
  [.entry w.ae, .entry w.be, .entry w.acc, .entry w.out] ++ (if w.gen ≠ 0 then [.table] else []) ++
    (if scaleA && (w.asm == 1 || w.asm == 2) then [.s w.asc] else []) ++
    (if scaleB && (w.bsm == 1 || w.bsm == 2) then [.s w.bsc] else []) ++
    (if convert then (if rnd = 0 then [.csr 0x05] else if rnd = 3 then [.gen] else []) else [])

/-- What a word reads by names that its operands' values give: format-table entries, and what a format word names. -/
def State.namedPlaces (s : State) (i : Instr) : List Place :=
  let fmt (a b : Src) (k : FmtWord → List Place) : List Place := match s.voteOf [(a, 0), (b, 0)] with
    | some [_, x] => k (fmtWord x)
    | _ => []
  match i with
  | .cvt _ _ b _ => match s.voteOf [(b, 0)] with
    | some [x] => [.entry (cvtSpec x).src, .entry (cvtSpec x).dst]
    | _ => []
  | .fatom .. => match s.voteOf [(s.srcC, 0)] with
    | some [x] => [.entry (bits x 7 0)]
    | _ => []
  | .plst _ a _ | .plld _ a _ => match s.voteOf [(a, 0)] with
    | some [x] => [.entry (bits x 63 56)]
    | _ => []
  | .mma _ _ a b _ => fmt a b fun w => w.places true true false 0
  | .qtileMax _ a b => fmt a b fun w => w.places true false false 0
  | .qtileCvt a b => fmt a b fun w => w.places true false true w.rnd
  | .mstConvert _ _ a b _ => fmt a b fun w => w.places false false true w.rnd
  | .mrdConvert _ a b _ => fmt a b fun w => w.places false false true (if s.pfx.rm = 0 then w.rnd else s.pfx.rm)
  | _ => []

/-- What a word reads in a state in which it is about to execute: none for a step that is no word. -/
def State.readsNow (s : State) (i : Instr) : Option (List Place) :=
  (readsOf s.pfx s.g.ef i).map fun l => l ++ srcPlaces s.srcC ++ (if s.pfx.m = 0 then [] else [.m s.pfx.m]) ++ s.namedPlaces i

/-- The ranges of virtual addresses that a word reads on its own account: stream elements, and the blocks that uniform words read or write at
once; none where they cannot be told: CHAPP also writes the card before its own. -/
def State.ownRanges (s : State) (i : Instr) (reads : List Place) : Option (List (Nat × Nat)) :=
  let at_ (a n : Nat) : Nat × Nat := ((s.g.sreg a).val.toNat, n)
  match i with
  | .launch _ a | .ember _ a | .stdefLoad _ a => some [at_ a 64]
  | .seqw a _ | .seqr _ a => some [at_ a 48]
  | .ftset _ a => some [at_ a 32]
  | .lutld a => some (imageParts (s.g.sreg a).val.toNat)
  | .chapp .. => none
  | _ => some ((s.allElems (reads.filterMap fun c => match c with
      | .st n => some n
      | _ => none)).map fun x => x.2)

/-! ## Bytes in common -/

/-- The bytes of scratchpad, or of memory, that an operation reads or writes. -/
def Op.spans (o : Op) : List (Nat × Nat) :=
  match o.kind with
  | .matrix m => m.ranges
  | _ => o.items.map fun i => (i.pa, i.w)

/-- The operation works in scratchpad. -/
def OpKind.inSpad (k : OpKind) : Bool :=
  match k with
  | .matrix _ => true
  | k => k.onSpad

/-- The operations that one group of a gang has put in flight share no byte with those of another (R38). -/
def disjoint (first second : List Op) : Bool :=
  !first.any fun o => second.any fun p => o.kind.inSpad == p.kind.inSpad && overlaps o.spans p.spans

/-- The operations that a group has put in flight share no byte of memory with what the next reads on its own account (R38). -/
def State.clear (s : State) (first : List Op) (ranges : Option (List (Nat × Nat))) : Bool :=
  match ranges with
  | none => false
  | some l => !l.any fun r => match s.look r.1 with
    | some e => first.any fun o => !o.kind.inSpad && overlaps o.spans [(e.phys r.1, r.2)]
    | none => false

/-! ## The first group -/

/-- The instruction of a group's words, its prefix apart. -/
def groupInstr (ws : List Nat) : Option Instr :=
  match decode (ws.dropWhile isPrefix) with
  | .ok (i, _) => some i
  | .error _ => none

/-- The group of an instruction has drawn random bits: its prefix says so, or the matrix operation that it put in flight rounds
stochastically (R229, R308). -/
def drewBits (ws : List Nat) (i : Instr) (first : List Op) : Bool :=
  (isPrefix (ws.headD 0) && fld (ws.headD 0) 19 18 == 3) || (match i with
    | .mstConvert .. | .mrdConvert .. | .qtileCvt .. => first.any fun o => match o.kind with
      | .matrix m => m.mode == 5
      | _ => false
    | _ => false)

/-- What a group writes, from its words and what it put in flight; the C operand of its prefix may be a stream, which advances. -/
def groupWrites (c : Clause) (ws : List Nat) (first : List Op) : Option (List Place) :=
  (groupInstr ws).map fun i => writesOf (drewBits ws i first) c.seta c.setb i ++
    (if isPrefix (ws.headD 0) then laneWrites 112 [⟨fld (ws.headD 0) 15 9, 0⟩] else [])

end Sys2Proof.Machine
end

