-- ==== Sys2Proof/Machine/Poll.lean ====
section
/-! DEFINITION. The arithmetic cycle (R38, R327, R328): in each cycle every gang that may issue is looked at once, to find
whether its next group is ready; then the slots are filled one by one, and the cycle ends. (Log entry 9, DEDUCED.) -/

namespace Sys2Proof.Machine

/-- The state of an outcome, or the one it came from. -/
def State.after (s : State) (o : Host.Outcome State Fault Refusal) : State :=
  match o with
  | .next t => t
  | _ => s

/-- The gang may go on issuing. -/
def State.mayGo (s : State) (g : Gang) : Bool :=
  s.runnable g && (match g.wait with
    | .trap _ => false
    | _ => true)

/-- Issue from the current gang: a clause, or the group at its position. -/
def State.issueStep (s : State) : Host.Outcome State Fault Refusal :=
  if s.mayGo s.g then
    match s.g.cl with
    | none => exec .clauseIssue s
    | some c =>
      if c.refetch then exec .clauseIssue s
      else match s.decodeNext with
        | .ok (t, i) => exec i t
        | .error h => s.concludeKeep (.error h)
  else .next { s.setG { s.g with turn := .no } with phase := .select }

/-! ## Whether a group is ready -/

/-- A gang's next group, tried: its slot, its instruction, the state in which that executes, and the state that it would give. -/
structure Trial where
  lane : Bool
  instr : Instr
  inp : State
  out : State

/-- Try the current gang's next group, its prefix with its word; where the group cannot be read, the state which that
leads to. -/
def State.tryGroup (s : State) : Except State Trial :=
  let first (u : State) : Nat := (u.cl.words.headD 0)
  match s.decodeNext with
  | .error h => .error (s.after (s.concludeKeep (.error h)))
  | .ok (t, i) =>
    let u := t.after (exec i t)
    if u.g.latch.isSome then
      match u.decodeNext with
      | .error h => .error (u.after (u.concludeKeep (.error h)))
      | .ok (t2, i2) => .ok { lane := true, instr := i2, inp := t2, out := t2.after (exec i2 t2) }
    else .ok { lane := fld (first t) 31 31 == 0, instr := i, inp := t, out := u }

/-- Whether the gang's next group has waited out its stall code (R79, R81). -/
def Gang.stallDone (g : Gang) (cyc : Nat) : Bool :=
  match g.lastIssue, g.cl with
  | some t, some c => decide (t + 1 + (match c.stallAt c.first with
    | 0 => 0
    | 1 => 1
    | 2 => 3
    | _ => 7) ≤ cyc)
  | _, _ => true

/-- The word arrives at a team barrier when it is executed again (R346): it takes the uniform slot for it, so that no two arrivals of a
team fall in one cycle. -/
def arrivesAt (i : Instr) (w : Wait) : Bool :=
  match i, w with
  | .bar .., .bar .. => false
  | .bar .., _ | .bara .., _ => true
  | _, _ => false

/-- Put a gang's turn. -/
def State.setTurn (s : State) (k : Nat) (t : Turn) : State := s.setGang k { s.gang k with turn := t }

/-- The turn of a gang that is ready with a group. -/
def Trial.turn (t : Trial) : Turn := if t.lane then .lane else .uniform

/-- What a tried group of a gang comes to: it is ready for its slot, which a wait that begins takes as well; or the interlock holds it, or
it is not ready (R289); or it had issued, and its wait goes on or is over. -/
def State.settleTrial (s : State) (k : Nat) (t : Trial) : State :=
  let before := (s.gang k).wait
  let w := (t.out.gang k).wait
  let ready := match w with
    | .none | .trap _ => !before.issued || arrivesAt t.instr before
    | w => w.issued && (!before.issued || w.arrivesAfter before)
  if ready then s.setTurn k t.turn else t.out.setTurn k .no

/-- Look at a gang once in a cycle: its clause issues when it stands in none, and its next group is tried. -/
def State.pollFresh (s : State) (k : Nat) : State :=
  let g := s.gang k
  if !g.wait.issued && !g.stallDone s.cyc then s.setTurn k .no
  else
    let open_ := match g.cl with
      | none => true
      | some c => c.refetch
    let s1 := if open_ then s.after (exec .clauseIssue s) else s
    let g1 := s1.gang k
    if !s1.mayGo g1 || g1.cl.isNone || (open_ && (g1.wait != .none || !g1.stallDone s.cyc)) then s1.setTurn k .no
    else match s1.tryGroup with
      | .error u => u.setTurn k .no
      | .ok t => s1.settleTrial k t

/-! ## Pairing (R38) -/

/-- Two groups of one gang may issue in one cycle: one is a lane group and the other a uniform one, the second's stall code is 0, and it
reads nothing that the first writes (R38); memory is read and written by the operations that they put in flight, `old` and `new`, and by
words on their own account.  What CHAPP reads and writes of memory is taken to meet what the other accesses. (Log entry 9, DEDUCED.) -/
def mayPair (c : Clause) (t : Trial) (old new : List Op) : Bool :=
  match groupWrites c c.prev old, t.inp.readsNow t.instr with
  | some writes, some reads =>
    c.stallAt c.first == 0 && (fld ((c.prev.dropWhile isPrefix).headD 0) 31 31 == 0) != t.lane &&
      reads.all fun x => !writes.contains x || (x == .mem && disjoint old new) ||
        (x == .own && t.inp.clear old (t.inp.ownRanges t.instr reads))
  | _, _ => false

/-- A gang that issued a group in this cycle, and whose core's other slot is free, is ready with its next group when the two
may pair (R328, R38). -/
def State.pollPair (s : State) (k : Nat) : State :=
  let g := s.gang k
  let c := s.core g.core
  let open_ := if c.laneWon == some k then c.uniWon.isNone else c.uniWon == some k && c.laneWon.isNone
  if !open_ then s.setTurn k .no
  else match s.tryGroup with
    | .error _ => s.setTurn k .no
    | .ok t =>
      let held := match (t.out.gang k).wait with
        | .none | .trap _ => false
        | w => !w.issued
      -- what the first group has put in flight in this cycle, and what the second would
      let old := ((s.ops.filter fun o => o.gang == k).getLast?).toList
      let new := t.out.ops.filter fun o => o.gang == k && decide (s.nextOp ≤ o.id)
      if held || !mayPair s.cl t old new then s.setTurn k .no else s.setTurn k t.turn

/-! ## The cycle -/

/-- The gangs still to be looked at in this cycle, by gang slot. -/
def State.unpolled (s : State) : List Nat :=
  let l := s.gangs.filter fun e => s.mayGo e.2 && (e.2.turn == .fresh || e.2.turn == .pair)
  (List.range Config.slots).flatMap fun i => (l.filter fun e => e.2.slot == i).map (·.1)

/-- Look at one gang. -/
def State.pollGang (s : State) (k : Nat) : State :=
  let g := s.gang k
  let s1 : State := { s with cur := k }
  let t := if g.turn == .pair then s1.pollPair k else if s.mayGo g then s1.pollFresh k else s1.setTurn k .no
  { t with phase := .select }

/-- Look at every gang that has not been looked at. -/
def State.pollAll (s : State) : State := s.unpolled.foldl State.pollGang s

/-- R63's condition on a core, as the cycle leaves it. -/
def State.noteTight (s : State) (core : Nat) (c : Core) : Core :=
  { c with laneWon := none, uniWon := none,
           stuckSince := if s.slabTight core then some (c.stuckSince.getD s.cyc) else none }

/-- The cycle ends: the gangs that were ready and did not issue age (R327), a gang among them whose second group of the cycle, which was
to pair with its first, lost its slot. (Log entry 82, DESIGN CHOICE.) -/
def State.endCycle (s : State) : State :=
  let one (g : Gang) : Gang :=
    { g with turn := .fresh,
             age := if s.runnable g && (g.turn == .lane || g.turn == .uniform) then g.age + 1 else g.age }
  { s with
    cyc := s.cyc + 1
    phase := .events
    gangs := s.gangs.map fun e => (e.1, one e.2)
    cores := s.cores.map fun e => (e.1, s.noteTight e.1 e.2) }

/-- The choice of the issuing gang: each gang is looked at, then a slot is filled, or the cycle ends. -/
def State.selectStep (s : State) : Host.Outcome State Fault Refusal :=
  if !s.unpolled.isEmpty then .next s.pollAll
  else match s.nextSelect with
    | some core => exec (.gangIssueSelect core) s
    | none => .next s.endCycle

end Sys2Proof.Machine
end

