-- ==== Sys2Proof/Machine/Due.lean ====
section
/-! DEFINITION. The device step that comes about next when none is on the agenda (log entry 1, DESIGN CHOICE): the first, in the order below,
whose condition holds and that changes something. -/

namespace Sys2Proof.Machine

/-! ## Operations in flight -/

/-- The first access of an operation that may be performed: its position and itself. -/
def State.readyItem (s : State) (o : Op) : Option (Nat × Item) :=
  (o.items.zipIdx.find? fun x => s.mayPerform o x.2 x.1).map fun x => (x.2, x.1)

/-- The line that leaves a full set of L1 for a new one: the one granted first. -/
def Core.victim (c : Core) (line : Nat) : List Nat :=
  if c.l1Room line [] then []
  else match (c.l1.filter fun x => l1Set x.line == l1Set line) with
    | [] => []
    | x :: r => [(r.foldl (fun b y => if y.grant < b.grant then y else b) x).line]

/-- The tensor move of a DEMOTE can end now. -/
def State.demoteDue (s : State) (o : Op) (idx tier : Nat) : Bool :=
  let tag := (s.ctx o.ctx).part
  match (s.part tag).resOf o.ctx idx with
  | none => true
  | some e => (s.tierPlan e tier).isNone || (s.moveTensor tag idx tier).isSome

/-- What is due of an operation in flight. -/
def State.opDue (s : State) (o : Op) : Option Instr :=
  match o.kind with
  | .load _ _ spad =>
    if o.allDone then some (.loadComplete o.id)
    else (s.readyItem o).map fun x =>
      .loadMissServe o.id x.1 (if spad then [] else (s.core o.core).victim (x.2.pa / 128)) []
  | .prefetch => (s.readyItem o).map fun x => .loadMissServe o.id x.1 ((s.core o.core).victim (x.2.pa / 128)) []
  | .store _ | .atomic .. | .red .. =>
    if o.allDone then some (.storeAck o.id) else (s.readyItem o).map fun x => .storePerformed o.id x.1
  | .sfu .. | .xfc .. =>
    if o.kind.isSfu && !(s.ops.any fun p => p.gang == o.gang && p.kind.isSfu && decide (p.id < o.id)) then
      some (.sfuComplete o.id)
    else none
  | .matrix m => if s.matrixReady o m then some (.matrixOpComplete o.id) else none
  | .lutld bank _ _ _ => if s.lutldReady o bank then some (.lutldComplete o.id) else none
  | .demote idx tier => if s.demoteDue o idx tier then some (.demoteMoveEnd o.id) else none
  | .copy _ | .chapp .. => none

/-! ## Engines -/

/-- A closed round of a team's handle can go on or end now. -/
def State.roundDue (s : State) (tk : Nat) (h : Handle) : Bool :=
  let out_ := h.state == .draining
  if !(h.isOpen && h.closed) then false
  else if h.moved < h.hi - h.lo then
    (match (({ st := s } : Mover).copyWord tk h (h.lo + h.moved)).stop with
      | some .wait => out_ && decide (h.comp ≤ s.ns) && h.ptr != h.moved
      | _ => true)
  else !out_ || decide (h.comp ≤ s.ns)

/-- A closed round that can go on, or end. -/
def State.copyDue (s : State) : Option Instr :=
  s.teams.findSome? fun t => (t.2.handles.find? fun h => s.roundDue t.1 h.2).map fun h =>
    .copyRoundEnd t.1 h.1 (h.2.hi - h.2.lo)

/-- A card that a free ladle can take. -/
def State.acceptDue (s : State) : Option Instr :=
  s.chains.findSome? fun c =>
    let tag := (s.ctx c.2.ctx).part
    if s.waitingCard tag c.2 then
      match (List.range 48).find? fun l => s.ladleFree tag l with
      | some l => if (s.after (execLadleAccept c.1 l s)).nextKey ≠ s.nextKey then some (.ladleAccept c.1 l) else none
      | none => none
    else none

/-- A job that can go on or end by itself: not one that sends its request now, for only its peer's answer ends it (R437; log entry 44,
DEDUCED). -/
def State.jobDue (s : State) : Option Instr :=
  (s.jobs.find? fun j => j.status.isNone && !j.back && s.depsDone j &&
    (let t := s.after (execLadleJobEnd j.id { upto := j.total } s)
     t.out == s.out && !t.jobs.any fun x => x.id == j.id && x.status.isNone && x.made == j.made)).map fun j => .ladleJobEnd j.id { upto := j.total }

/-- A chain whose sequence number can advance. -/
def State.chainDue (s : State) : Option Instr :=
  (s.chains.find? fun c => Sys2Proof.Machine.advance s.ns c.2.ended.length c.2.ended c.2.done != c.2.done).map fun c => .chainSequenceAdvance c.1

/-- An instruction-line request: its walk, or its line when that can be read. -/
def State.fetchDue (s : State) : Option Instr :=
  s.cores.findSome? fun c => (c.2.freq.find? fun r => if r.walk then s.walkReady c.1 r else s.lineReady r).map fun r =>
    if r.walk then .fetchWalkResult c.1 (r.va * 64) else .instructionLineArrive c.1 (r.va * 64)

/-- An access from outside that can be performed or answered. -/
def State.inboundDue (s : State) : Option Instr :=
  (s.inbound.find? fun e => if e.performed then decide (e.comp ≤ s.ns) else s.inboundReady e).map fun e => .inboundWrite e.id

/-- A FENCE whose lease wait has ended. -/
def State.leaseWaitDue (s : State) : Option Instr :=
  (s.gangs.find? fun e => e.2.wait == .lease && (e.2.pend.isSome || e.2.seenPend.isSome) && decide (e.2.lastPend ≤ s.ns)).map fun e =>
    .fenceLeaseWaitEnd e.1

/-! ## The dispatcher -/

/-- The head's waiting time is to be noted or cleared. -/
def State.headDue (s : State) (tag : Nat) : Bool :=
  match s.dispatchOrder tag with
  | [] => false
  | w :: r => (r.any fun x => (s.headTime x).isSome) || ((s.fitting tag w).isEmpty != (s.headTime w).isSome)

/-- A team to place, or a head to note. -/
def State.placeDue (s : State) : Option Instr :=
  (s.parts.find? fun p => (s.placeable p.1).isSome || s.headDue p.1).map fun p => .teamPlace p.1

/-- A gang that may retire. -/
def State.retireDue (s : State) : Option Instr := (s.gangs.find? fun e => s.mayRetire e.1).map fun e => .gangRetire e.1

/-- What is due of a partition's waiting teams. -/
def State.partDue (s : State) : Option Instr :=
  s.parts.findSome? fun p =>
    if (s.headStuck p.1 100000).isSome && p.2.reservation.isNone && !(s.openCores p.1).isEmpty then some (.coreReservation p.1)
    else if (s.preemptPlan p.1).isSome then some (.preemptRequest p.1)
    else if s.grids.any fun g => g.2.part == p.1 && decide (g.2.nextTeam < g.2.record.teams) &&
        decide (g.2.ageMark + 1000000 ≤ s.ns) then some (.gridAging p.1)
    else none

/-- A resident team's swap threshold has passed (R336). -/
def State.swapDue (s : State) (tk : Nat) (t : Team) : Bool :=
  let thr := (s.ctx t.ctx).swapthr * 1000
  thr != 0 && decide (thr ≤ s.ns) && (s.allWait tk Wait.atBarrier (s.ns - thr) || s.allWait tk Wait.atChild (s.ns - thr))

/-- An ember team is to leave (R415). -/
def State.emberDue (s : State) (tk : Nat) (t : Team) : Bool :=
  t.ember && (s.crowds tk || (match (s.core t.core).underSince with
    | some x => !(s.core t.core).candidate && decide (x + 1000 ≤ s.ns)
    | none => false))

/-- What is due of a resident team that is not being stopped. -/
def State.teamDue (s : State) : Option Instr :=
  s.teams.findSome? fun e =>
    if e.2.life != .resident || e.2.stopping.isSome then none
    else if (match e.2.drainBy with
      | some d => decide (d ≤ s.ns) || s.allWait e.1 Wait.atBarrier s.ns
      | none => false) then some (.drainDeadline e.1)
    else if s.swapDue e.1 e.2 then some (.swapOut e.1)
    else if s.emberDue e.1 e.2 then some (.emberFlush e.1)
    else none

/-- A core's level has stood above its need for 1 µs, and the partition has registrations to launch (R415). -/
def State.emberLaunches (s : State) (core : Nat) : Bool :=
  match s.partOf (coreSlice core) with
  | none => false
  | some (tag, _) => s.ctxs.any fun c => c.2.part == tag && !c.2.stopped && c.2.embers.any fun e => !s.emberInFlight c.1 e.1

/-- What is due of a core. -/
def State.coreDue (s : State) : Option Instr :=
  s.cores.findSome? fun c =>
    let now := s.emberReady c.1
    let alone := match s.teams.filter fun e => e.2.life == .resident && e.2.core == c.1 with
      | [_] => true
      | l => l.all fun e => e.2.stopping.isNone
    if s.slabStuck c.1 && alone then some (.slabDeadlock c.1)
    else if now != c.2.candidate || (now && s.emberLaunches c.1) then some (.emberCandidate c.1)
    else match c.2.slices.find? fun x =>
        let t := (s.ctx x.1).tslice
        t != 0 && !(s.ctxTeams c.1 x.1).isEmpty && decide (t * 1000 ≤ x.2.now s.ns) with
      | some x => some (.timeSliceExpiry c.1 x.1)
      | none => (c.2.l1.find? fun l => decide (l.expiry ≤ s.ns)).map fun l => .leaseExpiry c.1 l.ctx l.line

/-! ## Hearth and the endpoint -/

/-- A phase of a reforge can end. -/
def State.reforgeDue (s : State) : Option Instr :=
  s.parts.findSome? fun p => match p.2.reforge with
    | none => none
    | some r =>
      if r.ticked then some (.reforgeSettleEnd p.1)
      else if s.quiesced p.1 r ((s.reforgePlan p.1 r).getD []) then some (.reforgeTick p.1) else none

/-- The command of a message that the endpoint can hold back. -/
def heldCommand (m : Msg) : Option Instr :=
  match m.op with
  | 0x11 => some (.fenceCmd m)
  | 0x12 => some (.ctxdel m)
  | 0x21 => some (.read m)
  | 0x22 => some (.launchCmd m)
  | _ => none

/-- A held command that can go on: fewer are held after it. -/
def State.heldDue (s : State) : Option Instr :=
  s.sessions.findSome? fun x => x.2.deferred.findSome? fun q => match heldCommand q.2 with
    | some i => if ((tget (s.after (exec i s)).sessions x.1 {}).deferred.length < x.2.deferred.length) then some i else none
    | none => none

/-- A stopped context whose image does not stand yet. -/
def State.stopDue (s : State) : Option Instr :=
  (s.ctxs.find? fun c => c.2.stopped && !c.2.deleting && s.ctxStill c.1 && (tget? s.images c.1).isNone).map fun c => .contextStop c.1

/-- The coolant timeout (R443). -/
def State.coolantDue (s : State) : Option Instr :=
  if 0 < s.dev.stage ∧ s.dev.coolantBad = true ∧ s.dev.coolantSince + 2000000000 ≤ s.ns then some .coolantLossTimeout else none

/-- A rail's boundaries can change something: its slice is a partition's, or its levels and permits have still to come to rest since it
was one's.  At rest its boundaries change nothing, and it takes them when a partition has it again. (Log entry 48, DEDUCED.) -/
def State.railLive (s : State) (i : Nat) : Bool :=
  (s.partOf i).isSome ||
  (s.cores.any fun e => coreSlice e.1 == i && (e.2.level != 0 || e.2.needSince.isSome || e.2.excessSince.isSome || e.2.overSince.isSome)) ||
  s.clusters.any fun e => sliceOf e.1 == i && (e.2.permits != 64 || e.2.level != 0 || e.2.ranHigh || e.2.busy)

/-- A rail has a step boundary or an interval boundary to take, whose instant has come (R405, R419). -/
def State.railDue (s : State) : Option Instr :=
  (List.range 12).findSome? fun i =>
    let step := decide ((s.rail i).step < s.stepNow)
    if (step || decide ((s.rail i).coalAt < s.ns / 10000)) && s.railLive i then
      some (if step then .bellowsStep i else .coalInterval i)
    else none

/-- The next device step that is due. -/
def State.due (s : State) : Option Instr :=
  s.coolantDue <|> (s.ops.findSome? fun o => s.opDue o) <|> s.copyDue <|> s.fetchDue <|> s.acceptDue <|> s.jobDue <|>
    s.chainDue <|> s.inboundDue <|> s.leaseWaitDue <|> s.retireDue <|> s.placeDue <|> s.heldDue <|> s.reforgeDue <|>
    s.stopDue <|> s.partDue <|> s.teamDue <|> s.coreDue

end Sys2Proof.Machine
end

