-- ==== Sys2Proof/Machine/Step.lean ====
section
/-! DEFINITION. One step of the device (log entry 1, DESIGN CHOICE): a device step from the agenda, else the scheduler's turn: the
choice of the issuing gang, the issue of its next group, or a device step that is due.  Each step takes `pace`
nanoseconds (log entry 5, DESIGN CHOICE), but the boundaries of the rails, which take none. -/

namespace Sys2Proof.Machine

/-- Time passes: the lease clock and the time base (R139, R441). (Log entry 5, DESIGN CHOICE.) -/
def State.tick (s : State) : State := { s with ns := s.ns + s.pace, ptp := s.ptp + s.pace }

/-- Time passes over a next state. -/
def ticked (o : Host.Outcome State Fault Refusal) : Host.Outcome State Fault Refusal :=
  match o with
  | .next s => .next s.tick
  | x => x

/-- The scheduler's turn. (Log entry 5, DESIGN CHOICE.) -/
def State.turn (s : State) : Host.Outcome State Fault Refusal :=
  match s.phase with
  | .issue => s.issueStep
  | .select => s.selectStep
  | .events =>
    match s.settle.due with
    | some i => exec i { s.settle with phase := .select }
    | none => .next { s.settle with phase := .select }

/-- One step of the device.  A boundary of a rail whose instant has come is taken before anything else happens, and takes no time,
so that what arises later leaves the steps before it alone (R405, R419; log entry 48, DEDUCED). -/
def step (s : State) : Host.Outcome State Fault Refusal :=
  match s.railDue with
  | some i => exec i s
  | none => ticked (match s.agenda with
    | [] => s.turn
    | i :: rest => if s.phase = .issue ∧ s.g.latch.isSome then s.turn else exec i { s with agenda := rest })

/-! ## The interface's placement of one instruction -/

/-- LEN of the clause that `withFetchWord` places: the instruction is its last, but a prefix word needs the lane word
after it. -/
def fetchLen (words : List Nat) : Nat :=
  match decode words with
  | .ok (.pfx .., _) => 1
  | .ok (_, n) => n - 1
  | .error _ => words.length - 1

/-- The gang that `withFetchWord` places: gang 0 of a team of 32 threads in context 0 of the partition of slice 0, as
R39 starts it, at body position 0 of a clause at address 0 with no flags. -/
def fetchGang (s : State) (len : Nat) : Gang :=
  { s.newGang 2 0 0 0 with cl := some { addr := 0, len := len, active := 0xFFFFFFFF } }

/-- The rails stand at the clock: none has a boundary to take. -/
def State.railsOnTime (s : State) : State :=
  (List.range 12).foldl (fun (st : State) i =>
    let r := st.rail i
    if r.step < s.stepNow ∨ r.coalAt < s.ns / 10000 then
      st.setRail i { r with step := max r.step s.stepNow, coalAt := max r.coalAt (s.ns / 10000) }
    else st) s

/-- A state whose very next step runs the instruction of `nbits` bits `w`: stage 4, one partition, context 0, one
grid and team on core 0, the translation of page 0, and the words in the core's L0 (log entry 2, DESIGN CHOICE). -/
def State.withFetchWord (s : State) (nbits w : Nat) : State :=
  let words := tableWords nbits w
  let r : LaunchRec := { accs := 8, bars := 16, handles := 64, spad := 393216, drawMax := 3, wfloor := 96, sup := true }
  let rd : TlbEntry :=
    { ctx := ctxKey 1 0, va := 0, lg := 16, pa := 0, ia := 0, r := true, w := true, x := true, user := true, shared := true,
      leaf1 := 0, leaf2 := none, d1 := true, d2 := true, r1 := true, w1 := true, x1 := true }
  let bytes := (List.replicate 8 0 ++ bytesOfWords words ++ List.replicate 64 0).take 64
  let t : Team :=
    { grid := 1, ctx := ctxKey 1 0, part := 1, core := 0, life := .resident, gangs := [3], spadLen := 393216,
      accIdx := List.range 8, barIdx := List.range 16, hIdx := List.range 64 }
  let s1 : State :=
    { s with
      agenda := []
      phase := .issue
      cur := 3
      nextKey := 4
      dev := { s.dev with stage := 4 }
      parts := tput s.parts 1 { ladles := [0] }
      ctxs := tput s.ctxs (ctxKey 1 0) { part := 1 }
      grids := tput s.grids 1 { record := r, ctx := ctxKey 1 0, part := 1, level := 2, nextTeam := 1 }
      teams := tput s.teams 2 t
      cores := tput s.cores 0 { s.core 0 with tlb := [rd], l0 := [{ line := 0, bytes := bytes }] } }
  (s1.setGang 3 (fetchGang s1 (fetchLen words))).railsOnTime

end Sys2Proof.Machine
end

