-- ==== Sys2Proof/Safety.lean ====
section
/-! DEFINITION. The words that statements about the machine use: what a group leaves behind when it is complete, which
parts of the state an instruction leaves alone, and the conditions under which one can run. -/

namespace Sys2Proof.Machine

/-- What an instruction answers. -/
abbrev Answer := Host.Outcome State Fault Refusal

/-! ## What issuing moves -/

/-- A gang with what issuing a group moves put aside: the clause with its position, the prefix, the lanes' PCs, the staged
registers (R70), the wait it stood in, its age (R327), its turn in the cycle and the marks of when it issued (R81, R416).  Every
register, flag and special register stays. -/
def Gang.still (g : Gang) : Gang :=
  { g with cl := none, latch := none, pcv := Vector.replicate 32 0, staged := [], wait := .none, age := 0, turn := .fresh,
           lastIssue := none, began := false, chargedAt := none }

/-- A core with its issue slots put aside (R328). -/
def Core.still (c : Core) : Core := { c with laneWon := none, uniWon := none, lastLane := none, lastUniform := none }

/-- The device without its gangs, clusters and cores, and without the scheduler's phase. -/
def State.apart (s : State) : State := { s with phase := .select, gangs := [], clusters := [], cores := [] }

/-- `u` is what a word leaves of `w` when its group is complete.  The gang is that of `w` but for its place in the code and its turn;
other gangs are as in `w`; cores differ in their issue slots only (R328), clusters in the busy mark of the coal interval only (R419);
everything else, and every byte of memory, is as in `w`. -/
structure Ends (w u : State) : Prop where
  cur : u.cur = w.cur
  gang : u.g.still = w.g.still
  others : ∀ k, k ≠ w.cur → u.gang k = w.gang k
  clusters : ∀ k, { u.cluster k with busy := true } = { w.cluster k with busy := true }
  cores : ∀ k, (u.core k).still = (w.core k).still
  rest : u.apart = w.apart
  bytes : ∀ a, u.mem.byte a = w.mem.byte a

/-- The current gang is listed in the table of gangs, and stands in a clause. -/
structure State.inClause (s : State) : Prop where
  clause : s.g.cl.isSome = true
  listed : s.setG s.g = s

/-! ## Lane words -/

/-- Vector register `d` can be written: no operation in flight has yet to write it, and it has its slab or can take one
(R57, R61, R76).  D codes 104 (TR) and 112 (ZERO) can always be written. -/
def State.canPut (s : State) (d : Nat) : Prop :=
  d < 96 → s.vBusy d = false ∧ ((s.g.vreg d).isP = true ∨ s.slabFree s.cur = true)

/-- Scalar `d` can be written: no operation in flight has yet to write it. -/
def State.canPutS (s : State) (d : Nat) : Prop := d < 256 ∧ s.sBusy d = false

/-- Scalar `a` can be read: no operation in flight has yet to write it, and it carries no poison mark (R175, R271). -/
def State.canGet (s : State) (a : Nat) : Prop := s.sBusy a = false ∧ (s.g.sreg a).mark = none

/-- No flag that the word raises in an executing lane is one that csr.xftrap enables, or NF puts the flags aside (R235, R236). -/
def State.quietFlags (s : State) (f : Nat → Byte) : Prop :=
  s.pfx.nf = 1 ∨ ∀ l, l < 32 → inSet s.exec_ l = true → f l &&& (s.ctx s.g.ctx).xftrap = 0

/-- What a lane word leaves that gives `r l` in each executing lane `l`, raising flags `f l` there; `s` is the state it began
in, `st` that after its operands were read.
Executing lanes of D take the result, zeroed lanes 0, and the other live lanes keep what they held (R56); the result goes into
the bypass (R67, R68); the flags are sticky (R51, R235).  Every other register of the gang, every other gang, and every byte of
memory is as the operands left it. -/
structure LaneDone (s st u : State) (d : Nat) (r : Nat → Word) (f : Nat → Byte) : Prop where
  lanes : d < 96 → ∀ l, l < 32 → inSet s.exec_ l = true → (u.g.vreg d).lane l = { val := r l }
  zeroed : d < 96 → ∀ l, l < 32 → inSet s.g.live l = true → inSet s.exec_ l = false → inSet s.zeroed l = true →
    (u.g.vreg d).lane l = {}
  kept : d < 96 → ∀ l, l < 32 → inSet s.g.live l = true → inSet s.exec_ l = false → inSet s.zeroed l = false →
    (u.g.vreg d).lane l = (s.g.vreg d).lane l
  others : ∀ n, n ≠ d → u.g.vreg n = s.g.vreg n
  pushed : ∀ l, l < 32 → inSet s.exec_ l = true → (u.g.bp.getD 0 (.u 0)).lane l = { val := r l }
  older : u.g.bp.drop 1 = s.g.bp.take 2 ∧ u.g.pushes = s.g.pushes + 1
  sticky : ∀ l : Fin 32, u.g.xf[l] = s.g.xf[l] ||| (if s.pfx.nf ≠ 1 ∧ inSet s.exec_ l = true then f l else 0)
  frame : Ends (st.setG { st.g with v := u.g.v, bp := u.g.bp, pushes := u.g.pushes, xf := u.g.xf }) u

/-- A lane word can run: some lane executes, its prefix fields are ones it accepts (R86), its operands can be read over the
lanes `look` (they give `xs`, and leave the state `st`: streams advance), and D can be written. -/
structure LaneRun (s : State) (k : Accept) (look : Lanes) (srcs : List (Src × Nat)) (st : State) (xs : List VReg) (d : Nat) :
    Prop where
  here : s.inClause
  fields : s.accept k = .ok ()
  lane : s.exec_ ≠ 0
  read : s.sources look srcs = .ok (st, xs)
  ready : s.canPut d
  dest : st.canPut d

/-- A lane word as a table of statements holds it: its constructor, the prefix fields it accepts, its operands with their
views (the third source is the prefix's C), and what it gives in a lane: from its T or k, the lane number and the operands'
values there, a test of the result. -/
structure LaneRow where
  instr : Nat → Src → Src → Nat → Instr
  accept : Accept := {}
  reads : Src → Src → Src → Nat → List (Src × Nat)
  holds : State → Nat → Nat → (Nat → Word) → Word → Prop

/-- Element `j` of a value seen through a view of `w`-bit elements: element 0 is the lowest (R8, R50). -/
def el (w : Nat) (x : Word) (j : Nat) : BitVec w := x.extractLsb' (w * j) w

/-- Each element of the result is a function of the operands' elements of the same number (R247). -/
def each (f : (w : Nat) → (Nat → BitVec w) → BitVec w) : State → Nat → Nat → (Nat → Word) → Word → Prop :=
  fun _ t _ x r => ∀ j, j < viewCount t → el (viewWidth t) r j = f (viewWidth t) fun i => el (viewWidth t) (x i) j

/-- Two sources through the T view. -/
def readAB (a b _c : Src) (t : Nat) : List (Src × Nat) := [(a, t), (b, t)]
/-- One source through the T view. -/
def readA (a _b _c : Src) (t : Nat) : List (Src × Nat) := [(a, t)]
/-- Two sources as plain 64-bit values. -/
def readAB64 (a b _c : Src) (_t : Nat) : List (Src × Nat) := [(a, 0), (b, 0)]

/-- The integer, logic, shift and count words without SAT (R247, R249, R250). -/
def intRows : List LaneRow := [
  { instr := .iadd, accept := { nf := true, sat := true }, reads := readAB, holds := each fun _ x => x 0 + x 1 },
  { instr := .isub, accept := { nf := true, sat := true }, reads := readAB, holds := each fun _ x => x 0 - x 1 },
  { instr := .imul, accept := { nf := true, sat := true }, reads := readAB, holds := each fun _ x => x 0 * x 1 },
  { instr := .imulh, reads := readAB, holds := each fun w x => BitVec.ofInt w ((x 0).toInt * (x 1).toInt / (2 ^ w : Nat)) },
  { instr := .imulhu, reads := readAB, holds := each fun w x => BitVec.ofNat w ((x 0).toNat * (x 1).toNat / 2 ^ w) },
  { instr := .imad, accept := { nf := true, sat := true, c := true }, reads := fun a b c t => [(a, t), (b, t), (c, t)],
    holds := each fun _ x => x 0 * x 1 + x 2 },
  { instr := .imin, reads := readAB, holds := each fun _ x => if (x 1).slt (x 0) then x 1 else x 0 },
  { instr := .imax, reads := readAB, holds := each fun _ x => if (x 0).slt (x 1) then x 1 else x 0 },
  { instr := .iminu, reads := readAB, holds := each fun _ x => if (x 1).ult (x 0) then x 1 else x 0 },
  { instr := .imaxu, reads := readAB, holds := each fun _ x => if (x 0).ult (x 1) then x 1 else x 0 },
  { instr := fun d a _ t => .iabs d a t, accept := { nf := true, sat := true }, reads := readA,
    holds := each fun _ x => if (x 0).msb then -(x 0) else x 0 },
  { instr := .andw, reads := readAB, holds := each fun _ x => x 0 &&& x 1 },
  { instr := .orw, reads := readAB, holds := each fun _ x => x 0 ||| x 1 },
  { instr := .xorw, reads := readAB, holds := each fun _ x => x 0 ^^^ x 1 },
  { instr := .andn, reads := readAB, holds := each fun _ x => x 0 &&& ~~~(x 1) },
  { instr := .shl, reads := readAB, holds := each fun _ x => x 0 <<< (x 1).toNat },
  { instr := .shr, reads := readAB, holds := each fun _ x => x 0 >>> (x 1).toNat },
  { instr := .sar, reads := readAB, holds := each fun _ x => (x 0).sshiftRight (x 1).toNat },
  { instr := .rol, reads := readAB, holds := each fun w x => (x 0).rotateLeft ((x 1).toNat % w) },
  { instr := fun d a _ t => .popc d a t, reads := readA,
    holds := each fun w x => BitVec.ofNat w ((List.range w).countP fun i => (x 0).getLsbD i) },
  { instr := fun d a _ t => .clz d a t, reads := readA, holds := each fun _ x => (x 0).clz }]

/-- Bit-field, selection, address and move words (R251, R252, R254 to R256).  Bits 7:0, 15:8 and 16 of a field's specification
are its position, its length and whether it is sign-extended; a field that leaves the element is cut at its end. -/
def moveRows : List LaneRow := [
  { instr := .bfx, reads := fun a b _ t => [(a, t), (b, 0)], holds := fun _ t _ x r =>
      let w := viewWidth t
      let p := (el 8 (x 1) 0).toNat
      let n := min (el 8 (x 1) 1).toNat (w - p)
      ∀ j, j < viewCount t → el w r j =
        if (x 1).getLsbD 16 then ((el w (x 0) j).extractLsb' p n).signExtend w else ((el w (x 0) j).extractLsb' p n).zeroExtend w },
  { instr := .bfi, accept := { c := true }, reads := fun a b c t => [(a, t), (b, 0), (c, t)], holds := fun _ t _ x r =>
      let w := viewWidth t
      let p := (el 8 (x 1) 0).toNat
      let n := (el 8 (x 1) 1).toNat
      ∀ j, j < viewCount t → ∀ i, i < w → (el w r j).getLsbD i =
        if p ≤ i ∧ i < p + n then (el w (x 2) j).getLsbD (i - p) else (el w (x 0) j).getLsbD i },
  { instr := .sel, reads := readAB64, holds := fun s k l x r => r = if inSet (s.mask k) l then x 0 else x 1 },
  { instr := .lea, reads := readAB64, holds := fun _ k _ x r => r = (x 0 <<< k) + x 1 },
  { instr := fun d a _ _ => .mov d a, reads := fun a _ _ _ => [(a, 0)], holds := fun _ _ _ x r => r = x 0 },
  { instr := fun d a b _ => .aff d a b, reads := readAB64, holds := fun _ _ l x r => r = x 0 + BitVec.ofNat 64 l * x 1 }]

/-- An integer word under SAT: its constructor, prefix fields and operands, and the exact value of an element (R248, R249). -/
structure SatRow where
  instr : Nat → Src → Src → Nat → Instr
  accept : Accept := { nf := true, sat := true }
  reads : Src → Src → Src → Nat → List (Src × Nat) := readAB
  exact : Int → Int → Int → Int

/-- The words that accept SAT. -/
def satRows : List SatRow := [
  { instr := .iadd, exact := fun x y _ => x + y },
  { instr := .isub, exact := fun x y _ => x - y },
  { instr := .imul, exact := fun x y _ => x * y },
  { instr := .imad, accept := { nf := true, sat := true, c := true }, reads := fun a b c t => [(a, t), (b, t), (c, t)],
    exact := fun x y z => x * y + z },
  { instr := fun d a _ t => .iabs d a t, reads := readA, exact := fun x _ _ => x.natAbs }]

/-- The exact value of element `j` under a row. -/
def SatRow.value (row : SatRow) (t : Nat) (x : Nat → Word) (j : Nat) : Int :=
  row.exact (el (viewWidth t) (x 0) j).toInt (el (viewWidth t) (x 1) j).toInt (el (viewWidth t) (x 2) j).toInt

/-- R55's rows that keep U and A: the word, its operands (A, B and the prefix's C) and its result, for bases `p`, `q`, `r`,
strides `m`, `n`, a shift `r` and a number `k` below 8. -/
def affineRows (p q r m n : Word) (k : Nat) : List ((Nat → Src → Src → Instr) × List VReg × VReg) := [
  (fun d a b => .iadd d a b 0, [.u p, .u q], .u (p + q)),
  (fun d a b => .iadd d a b 0, [.a p m, .u q], .a (p + q) m),
  (fun d a b => .iadd d a b 0, [.u q, .a p m], .a (q + p) m),
  (fun d a b => .iadd d a b 0, [.a p m, .a q n], .a (p + q) (m + n)),
  (fun d a b => .isub d a b 0, [.a p m, .u q], .a (p - q) m),
  (fun d a b => .isub d a b 0, [.u q, .a p m], .a (q - p) (-m)),
  (fun d a b => .isub d a b 0, [.a p m, .a q n], .a (p - q) (m - n)),
  (fun d a b => .imul d a b 0, [.a p m, .u q], .a (q * p) (q * m)),
  (fun d a b => .imul d a b 0, [.u q, .a p m], .a (q * p) (q * m)),
  (fun d a b => .imad d a b 0, [.a p m, .u q, .u r], .a (q * p + r) (q * m)),
  (fun d a b => .imad d a b 0, [.a p m, .u q, .a r n], .a (q * p + r) (q * m + n)),
  (fun d a b => .shl d a b 0, [.a p m, .u r], .a (p <<< r.toNat) (m <<< r.toNat)),
  (fun d a b => .lea d a b (k % 8), [.a p m, .u q], .a ((p <<< (k % 8)) + q) (m <<< (k % 8))),
  (fun d a b => .lea d a b (k % 8), [.a p m, .a q n], .a ((p <<< (k % 8)) + q) ((m <<< (k % 8)) + n)),
  (fun d a b => .sel d a b k, [.a p m, .a p m], .a p m),
  (fun d a b => .sel d a b k, [.u p, .u p], .u p),
  (fun d a _ => .mov d a, [.a p m], .a p m),
  (fun d a _ => .mov d a, [.u p], .u p),
  (fun d a b => .aff d a b, [.u p, .u m], .a p m)]

/-- R55 gives P for a word of the tables above: a source is P; or one is A and no row of R55 keeps it, as under SAT, on every type but
i64, in A times A, and in a shift by an A amount; or SEL's sources differ. -/
def planeSays (i : Instr) (sat : Bool) (xs : List VReg) : Bool :=
  let keeps : Bool := match i with
    | .iadd _ _ _ t | .isub _ _ _ t => t == 0
    | .imul _ _ _ t | .imad _ _ _ t => t == 0 && !((opnd xs 0).isA && (opnd xs 1).isA)
    | .shl _ _ _ t => t == 0 && !(opnd xs 1).isA
    | .lea .. | .mov .. | .sel .. => true
    | _ => false
  let differ : Bool := match i with
    | .sel .. => opnd xs 0 != opnd xs 1
    | _ => false
  xs.any VReg.isP || (xs.any VReg.isA && (sat || !keeps)) || differ

/-- The views of the operands that a row of `affineRows` lists: all are read as plain 64-bit values. -/
def affineReads (s : State) (a b : Src) (n : Nat) : List (Src × Nat) := [(a, 0), (b, 0), (s.srcC, 0)].take n

/-! ## Cross-lane words -/

/-- What a cross-lane word reads of an operand in a lane: any lane's value, but 0 in a lane of a P bypass entry that does not
execute (R260). -/
def crossAt (e : Lanes) (a : Src) (x : VReg) (l : Nat) : Word :=
  if 104 ≤ a.code ∧ a.code ≤ 106 ∧ x.isP = true ∧ inSet e l = false then 0 else x.at l

/-- The lanes of a set from lane 0 up, as numbers. -/
def ranks (e : Lanes) : List Nat := (List.range 32).filter fun l => inSet e l

/-- A cross-lane word: its constructor, its operands with their views, and the value it gives lane `l`, from the executing
lanes, T and what it reads of A and of B in each lane. -/
structure CrossRow where
  instr : Nat → Src → Src → Nat → Instr
  reads : Src → Src → Nat → List (Src × Nat) := fun a b _ => [(a, 0), (b, 0)]
  holds : Lanes → Nat → Nat → (Nat → Word) → (Nat → Word) → Word → Prop

/-- Each element of `r` is the sum of those of the lanes listed. -/
def sums (t : Nat) (x : Nat → Word) (ls : List Nat) (r : Word) : Prop :=
  ∀ j, j < viewCount t → el (viewWidth t) r j = (ls.map fun l => el (viewWidth t) (x l) j).sum

/-- The shuffles, BCAST, VOTE, MATCH, the scans, the reductions and CMPRS (R261 to R267).  A shuffle's segments have `32 >>> t`
lanes. -/
def crossRows : List CrossRow := [
  { instr := .shfl, holds := fun _ t l x y r =>
      let w := 32 >>> t
      r = x (l - l % w + (y l).toNat % w) },
  { instr := .shflup, holds := fun _ t l x y r =>
      let w := 32 >>> t
      r = if (y l).toNat ≤ l % w then x (l - (y l).toNat) else x l },
  { instr := .shfldn, holds := fun _ t l x y r =>
      let w := 32 >>> t
      r = if l % w + (y l).toNat < w then x (l + (y l).toNat) else x l },
  { instr := .shflx, holds := fun _ t l x y r =>
      let w := 32 >>> t
      r = x (l - l % w + (l % w ^^^ (y l).toNat % w)) },
  { instr := fun d a b _ => .bcast d a b, holds := fun e _ _ x y r => r = x ((y ((ranks e).headD 0)).toNat % 32) },
  { instr := fun d a _ t => .vote d a t, reads := fun a _ _ => [(a, 0)], holds := fun e t _ x _ r =>
      let yes := (ranks e).filter fun l => x l != 0
      r = match t with
        | 0 => BitVec.ofNat 64 (yes.map fun l => 2 ^ l).sum
        | 1 => if yes = [] then 0 else 1
        | 2 => if yes = ranks e then 1 else 0
        | _ => BitVec.ofNat 64 yes.length },
  { instr := fun d a _ t => .matchLane d a t, reads := fun a _ _ => [(a, 0)], holds := fun e t _ x _ r =>
      let same := (ranks e).filter fun l => x l == x ((ranks e).headD 0)
      r = if t = 0 then BitVec.ofNat 64 (same.map fun l => 2 ^ l).sum else if same = ranks e then 1 else 0 },
  { instr := fun d a _ t => .scan d a t, reads := fun a _ t => [(a, t)], holds := fun e t l x _ r =>
      sums t x ((ranks e).filter fun k => k ≤ l) r },
  { instr := fun d a _ t => .scanx d a t, reads := fun a _ t => [(a, t)], holds := fun e t l x _ r =>
      sums t x ((ranks e).filter fun k => k < l) r },
  { instr := fun d a _ t => .rsum d a t, reads := fun a _ t => [(a, t)], holds := fun e t _ x _ r => sums t x (ranks e) r },
  { instr := fun d a _ t => .rmin d a t, reads := fun a _ t => [(a, t)], holds := fun e t _ x _ r =>
      ∀ j, j < viewCount t → (∃ l ∈ ranks e, el (viewWidth t) r j = el (viewWidth t) (x l) j) ∧
        ∀ l ∈ ranks e, (el (viewWidth t) r j).sle (el (viewWidth t) (x l) j) = true },
  { instr := fun d a _ t => .rmax d a t, reads := fun a _ t => [(a, t)], holds := fun e t _ x _ r =>
      ∀ j, j < viewCount t → (∃ l ∈ ranks e, el (viewWidth t) r j = el (viewWidth t) (x l) j) ∧
        ∀ l ∈ ranks e, (el (viewWidth t) (x l) j).sle (el (viewWidth t) r j) = true },
  { instr := fun d a b _ => .cmprs d a b, holds := fun e _ l x y r =>
      r = match ((ranks e).filter fun k => y k != 0)[((ranks e).filter fun k => k < l).length]? with
        | some k => x k
        | none => 0 }]

/-! ## Floating-point words -/

/-- The entry that the T view names is one that the word accepts (R244, R273), and `f` is it: 4 names ft0, 5 ft1, and 6 and 7
the entries that FMTSEL chose, in the gang's `ef`. -/
def State.viewIs (s : State) (t : Nat) (f : Fmt) : Prop :=
  let n := if t = 4 then 0 else if t = 5 then 1 else if t = 6 then (s.g.ef &&& 0xFF).toNat else (s.g.ef >>> 8).toNat
  ((s.ctx s.g.ctx).entry n).usable = true ∧ ((s.ctx s.g.ctx).entry n).fmt = f ∧ f.width = viewWidth t ∧ f.kind ≠ 3

/-- A word raises BYPASS for none of its operands (R68). -/
def State.entriesThere (s : State) (srcs : List (Src × Nat)) : Prop := ∀ a ∈ srcs, s.bypassMissing a.1 = false

/-- A floating-point word: its constructor, prefix fields and sources, and its value for element `j` of lane `l`, from the
entry, the rounding mode of the element, SAT, and the codes. -/
structure FloatRow where
  instr : Nat → Src → Src → Nat → Instr
  accept : Accept := { rm := true, nf := true, sat := true }
  reads : Src → Src → Src → List Src := fun a b _ => [a, b]
  value : Fmt → Mode → Bool → (Nat → Nat) → Rounded

/-- NV where an operand is signalling, or where the exact result is no number although no operand is a NaN (R276). -/
def nvOf (v : Num) (xs : List Num) : Byte :=
  if xs.any Num.isSig || (v.isNan && !xs.any Num.isNan) then 0x01 else 0

/-- An exact result rounded once into the entry (R274), with NV as R276 says. -/
def once (f : Fmt) (v : Num) (xs : List Num) (mode : Mode) (sat : Bool) : Rounded :=
  ((f.round v mode sat).1, (f.round v mode sat).2 ||| nvOf v xs)

/-- FRINT of a code (R275, R276): a value that is integral, and an infinity without SAT, keep their code with no flag; any other finite
value becomes the whole number that the mode rounds it to, with NX; a NaN becomes the canonical one, and under SAT an infinity the
largest finite value of its sign (R228). -/
def integralSays (f : Fmt) (mode : Mode) (sat : Bool) (c : Nat) : Rounded :=
  match f.value c with
  | .nan sig => once f (.nan sig) [.nan sig] mode sat
  | .inf neg => if sat then f.round (.inf neg) mode true else (c, 0)
  | .fin neg n d e =>
    let x := scaled n d e
    if x.1 % x.2 = 0 then (c, 0)
    else
      let r := f.round (.fin neg (roundMag neg x.1 x.2 mode) 1 0) mode sat
      (r.1, r.2 ||| 0x10)

/-- FADD, FSUB, FMUL, FFMA (R275, R276): the exact value, rounded once.  The sum of opposite zeros is -0 under RDN alone. -/
def arithRows : List FloatRow := [
  { instr := .fadd, value := fun f m sat x =>
      once f (Num.add (m == .rdn) (f.value (x 0)) (f.value (x 1))) [f.value (x 0), f.value (x 1)] m sat },
  { instr := .fsub, value := fun f m sat x =>
      once f (Num.add (m == .rdn) (f.value (x 0)) (f.value (x 1)).neg) [f.value (x 0), (f.value (x 1)).neg] m sat },
  { instr := .fmul, value := fun f m sat x =>
      once f (Num.mul (f.value (x 0)) (f.value (x 1))) [f.value (x 0), f.value (x 1)] m sat },
  { instr := .ffma, accept := { rm := true, nf := true, sat := true, c := true }, reads := fun a b c => [a, b, c],
    value := fun f m sat x =>
      let p := Num.mul (f.value (x 0)) (f.value (x 1))
      let r := once f (Num.add (m == .rdn) p (f.value (x 2))) [f.value (x 0), f.value (x 1), f.value (x 2)] m sat
      (r.1, r.2 ||| if p.isNan && !(f.value (x 0)).isNan && !(f.value (x 1)).isNan then 0x01 else 0) },
  { instr := fun d a _ t => .frint d a t, reads := fun a _ _ => [a], value := fun f m sat x => integralSays f m sat (x 0) }]

/-- The canonical NaN of an entry that has NaNs (R222): exponent all ones and the fraction's top bit under SPEC 0, every bit but
the sign under SPEC 1 and 3. -/
def canonicalNan (f : Fmt) : Nat :=
  if f.spec = 0 then (2 ^ f.ew - 1) * 2 ^ f.fw + 2 ^ (f.fw - 1) else 2 ^ (f.ew + f.fw) - 1

/-- FMIN and FMAX of two codes (R277): of two numbers the code of the lesser or the greater, -0 lying below +0, the first where neither
is; a number before a NaN, but FMAX under SPEC 3 the NaN; of two NaNs the canonical one.  NV alone, for a signalling operand. -/
def extremeSays (greater : Bool) (f : Fmt) (x y : Nat) : Rounded :=
  let a := f.value x
  let b := f.value y
  let second := if greater then Num.ltz a b else Num.ltz b a
  let nanWins := greater && f.spec == 3
  (if a.isNan && b.isNan then canonicalNan f
   else if a.isNan then (if nanWins then x else y)
   else if b.isNan then (if nanWins then y else x)
   else if second then y else x, if a.isSig || b.isSig then 0x01 else 0)

/-- FABS and FNEG of a code (R278): on a float entry with a sign the sign bit alone is cleared or inverted, with no flag; else the
value is rounded to nearest even under saturation. -/
def signSays (negate : Bool) (f : Fmt) (c : Nat) : Rounded :=
  let top := 2 ^ (f.ew + f.fw)
  if f.kind = 0 ∧ f.s = 1 then (if c.testBit (f.ew + f.fw) then c - top else if negate then c + top else c, 0)
  else once f (if negate then (f.value c).neg else (f.value c).abs) [f.value c] .rne true

/-- The class of a code (R280): a subnormal has exponent field 0 under SUBN 0. -/
def classSays (f : Fmt) (c : Nat) : Nat :=
  let v := f.value c
  if v.isSig then 8 else if v.isNan then 9
  else if v.isInf then (if v.sign then 0 else 7)
  else if v.isZero then (if v.sign then 3 else 4)
  else if f.kind = 0 ∧ f.subn = 0 ∧ c / 2 ^ f.fw % 2 ^ f.ew = 0 then (if v.sign then 2 else 5)
  else if v.sign then 1 else 6

/-- FMIN, FMAX, FABS, FNEG and FCLASS (R277, R278, R280). -/
def pickRows : List FloatRow := [
  { instr := .fmin, accept := { nf := true }, value := fun f _ _ x => extremeSays false f (x 0) (x 1) },
  { instr := .fmax, accept := { nf := true }, value := fun f _ _ x => extremeSays true f (x 0) (x 1) },
  { instr := fun d a _ t => .fabs d a t, accept := { nf := true }, reads := fun a _ _ => [a], value := fun f _ _ x => signSays false f (x 0) },
  { instr := fun d a _ t => .fneg d a t, accept := { nf := true }, reads := fun a _ _ => [a], value := fun f _ _ x => signSays true f (x 0) },
  { instr := fun d a _ t => .fclass d a t, accept := {}, reads := fun a _ _ => [a], value := fun f _ _ x => (classSays f (x 0), 0) }]

/-- The special-function words of one or two operands (R285, R286): the quotient and the roots rounded once, and the elementary
functions. -/
def sfuRows : List FloatRow := [
  { instr := fun d a _ t => .rcp d a t, reads := fun a _ _ => [a], value := fun f m sat x => divOp f m sat (.ofInt 1) (f.value (x 0)) },
  { instr := fun d a _ t => .rsq d a t, reads := fun a _ _ => [a], value := fun f m sat x => rsqOp f m sat (f.value (x 0)) },
  { instr := fun d a _ t => .sqrt d a t, reads := fun a _ _ => [a],
    value := fun f m sat x => once f (sqrtNum (f.value (x 0))) [f.value (x 0)] m sat },
  { instr := .fdiv, value := fun f m sat x => divOp f m sat (f.value (x 0)) (f.value (x 1)) },
  { instr := fun d a _ t => .exp2 d a t, reads := fun a _ _ => [a],
    value := fun f m sat x => roundElem f (f.value (x 0)) (exp2Num (f.value (x 0))) m sat },
  { instr := fun d a _ t => .log2 d a t, reads := fun a _ _ => [a],
    value := fun f m sat x => roundElem f (f.value (x 0)) (log2Num (f.value (x 0))) m sat },
  { instr := fun d a _ t => .sin d a t, reads := fun a _ _ => [a],
    value := fun f m sat x => roundElem f (f.value (x 0)) (sinNum (f.value (x 0))) m sat },
  { instr := fun d a _ t => .cos d a t, reads := fun a _ _ => [a],
    value := fun f m sat x => roundElem f (f.value (x 0)) (cosNum (f.value (x 0))) m sat },
  { instr := fun d a _ t => .tanh d a t, reads := fun a _ _ => [a],
    value := fun f m sat x => roundElem f (f.value (x 0)) (tanhNum (f.value (x 0))) m sat }]

/-- The code of element `j` of a value seen through T, as the entry takes it: its low `width` bits. -/
def codeOf (f : Fmt) (t : Nat) (x : Word) (j : Nat) : Nat := (el (viewWidth t) x j).toNat % 2 ^ f.width

/-- The flags of a lane: those of its elements, ORed (R235, R274). -/
def laneFlags (n : Nat) (g : Nat → Byte) : Byte := (List.range n).foldl (fun b j => b ||| g j) 0

/-- The state in which a stochastic word leaves the generator: its counter has moved on by the word's elements (R229). -/
def State.afterDraw (s : State) (t : Nat) : State :=
  if s.pfx.rm = 3 then s.setG { s.g with ctr := s.g.ctr + BitVec.ofNat 64 (viewCount t) } else s

/-! ## Uniform words -/

/-- A uniform word that computes: its constructor with three fields, the scalars it reads, and its value (R269, R270). -/
structure UniRow where
  instr : Nat → Nat → Nat → Instr
  reads : Nat → Nat → Nat → List Nat := fun _ a b => [a, b]
  value : Nat → Nat → (Nat → Word) → Word

/-- The uniform words that compute.  `x 0` and `x 1` are the scalars read, in order; the two numbers are the second and third
fields. -/
def uniRows : List UniRow := [
  { instr := .uadd, value := fun _ _ x => x 0 + x 1 },
  { instr := .usub, value := fun _ _ x => x 0 - x 1 },
  { instr := .umul, value := fun _ _ x => x 0 * x 1 },
  { instr := .umulh, value := fun _ _ x => (((x 0).signExtend 128 * (x 1).signExtend 128) >>> 64).truncate 64 },
  { instr := .uand, value := fun _ _ x => x 0 &&& x 1 },
  { instr := .uor, value := fun _ _ x => x 0 ||| x 1 },
  { instr := .uxor, value := fun _ _ x => x 0 ^^^ x 1 },
  { instr := .ushl, value := fun _ _ x => x 0 <<< (x 1).toNat },
  { instr := .ushr, value := fun _ _ x => x 0 >>> (x 1).toNat },
  { instr := .usar, value := fun _ _ x => (x 0).sshiftRight (x 1).toNat },
  { instr := .umin, value := fun _ _ x => if (x 1).slt (x 0) then x 1 else x 0 },
  { instr := .umax, value := fun _ _ x => if (x 0).slt (x 1) then x 1 else x 0 },
  { instr := .useq, value := fun _ _ x => if x 0 = x 1 then 1 else 0 },
  { instr := .uslt, value := fun _ _ x => if (x 0).slt (x 1) then 1 else 0 },
  { instr := .usltu, value := fun _ _ x => if (x 0).ult (x 1) then 1 else 0 },
  { instr := fun d i _ => .uaddi d i, reads := fun d _ _ => [d], value := fun i _ x => x 0 + (BitVec.ofNat 16 i).signExtend 64 },
  { instr := fun d i _ => .uli d i, reads := fun _ _ _ => [], value := fun i _ _ => (BitVec.ofNat 16 i).signExtend 64 },
  { instr := fun d i _ => .ulit d i, reads := fun _ _ _ => [], value := fun i _ _ => (BitVec.ofNat 32 i).signExtend 64 },
  { instr := fun d i _ => .ulit64 d i, reads := fun _ _ _ => [], value := fun i _ _ => BitVec.ofNat 64 i },
  { instr := fun d a _ => .umov d a, reads := fun _ a _ => [a], value := fun _ _ x => x 0 },
  { instr := fun d k _ => .ushli d k, reads := fun d _ _ => [d], value := fun k _ x => x 0 <<< k }]

/-! ## Compares -/

/-- The condition of ICMP on one element, by its code (R253). -/
def icmpSays {w : Nat} (cond : Nat) (x y : BitVec w) : Bool :=
  match cond with
  | 0 => x == y
  | 1 => x != y
  | 2 => x.slt y
  | 3 => x.sle y
  | 4 => y.slt x
  | 5 => y.sle x
  | 6 => x.ult y
  | 7 => x.ule y
  | 8 => y.ult x
  | _ => y.ule x

/-- What a compare leaves in mask `k`: the condition in executing lanes, 0 in zeroed ones, and the old bit elsewhere (R253);
flags as a lane word raises them; nothing is pushed, and no vector register, scalar or other mask changes. -/
structure MaskDone (s st u : State) (k : Nat) (p : Nat → Bool) (f : Nat → Byte) : Prop where
  lanes : ∀ l, l < 32 → inSet s.exec_ l = true → inSet (u.g.m.toList.getD k 0) l = p l
  zeroed : ∀ l, l < 32 → inSet s.exec_ l = false → inSet s.zeroed l = true → inSet (u.g.m.toList.getD k 0) l = false
  kept : ∀ l, l < 32 → inSet s.exec_ l = false → inSet s.zeroed l = false →
    inSet (u.g.m.toList.getD k 0) l = inSet (s.g.m.toList.getD k 0) l
  others : ∀ n, n ≠ k → u.g.m.toList.getD n 0 = s.g.m.toList.getD n 0
  sticky : ∀ l : Fin 32, u.g.xf[l] = s.g.xf[l] ||| (if s.pfx.nf ≠ 1 ∧ inSet s.exec_ l = true then f l else 0)
  frame : Ends (st.setG { st.g with m := u.g.m, xf := u.g.xf }) u

/-! ## Operations in flight -/

/-- Flag field `n` can take one more operation: it names no flag, or its flag counts fewer than 255 (R77). -/
def State.hasRoom (s : State) (n : Nat) : Prop := 12 ≤ n ∨ (s.g.flag n).count < 255

/-- `u` is `st` with operation `o` of the current gang put in flight, last in the list of operations, and counted on its flag
(R77); the group is complete.  What the gang's vector registers hold is for each statement to say. -/
structure Issued (st u : State) (o : Op) : Prop where
  last : u.ops = st.ops ++ [o]
  own : o.gang = st.cur ∧ o.team = st.g.team ∧ o.core = st.g.core ∧ o.ctx = st.g.ctx
  number : o.id = st.nextOp
  counted : ∀ n, n < 12 → (u.g.flag n).count = (st.g.flag n).count + (if n = o.flag then 1 else 0) ∧
    (u.g.flag n).reports = (st.g.flag n).reports
  frame : Ends ({ st with ops := u.ops, nextOp := st.nextOp + 1, freeCtr := u.freeCtr }.setG
    { st.g with v := u.g.v, cf := u.g.cf }) u

/-- Operation `op` of gang `k` has left: it is no longer in flight, and its flag counts one fewer (R77, R216).  Another gang is as it was,
but that a gang of the team whose later accesses an acknowledged store or atomic stands before has its completion time to wait out
(`State.noteSeen`; R152, R153). -/
structure Retired (s u : State) (o : Op) : Prop where
  gone : u.ops = s.ops.filter fun x => !(x.id == o.id)
  counted : (u.gang o.gang).flag o.flag = { (s.gang o.gang).flag o.flag with count := ((s.gang o.gang).flag o.flag).count - 1 }
  flags : ∀ n, n ≠ o.flag → (u.gang o.gang).flag n = (s.gang o.gang).flag n
  others : ∀ k, k ≠ o.gang → u.gang k = (s.noteSeen o (o.items.foldl (fun c i => max c i.comp) 0)).gang k

/-- The table of gangs lists gang `k`. -/
def State.hasGang (s : State) (k : Nat) : Prop := ∃ g, tget? s.gangs k = some g

/-- What a special-function word will leave in D, when `r l` is its result in executing lane `l` (R56, R284); a D code above 95
takes none. -/
structure Coming (s : State) (d : Nat) (fin : Option VReg) (r : Nat → Word) : Prop where
  some_ : d < 96 → ∃ x, fin = some x ∧
    (∀ l, l < 32 → inSet s.exec_ l = true → x.lane l = { val := r l }) ∧
    (∀ l, l < 32 → inSet s.g.live l = true → inSet s.exec_ l = false → inSet s.zeroed l = true → x.lane l = {}) ∧
    (∀ l, l < 32 → inSet s.g.live l = true → inSet s.exec_ l = false → inSet s.zeroed l = false → x.lane l = (s.g.vreg d).lane l)
  none_ : 96 ≤ d → fin = none

/-- A special-function word has been issued from `st`: its operation stands on SETA with no access, what it will leave is `fin`,
and no register holds another value yet (R284). -/
structure SfuIssued (st u : State) (o : Op) : Prop where
  flight : Issued st u o
  flag : o.flag = st.cl.seta ∧ o.items = []
  held : ∀ n l, l < 32 → (u.g.vreg n).lane l = (st.g.vreg n).lane l

/-- The flags that a special-function word will raise: those of its executing lanes, none under NF (R235). -/
def State.later (s : State) (f : Nat → Byte) : Vector Byte 32 :=
  Vector.ofFn fun l => if inSet s.exec_ l = true ∧ s.pfx.nf = 0 then f l else 0

/-- The binary32 sums that CATS forms over lanes in ascending order, each rounded to nearest even (R291). -/
def running (w : Nat → Nat) : List Nat → Nat → List (Nat × Nat)
  | [], _ => []
  | l :: ls, acc =>
    let x := (fmtF32.round (Num.add false (fmtF32.value acc) (fmtF32.value (w l))) .rne false).1
    (l, x) :: running w ls x

/-! ## Memory words -/

/-- What a word that fills D later leaves in the registers now: D holds 0 in the zeroed lanes, and no other value changes
(R56, R179). -/
def FilledLater (s u : State) (d : Nat) : Prop :=
  (∀ l, l < 32 → (u.g.vreg d).lane l = if d < 96 ∧ inSet s.zeroed l = true then {} else (s.g.vreg d).lane l) ∧
  (d < 96 → (u.g.vreg d).isP = true) ∧ ∀ n, n ≠ d → u.g.vreg n = s.g.vreg n

/-- Where a lane word's returned values go: the executing lanes of D, or nowhere for a D code above 95. -/
def destOf (s : State) (d : Nat) : Dst := if d < 96 then .vec d s.exec_ else .nowhere

/-- What an operation will access: for each access its lane, its effective address, its physical address and its width. -/
def Op.places (o : Op) : List (Nat × Nat × Nat × Nat) := o.items.map fun i => (i.lane, i.va, i.pa, i.w)

/-- The accesses of lanes at effective addresses through their translations. -/
def globalPlaces (w : Nat) (l : List (Nat × Nat)) (es : List TlbEntry) : List (Nat × Nat × Nat × Nat) :=
  (l.zip es).map fun p => (p.1.1, p.1.2, p.2.phys p.1.2, w)

/-- The accesses of lanes at scratchpad offsets. -/
def spadPlaces (w : Nat) (l : List (Nat × Nat)) : List (Nat × Nat × Nat × Nat) := l.map fun p => (p.1, p.2, p.2, w)

/-- The bytes that storing the low `w` bytes of each lane's value leaves, lane by lane, lowest byte at the lowest address (R8,
R147). -/
def storeBytes (w : Nat) (l : List (Nat × Nat)) (x : Nat → Word) (m : Memory) : Memory :=
  l.foldl (fun m p => (List.range w).foldl (fun m i => m.setByte (p.2 + i) (el 8 (x p.1) i)) m) m

/-- The bytes that an operation's accesses leave when they are performed in order. -/
def Op.leaves (o : Op) (m : Memory) : Memory := o.items.foldl (fun m i => m.write i.pieces) m

/-- The width in bytes of a T value (R178), and of a size code (R188, R189). -/
def bytesOfT (t : Nat) : Nat := viewWidth t / 8

/-- Of the cores, but for their issue slots, only the lines of L1 differ: a store changes those of its context in their bytes (R144). -/
def SameLines (s u : State) : Prop := ∀ k, { (u.core k).still with l1 := [] } = { (s.core k).still with l1 := [] }

/-- Of the cores, but for their issue slots, only the notes of requests and excesses differ (R408, R409, R415). -/
def SameButNotes (s u : State) : Prop := ∀ k,
  { (u.core k).still with needSince := none, excessSince := none, overSince := none } =
    { (s.core k).still with needSince := none, excessSince := none, overSince := none }

/-- One access of an operation has been performed: its operation stands as before with that access done. -/
structure Performed (s u : State) (o : Op) (k : Nat) (j : Item) : Prop where
  item : u.ops = s.ops.map fun x => if x.id = o.id then { o with items := o.items.set k j } else x
  done : j.done = true
  gangs : u.gangs = s.gangs ∧ u.cur = s.cur

/-- The memory in which a write is performed: its frame, and those of the leaves whose D bits it sets, zeroed when their owner is another
(R362, R367). -/
def State.ownedMem (s : State) (o : Op) (i : Item) : Memory :=
  ((s.own (s.ctx o.ctx).num (i.pa / 65536) i.shared).ownLeaves o.ctx i.dirt).mem

/-! ## Operands -/

/-- What a source code that is no stream stands for in lane `l`, through view `t` (R50, R54, R68, R83, R84). -/
def operandSays (g : Gang) (a : Src) (t l : Nat) (r : Word) : Prop :=
  let c := a.code
  if c < 96 then r = (g.vreg c).at l
  else if 104 ≤ c ∧ c ≤ 106 then r = (g.bp.getD (c - 104) (.u 0)).at l
  else if c = 113 then r = BitVec.ofNat 64 l
  else if c = 114 then
    if t = 0 then r = (BitVec.ofNat 32 a.lit).signExtend 64
    else if t = 4 then r = BitVec.ofNat 64 (widenF32 (a.lit % 2 ^ 32))
    else ∀ j, j < viewCount t → el (viewWidth t) r j = BitVec.ofNat _ a.lit
  else if c = 115 then r = BitVec.ofNat 64 a.lit
  else if 116 ≤ c ∧ c ≤ 119 then
    let i : Int := [1, 2, 4, -1].getD (c - 116) 0
    let f64 : Nat := [0x3FF0000000000000, 0x4000000000000000, 0x4010000000000000, 0xBFF0000000000000].getD (c - 116) 0
    let f32 : Nat := [0x3F800000, 0x40000000, 0x40800000, 0xBF800000].getD (c - 116) 0
    if t = 4 then r = BitVec.ofNat 64 f64
    else if t = 5 then ∀ j, j < 2 → el 32 r j = BitVec.ofNat 32 f32
    else ∀ j, j < viewCount t → el (viewWidth t) r j = BitVec.ofInt _ i
  else if 120 ≤ c then r = (g.sreg (c - 120)).val
  else r = 0

/-- The mark that a lane word meets in lane `l` of a source (R175). -/
def operandMark (g : Gang) (a : Src) (l : Nat) : Option Word :=
  if a.code < 96 then ((g.vreg a.code).lane l).mark
  else if 104 ≤ a.code ∧ a.code ≤ 106 then ((g.bp.getD (a.code - 104) (.u 0)).lane l).mark
  else if 120 ≤ a.code then (g.sreg (a.code - 120)).mark
  else none

/-- The source code names a stream. -/
def isStream (a : Src) : Bool := 96 ≤ a.code && a.code ≤ 103

/-! ## Traps -/

/-- A word answers with the trap `i`, taken now or as soon as earlier groups have completed (R383, R384). -/
def trapped (s : State) (i : TrapInfo) : Answer := .next (s.raiseTrap s.cur i 0).issued

/-- The gang can take a trap at once: nothing of it that trap entry waits for is in flight, it runs no handler, and its context has
one (R384, R387). -/
structure State.canTrap (s : State) : Prop where
  here : s.inClause
  drained : s.drained s.cur = true
  free : s.g.inh = false
  handler : (s.ctx s.g.ctx).tvec ≠ 0

/-! ## Control flow -/

/-- The address of the clause after the current one: past its header, its queue word, its body and the padding to 8 bytes (R74). -/
def State.nextClause (s : State) : Word :=
  let c := s.cl
  BitVec.ofNat 64 ((c.addr + (8 + (if c.pfq then 4 else 0) + 4 * (c.len + 1) + 7) / 8 * 8) % 2 ^ 56)

/-- A branch target: the clause start plus eight times the signed offset, modulo 2^56 (R97). -/
def State.targetOf (s : State) (width off : Nat) : Word :=
  BitVec.ofInt 64 (((s.cl.addr : Int) + 8 * (BitVec.ofNat width off).toInt) % (2 ^ 56 : Nat))

/-- The clause has ended with each lane of the active set going to `pc l` and every other lane's PC as it was (R30); the staged
registers are those the clause named (R70, R71). -/
structure WentTo (s u : State) (pc : Nat → Word) : Prop where
  ended : u.g.cl = none ∧ u.g.latch = none
  lanes : ∀ l : Fin 32, u.g.pcv[l] = if inSet s.act l then pc l else s.g.pcv[l]
  staged : u.g.staged = s.cl.staging

/-- The link register holds the next clause's address in the active lanes, and what it held in the other live ones (R56, R103,
R105). -/
structure Linked (s u : State) (v : Nat) : Prop where
  lanes : ∀ l, l < 32 → inSet s.act l = true → (u.g.vreg v).lane l = { val := s.nextClause }
  kept : ∀ l, l < 32 → inSet s.g.live l = true → inSet s.act l = false → (u.g.vreg v).lane l = (s.g.vreg v).lane l
  others : ∀ n, n ≠ v → u.g.vreg n = s.g.vreg n

/-- The lanes of the active set can read vector register `v`: it is available and carries no mark there. -/
def State.pointersIn (s : State) (v : Nat) : Prop :=
  v < 96 ∧ s.vBusy v = false ∧ ∀ l, l < 32 → inSet s.act l = true → ((s.g.vreg v).lane l).mark = none

/-! ## Invariants -/

/-- What every step keeps: memory lists its bytes in canonical form, operations in flight stand in the order of their numbers, which
lie below the next one, and the table of gangs in the order of its keys. -/
structure State.Sound (s : State) : Prop where
  memory : s.mem.wf = true
  order : s.ops.Pairwise fun a b => a.id < b.id
  below : ∀ o ∈ s.ops, o.id < s.nextOp
  table : s.gangs.Pairwise fun a b => a.1 < b.1

/-- The group is complete and the next one begins, or the clause ends: then the active lanes stand at the next clause, and the
staged registers are those the clause named (R30, R70, R71, R81). -/
structure Moved (s u : State) : Prop where
  latch : u.g.latch = none
  within : s.cl.next ≤ s.cl.len → s.act ≠ 0 →
    u.g.cl = some { s.cl with first := s.cl.next, words := [], prev := s.cl.words } ∧ u.g.pcv = s.g.pcv ∧ u.g.staged = s.g.staged
  past : s.cl.len < s.cl.next → u.g.cl = none ∧ u.g.staged = s.cl.staging ∧
    ∀ l : Fin 32, u.g.pcv[l] = if inSet s.act l then s.nextClause else s.g.pcv[l]

/-- The gang waits at its current group, with none of the group's effect (R96): its clause stands at the group's first position, a
word that has issued keeps its words, and a wait that slips counts; the rest of the machine is as it was, but for the slot that a
word takes as it issues (R328). -/
structure Waits (s u : State) (w : Wait) : Prop where
  cur : u.cur = s.cur
  wait : u.g.wait = w
  place : u.g.cl = s.g.cl.map (fun c => { c with next := c.first, words := if w.issued then c.words else [] }) ∧ u.g.latch = none
  slip : u.g.slip = if w.slips then s.g.slip + 1 else s.g.slip
  gang : { u.g.still with waitSince := s.g.waitSince, slip := s.g.slip } = s.g.still
  lanes : u.g.pcv = s.g.pcv ∧ u.g.staged = s.g.staged
  others : ∀ k, k ≠ s.cur → u.gang k = s.gang k
  cores : ∀ k, (u.core k).still = (s.core k).still
  rest : u.apart = s.apart ∧ u.clusters = s.clusters

/-- A word answers by waiting; the wait may show that some gang of its team waits in vain (R332). -/
def waits (s : State) (w : Wait) (a : Answer) : Prop :=
  ∃ u, Waits s u w ∧ a = .next { u.orphanCheck s.g.team with phase := .select }

/-! ## Matrix words -/

/-- The matrix operation `m` has been issued from `st`: it stands on SETB with the generator's state as it was, and the counter has
moved on by `n` (R303, R308). -/
structure MatrixIssued (st u : State) (o : Op) (m : MatOp) (n : Nat) : Prop where
  flight : Issued (st.setG { st.g with ctr := st.g.ctr + BitVec.ofNat 64 n }) u o
  flag : o.flag = st.cl.setb
  kind : o.kind = .matrix { m with seed := st.g.seed, ctr := st.g.ctr } ∧ o.items = []

/-- The core's queue of matrix operations and SETB's flag can take one more (R77, R298). -/
structure State.matrixSpace (s : State) : Prop where
  queue : (s.ops.filter fun o => o.core == s.g.core && (match o.kind with
    | .matrix _ => true
    | _ => false)).length < Config.matrixQueue
  room : s.hasRoom s.cl.setb

/-- Byte ranges of scratchpad, offset and length, that stand at multiples of an alignment and inside the team's allocation. -/
def State.rangesFit (s : State) (al : Nat) (l : List (Nat × Nat)) : Prop :=
  ∀ x ∈ l, x.1 % al = 0 ∧ x.1 + x.2 ≤ (s.team s.g.team).spadLen

/-- Every lane of an operand that executes holds the same value. -/
def votes (e : Lanes) (r : VReg) (x : Word) : Prop := ∀ l, l < 32 → inSet e l = true → r.at l = x

/-- A scale scalar can be read when its mode calls for one. -/
def State.scaleReady (s : State) (mode n : Nat) : Prop := mode = 1 ∨ mode = 2 → s.canGet n

/-- The value a scale scalar gives. -/
def State.scaleOf (s : State) (mode n : Nat) : Word := if mode = 1 ∨ mode = 2 then (s.g.sreg n).val else 0

/-- A format word's generation is none or the current one (R239). -/
def State.genOk (s : State) (w : Word) : Prop := bits w 63 57 = 0 ∨ bits w 63 57 = (s.ctx s.g.ctx).gen

/-- The cells of a shape's region hold `f`, by row and column, and the others what they held (R298). -/
def AccIs (old new : Acc) (shape : Nat) (f : Nat → Nat → Nat) : Prop :=
  ∀ i j, i < 64 → j < 64 → new.cell (i * 64 + j) =
    if i < regionSide shape ∧ j < regionSide shape then f i j % 2 ^ 32 else old.cell (i * 64 + j)

/-- Scratchpad holds the bytes `bs` from an offset up, and elsewhere what it held. -/
def SpadIs (old new : Memory) (off : Nat) (bs : List Byte) : Prop :=
  (∀ k, k < bs.length → new.byte (off + k) = bs.getD k 0) ∧ ∀ x, x < off ∨ off + bs.length ≤ x → new.byte x = old.byte x

/-! ## Control, synchronisation and system words -/

/-- A uniform word stands to be issued: its gang is in a clause, with no prefix before it and no wait behind it. -/
structure State.fresh (s : State) : Prop where
  here : s.inClause
  latch : s.g.latch = none
  wait : s.g.wait = .none

/-- The word `i` completes at `s`, leaving `t`, and the gang goes on (R81). -/
def does (s : State) (i : Instr) (t : State) : Prop := ∃ u, exec i s = .next u ∧ Ends t u ∧ Moved s u

/-- The word `i` answers at `s` with a trap of this cause and address, the active set in its mask (R383, R386). -/
def traps (s : State) (i : Instr) (cause : Nat) (addr : Word) : Prop :=
  ∃ x, exec i s = trapped s x ∧ x.cause = cause ∧ x.addr = addr ∧ x.mask = s.act

/-- The gang's earlier accesses to memory and to what its team shares are all complete (R149). -/
structure State.idle (s : State) : Prop where
  loads : s.loadsPending = false
  acks : s.acksPending = false
  team : s.teamPending = false
  reds : s.g.redReports = []

/-- The gang's pending completion time, and that of its team's stores that it has seen, have come (R141, R149, R153). -/
def State.leasePast (s : State) : Prop := ∀ p, s.g.pend = some p ∨ s.g.seenPend = some p → p ≤ s.ns

/-- The state after a .p release: P is clear, and so is what the team's earlier stores have left to wait out (R149, R153). -/
def State.released (s : State) : State := s.setG { s.g with pend := none, seenPend := none }

/-- Only barrier `k` of the team changes, and the times that the dispatcher notes (R339). -/
def OnlyBarrier (t t' : Team) (k : Nat) : Prop :=
  (∀ j, j ≠ k → t'.bar j = t.bar j) ∧
  { t' with bars := t.bars, barDone := t.barDone, barLast := t.barLast } = t

/-- The arrival count that a barrier word's count field names (R347). -/
def State.countIs (s : State) (c n : Nat) : Prop :=
  (c = 0x80 ∧ n = (s.grid s.g.grid).record.gangs) ∨
  (c ≠ 0x80 ∧ s.canGet c ∧ (s.g.sreg c).val.toNat = n ∧ 0 < n ∧ n < 65536)

/-- Words of 8 bytes at an aligned block, read by the gang: `t` is the state after, `w` the words, none of them poisoned (R138, R175). -/
def BlockRead (s t : State) (va n : Nat) (w : Nat → Word) : Prop :=
  ∃ l, s.readBlock va n = .ok (t, l) ∧ (∀ x ∈ l, x.mark = none) ∧ ∀ i, i < n → wordAt l i = w i

/-! ## Control and status registers (R358, R392) -/

/-- A register: its number, how many it is, the level that may read it, and its value. -/
structure CsrRow where
  num : Nat
  count : Nat := 1
  level : Nat
  value : State → Nat → Word

/-- The registers with their values for the current gang. -/
def csrRows : List CsrRow := [
  { num := 0x00, level := 0, value := fun s _ =>
      BitVec.ofNat 64 (0x011A000000000000 + s.dev.stepping * 2 ^ 44 + (0x3FFF &&& (s.ctx s.g.ctx).featmask.toNat)) },
  { num := 0x01, level := 0, value := fun s _ => BitVec.ofNat 64 s.ptp },
  { num := 0x02, level := 0, value := fun s _ => BitVec.ofNat 64 s.g.level },
  { num := 0x03, level := 0, value := fun s _ => BitVec.ofNat 64 ((s.ctx s.g.ctx).num + 256 * s.g.part) },
  { num := 0x04, level := 0, value := fun s _ => s.g.slip },
  { num := 0x05, level := 0, value := fun s _ => BitVec.ofNat 64 s.g.fround },
  { num := 0x06, level := 0, value := fun s _ => (s.ctx s.g.ctx).xftrap.zeroExtend 64 },
  { num := 0x07, level := 0, value := fun s _ => BitVec.ofNat 64 (s.ctx s.g.ctx).leaselen },
  { num := 0x08, level := 0, value := fun s _ => BitVec.ofNat 64 s.g.va },
  { num := 0x09, level := 0, value := fun s _ => BitVec.ofNat 64 (s.part s.g.part).ageCap },
  { num := 0x0A, level := 0, value := fun s _ => BitVec.ofNat 64 (s.ctx s.g.ctx).swapthr },
  { num := 0x0B, level := 0, value := fun s _ => s.g.seed },
  { num := 0x0C, level := 0, value := fun s _ => s.g.ctr },
  { num := 0x10, level := 1, value := fun s _ => (s.ctx s.g.ctx).ptbase },
  { num := 0x11, level := 2, value := fun s _ => (s.ctx s.g.ctx).s2base },
  { num := 0x12, level := 1, value := fun s _ => BitVec.ofNat 64 (s.ctx s.g.ctx).tslice },
  { num := 0x13, level := 0, value := fun s _ => (s.ctx s.g.ctx).featmask.zeroExtend 64 },
  { num := 0x14, level := 2, value := fun s _ => (s.ctx s.g.ctx).savebase },
  { num := 0x15, level := 2, value := fun s _ => (s.ctx s.g.ctx).savelen },
  { num := 0x16, level := 1, value := fun s _ => (s.ctx s.g.ctx).energy },
  { num := 0x17, level := 2, value := fun s _ => (s.ctx s.g.ctx).dlog },
  { num := 0x20, level := 1, value := fun s _ => (s.ctx s.g.ctx).tvec },
  { num := 0x21, level := 1, value := fun s _ => BitVec.ofNat 64 s.g.frame.cause },
  { num := 0x22, level := 1, value := fun s _ => s.g.frame.pos },
  { num := 0x23, level := 1, value := fun s _ => s.g.frame.mask.zeroExtend 64 },
  { num := 0x24, level := 1, value := fun s _ => s.g.frame.addr },
  { num := 0x25, level := 1, value := fun s _ => s.g.frame.info.zeroExtend 64 },
  { num := 0x26, level := 1, value := fun s _ => s.g.frame.act.zeroExtend 64 },
  { num := 0x27, count := 32, level := 1, value := fun s i => s.g.frame.pcv.toList.getD i 0 },
  { num := 0x28, count := 4, level := 1, value := fun s i => s.g.frame.scr.toList.getD i 0 },
  { num := 0x29, count := 4, level := 1, value := fun s i => (s.part s.g.part).serr.toList.getD i 0 }]

/-- A register that can be written: its number, the level that may, whether only while INH is 1, the values it takes, and the state
in which it holds one. -/
structure CsrWriteRow where
  num : Nat
  count : Nat := 1
  level : Nat
  framed : Bool := false
  legal : Nat → Prop := fun _ => True
  put : State → Nat → Word → State

/-- The current gang's context replaced. -/
def State.withCtx (s : State) (f : Ctx → Ctx) : State := s.setCtx s.g.ctx (f (s.ctx s.g.ctx))
/-- The current gang's trap frame replaced. -/
def State.withFrame (s : State) (f : TrapFrame → TrapFrame) : State := s.setG { s.g with frame := f s.g.frame }
/-- Bits outside `hi:lo` are zero. -/
def fits (hi lo x : Nat) : Prop := x % 2 ^ lo = 0 ∧ x < 2 ^ (hi + 1)

/-- The registers that can be written. -/
def csrWriteRows : List CsrWriteRow := [
  { num := 0x05, level := 0, legal := fits 1 0, put := fun s _ x => s.setG { s.g with fround := x.toNat } },
  { num := 0x06, level := 0, legal := fits 7 0, put := fun s _ x => s.withCtx fun c => { c with xftrap := x.truncate 8 } },
  { num := 0x07, level := 1, legal := fun x => x % 256 = 0 ∧ 256 ≤ x ∧ x ≤ 65536,
    put := fun s _ x => s.withCtx fun c => { c with leaselen := x.toNat } },
  { num := 0x0A, level := 1, legal := fits 15 0, put := fun s _ x => s.withCtx fun c => { c with swapthr := x.toNat } },
  { num := 0x10, level := 1, legal := fits 51 11, put := fun s _ x => s.withCtx fun c => { c with ptbase := x } },
  { num := 0x11, level := 2, legal := fits 51 11, put := fun s _ x => s.withCtx fun c => { c with s2base := x } },
  { num := 0x12, level := 2, legal := fits 15 0, put := fun s _ x =>
      (s.withCtx fun c => { c with tslice := x.toNat }).sliceClocks s.g.ctx },
  { num := 0x13, level := 2, legal := fits 31 0, put := fun s _ x => s.withCtx fun c => { c with featmask := x.truncate 32 } },
  { num := 0x14, level := 2, legal := fits 55 12, put := fun s _ x => s.withCtx fun c => { c with savebase := x } },
  { num := 0x15, level := 2, legal := fits 47 12, put := fun s _ x => s.withCtx fun c => { c with savelen := x } },
  { num := 0x17, level := 2, legal := fits 51 6, put := fun s _ x => s.withCtx fun c => { c with dlog := x } },
  { num := 0x20, level := 1, legal := fits 55 3, put := fun s _ x => s.withCtx fun c => { c with tvec := x } },
  { num := 0x22, level := 1, framed := true, legal := fits 60 3, put := fun s _ x => s.withFrame fun f => { f with pos := x } },
  { num := 0x26, level := 1, framed := true, legal := fits 31 0, put := fun s _ x => s.withFrame fun f => { f with act := x.truncate 32 } },
  { num := 0x27, count := 32, level := 1, framed := true, legal := fits 55 0, put := fun s i x =>
      if s.g.frame.pcv.toList.getD i 0 = 0xFFFFFFFFFFFFFFFF then s else s.withFrame fun f => { f with pcv := f.pcv.setIfInBounds i x } },
  { num := 0x28, count := 4, level := 1, put := fun s i x => s.withFrame fun f => { f with scr := f.scr.setIfInBounds i x } }]

/-! ## Teams that leave -/

/-- A team that stands on its core in `s` has been told in `u` to leave it: it is being stopped for this reason, or has left it so (R340,
R341, R371). -/
def State.toldToLeave (u : State) (tk : Nat) (why : Stop) : Prop :=
  (u.team tk).stopping = some why ∨ ((u.team tk).stopping = none ∧ match why with
    | .save w => (u.team tk).life = .saved ∧ (u.team tk).wake = w
    | .flush => (u.team tk).life = .queued ∧ (u.team tk).gangs = []
    | .discard => tget? u.teams tk = none)

/-! ## Commands -/

/-- A command reaches its effect or its refusal: its port answers, its session is open, its version is 1, its role and the stage admit it, and
its header and body have the form of R432. -/
structure State.hears (s : State) (m : Msg) (x : Session) (op : Nat) (roles : List Nat) (stage : Nat) : Prop where
  port : s.portAnswers m.port = true
  session : tget? s.sessions m.sess = some x ∧ x.isOpen = true
  version : m.ver = 1
  role : x.role ∈ roles
  stage : stage ≤ s.dev.stage
  form : m.status = 0 ∧ m.reserved = 0 ∧ m.len = m.body.length ∧ m.len ≤ 65600 ∧ m.op = op

/-- A command: its constructor, its OP, the roles that may send it, and the stage it needs (R433, R434). -/
structure CommandRow where
  instr : Msg → Instr
  op : Nat
  roles : List Nat
  stage : Nat

/-- The commands on an open session. -/
def commandRows : List CommandRow := [
  { instr := .health, op := 0x0002, roles := [0, 1, 2], stage := 0 },
  { instr := .reset, op := 0x0003, roles := [0], stage := 0 },
  { instr := .image, op := 0x0004, roles := [0], stage := 4 },
  { instr := .reforge, op := 0x0010, roles := [1], stage := 4 },
  { instr := .fenceCmd, op := 0x0011, roles := [1], stage := 4 },
  { instr := .ctxnew, op := 0x0012, roles := [1], stage := 4 },
  { instr := .ctxdel, op := 0x0012, roles := [1], stage := 4 },
  { instr := .bind, op := 0x0013, roles := [1], stage := 4 },
  { instr := .release, op := 0x0014, roles := [1], stage := 4 },
  { instr := .write, op := 0x0020, roles := [1, 2], stage := 4 },
  { instr := .read, op := 0x0021, roles := [1, 2], stage := 4 },
  { instr := .launchCmd, op := 0x0022, roles := [1, 2], stage := 4 }]

/-- A reply with a status, a code and a body is sent, after `t` (R432). -/
def replied (t : State) (m : Msg) (status code : Nat) (body : List Byte) : State :=
  { t with out := t.out ++ [.reply m.sess 1 m.op m.seq (status + 256 * code) body] }

end Sys2Proof.Machine
end

