-- ==== Sys2Proof/Certificates/Slice0/Obligations.lean ====
section
/-! DEFINITION. The statements about the machine that are to be proved.  Each docstring says which rule of the manual it
formalises, or which choice of the model it describes. -/

section Statements

open Sys2Proof Sys2Proof.Machine

/-! ## Encodings -/

/-- R74 to R93: every well-formed instruction word decodes from its encoding as itself, whatever follows it. -/
def Obligations.DecodeOfEncode : Prop :=
  ∀ (i : Instr) (rest : List Nat), i.wf = true → i.isWord = true →
    decode (encode i ++ rest) = .ok (i, (encode i).length)

/-- R91: whatever words decode are the encoding of the instruction they decode to, which is well formed: no word has two readings,
and no bit of one is dropped. -/
def Obligations.EncodeOfDecode : Prop :=
  ∀ (ws : List Nat) (i : Instr) (n : Nat), (∀ w ∈ ws, w < 2 ^ 32) → decode ws = .ok (i, n) →
    i.wf = true ∧ i.isWord = true ∧ encode i = ws.take n ∧ n ≤ ws.length ∧ 0 < n

/-- R82 to R87: words written out from the encoding rules decode to the instructions they stand for, literals with them; an
unassigned opcode, a type that its word reserves and a reserved operand code do not decode. -/
def Obligations.SpecWordsDecode : Prop :=
  decode [0x00020011] = .ok (.iadd 1 ⟨0, 0⟩ ⟨2, 0⟩ 1, 1) ∧
  decode [0x0007C828, 0xFFFFFFFE] = .ok (.iadd 3 ⟨114, 0xFFFFFFFE⟩ ⟨5, 0⟩ 0, 2) ∧
  decode [0x18261C4A] = .ok (.icmp 2 3 ⟨7, 0⟩ ⟨9, 0⟩ 2, 1) ∧
  decode [0x40142F84] = .ok (.rcp 10 ⟨11, 0⟩ 4, 1) ∧
  decode [0x5029EC21] = .ok (.ldg 20 ⟨123, 0⟩ ⟨4, 0⟩ 1, 1) ∧
  decode [0x602A0411] = .ok (.mma 2 5 ⟨1, 0⟩ ⟨2, 0⟩ 1, 1) ∧
  decode [0x7F5D1200] = .ok (.pfx 2 1 3 0 1 9, 1) ∧
  decode [0x81030102] = .ok (.uadd 3 1 2, 1) ∧
  decode [0x9007FFFF] = .ok (.uaddi 7 0xFFFF, 1) ∧
  decode [0x93090000, 0x11, 0x80000000] = .ok (.ulit64 9 0x8000000000000011, 3) ∧
  decode [0xA0FFFFFE] = .ok (.bra 0xFFFFFE, 1) ∧
  decode [0xF0001234] = .ok (.trap 0x1234, 1) ∧
  (decode [0x2E000000]).toOption = none ∧ (decode [0x00020017]).toOption = none ∧ (decode [0x50C80000]).toOption = none

/-! ## The step -/

/-- With no device step to take, and no boundary of a rail due, a gang that may issue and stands in a clause runs the instruction that its
next words decode to, and the lease clock moves on by the pace; a boundary that is due is taken first and takes no time (log entries 1, 5
and 48). -/
def Obligations.StepRunsDecoded : Prop :=
  (∀ (s t : State) (c : Clause) (i : Instr), s.railDue = none → s.agenda = [] → s.phase = .issue → s.mayGo s.g = true →
    s.g.cl = some c → c.refetch = false → s.decodeNext = .ok (t, i) →
    step s = match exec i t with
      | .next u => .next { u with ns := u.ns + u.pace, ptp := u.ptp + u.pace }
      | x => x) ∧
  (∀ (s : State) (b : Instr), s.railDue = some b → step s = exec b s) ∧
  (∀ s : State, (s.railDue = none ↔ ∀ i, i < 12 → s.railLive i = true →
    s.stepNow ≤ (s.rail i).step ∧ s.ns / 10000 ≤ (s.rail i).coalAt) ∧
    ∀ p ∈ s.parts, ∀ i ∈ p.2.slices, s.railLive i = true)

/-- What `decodeNext` answers: the group's words, those that stand fetched and the others as L0 holds them at the clause's position,
decoded, the clause's position after them (R74, R81, R401). -/
def Obligations.FetchesTheWords : Prop :=
  ∀ (s : State) (c : Clause) (ws : List Nat) (i : Instr) (n : Nat), s.g.cl = some c → s.g.latch = none → c.pend = 0 →
    c.check = false → c.first ≤ c.len →
    (∀ k, k < ws.length → c.words[k]? = some (ws.getD k 0) ∨ (c.words[k]? = none ∧
      s.findWord ((c.addr + 8 + (if c.pfq then 4 else 0) + 4 * (c.first + k)) % 2 ^ 56) = .word (ws.getD k 0))) →
    decode ws = .ok (i, n) → n = ws.length → c.first + n ≤ c.len + 1 → (isPrefix (ws.headD 0) = false) →
    (∀ k, 0 < k → k < n → c.stallAt (c.first + k) = 0) → (endsClause i = true → c.first = c.len) →
    ∃ t, s.decodeNext = .ok (t, i) ∧ t.g.cl = some { c with next := c.first + n, words := ws } ∧ t.g.still = s.g.still ∧
      t.apart = s.apart ∧ ∀ k, k ≠ s.cur → t.gang k = s.gang k

/-- Every step that answers a next state keeps memory canonical, operations numbered in order and the table of gangs in order, and moves
the lease clock on by the pace, which no step changes; a boundary of a rail takes no time (R139; log entry 5, DESIGN CHOICE). -/
def Obligations.StepKeepsInvariant : Prop :=
  ∀ s t : State, s.Sound → step s = .next t → t.Sound ∧ t.pace = s.pace ∧
    t.ns = (if s.railDue.isSome then s.ns else s.ns + s.pace)

/-- The state after reset meets the invariant that every step keeps. -/
def Obligations.ResetMeetsInvariant : Prop :=
State.reset.Sound

/-- R400, R407, R431, R441: after reset the device is in stage 0 with the stage-0 ramp, no fence and no device number, the time base at 0
and unlocked; no partition, context, session, grid, team or gang stands. -/
def Obligations.ResetValues : Prop :=
  let s := State.reset
  s.dev.stage = 0 ∧ s.dev.rise = 2 ∧ s.dev.fall = 2 ∧ s.dev.railCap = 128 ∧ s.dev.slew = 50 ∧ s.dev.fenced = [] ∧ s.dev.site.device = 0xFFFFF ∧
  s.ptp = 0 ∧ s.dev.locked = false ∧ s.parts = [] ∧ s.ctxs = [] ∧ s.sessions = [] ∧ s.grids = [] ∧ s.teams = [] ∧ s.gangs = [] ∧
  s.ops = [] ∧ s.jobs = [] ∧ s.inbound = [] ∧ ∀ n, (s.rail n).step = 0 ∧ (s.core n).level = 0

/-! ## Operands and traps -/

/-- R50, R54, R68, R76, R83, R84, R92, R175: reading a lane word's operands, none of them a stream.  A bypass entry not yet pushed is
BYPASS with its number; else a register an operation has yet to write holds the group; else a poison mark in the lanes read is
POISON with the mark of the lowest such lane (log entry 14, DEDUCED); else each operand stands for its value.  That a register in flight
holds the group after BYPASS and before POISON is log entry 17 (DEDUCED).

R66: reading a stream moves it on by one position for each executing lane, and lanes past its end receive 0; FIN is set when a
lane is past the end.  With no access in flight, and each element aligned, translated and allowed, a lane receives the element at the
base plus each index times its stride, zero-extended; the lowest lane whose element is poisoned raises POISON with its address. -/
def Obligations.OperandForms : Prop :=
  (∀ (s : State) (look : Lanes) (srcs : List (Src × Nat)), (∀ a ∈ srcs, isStream a.1 = false) →
      (∀ a, (srcs.find? fun a => s.bypassMissing a.1) = some a →
        ∃ i, s.sources look srcs = .error (.trap i 0) ∧ i.cause = 0x07 ∧ i.addr = BitVec.ofNat 64 (a.1.code - 104) ∧ i.mask = s.act) ∧
      ((∀ a ∈ srcs, s.bypassMissing a.1 = false) → (∃ a ∈ srcs, s.srcBusy a.1 = true) →
        s.sources look srcs = .error (.hold s .operand)) ∧
      ((∀ a ∈ srcs, s.bypassMissing a.1 = false ∧ s.srcBusy a.1 = false) →
        (∀ l, l < 32 → inSet look l = true → (∀ k, k < l → inSet look k = true → ∀ a ∈ srcs, operandMark s.g a.1 k = none) →
          ∀ m, (srcs.findSome? fun a => operandMark s.g a.1 l) = some m →
          ∃ i, s.sources look srcs = .error (.trap i 0) ∧ i.cause = 0x0E ∧ i.addr = m) ∧
        ((∀ a ∈ srcs, ∀ l, l < 32 → inSet look l = true → operandMark s.g a.1 l = none) →
          ∃ xs, s.sources look srcs = .ok (s, xs) ∧ xs.length = srcs.length ∧ ∀ n a, srcs[n]? = some a →
            (∀ l, l < 32 → operandSays s.g a.1 a.2 l ((opnd xs n).at l)) ∧
            (a.1.code < 96 → opnd xs n = s.g.vreg a.1.code) ∧ (a.1.code = 113 → opnd xs n = .a 0 1) ∧
            (114 ≤ a.1.code → (opnd xs n).isU = true)))) ∧
  (∀ (s : State) (n t : Nat), n < 8 →
      let x := s.g.stream n
      let es := x.extents.toList.map BitVec.toNat
      let total := es.foldl (fun p e => p * e) 1
      let lanes := ranks s.exec_
      let k := lanes.length
      let read := s.sources s.exec_ [(⟨96 + n, 0⟩, t)]
      (∀ st xs, read = .ok (st, xs) →
        (st.g.stream n).pos = x.pos + BitVec.ofNat 64 k ∧ (st.g.stream n).fin = (x.fin || decide (total < x.pos.toNat + k)) ∧
        { st.g.stream n with pos := x.pos, fin := x.fin } = x ∧ (∀ m, m ≠ n → st.g.stream m = s.g.stream m) ∧
        (opnd xs 0).isP = true ∧
        (∀ l, l < 32 → inSet s.exec_ l = false → (opnd xs 0).at l = 0) ∧
        (∀ i l, lanes[i]? = some l → total ≤ x.pos.toNat + i → (opnd xs 0).at l = 0)) ∧
      (∀ (ea : Nat → Nat) (tr : Nat → TlbEntry),
        let index (q j : Nat) : Nat := q / (es.take j).foldl (fun p e => p * e) 1 % es.getD j 1
        let stride (j : Nat) : Int := (x.strides.toList.map BitVec.toInt).getD j 0
        let within (i l : Nat) : Prop := lanes[i]? = some l ∧ x.pos.toNat + i < total
        let pa (l : Nat) : Nat := (tr l).phys (ea l)
        let size := 2 ^ x.zc
        s.ops = [] → (s.core s.g.core).l1 = [] → s.mem.wf = true → x.zc ≤ 3 →
        (∀ i l, within i l →
          ((ea l : Nat) : Int) = ((x.base.toNat : Int) + ((List.range 5).map fun j =>
            ((index (x.pos.toNat + i) j : Nat) : Int) * stride j).sum) % (2 ^ 56 : Nat) ∧
          ea l % size = 0 ∧ pa l % size = 0 ∧ s.xlate s.g.core s.g.ctx (ea l) = .ok (tr l) ∧ (tr l).permit .read s.g.level (ea l) = none ∧
          s.newOwner (s.ctx s.g.ctx).num (pa l / 65536) (tr l).shared = none) →
        ((∀ i l, within i l → s.mem.poisoned (pa l) size = false) →
          ∃ st xs, read = .ok (st, xs) ∧
            ∀ i l, within i l → (opnd xs 0).lane l = { val := BitVec.ofNat 64 (s.mem.value (pa l) size) }) ∧
        (∀ i l, within i l → s.mem.poisoned (pa l) size = true →
          (∀ h m, within h m → m < l → s.mem.poisoned (pa m) size = false) →
          ∃ c, read = .error (.trap c 0) ∧ c.cause = 0x0E ∧ c.addr = BitVec.ofNat 64 (ea l))))

/-- R36, R62, R67, R94, R96, R383: a lane word that executes in no lane reads nothing, pushes U 0 and completes; one whose operands or
destination are not available, or that needs a slab when none is free for it, waits with none of its effect, also when its operands
would trap; one whose operands trap while its destination can be written answers with that trap, with none of its effect (log entry 68, DEDUCED).

R96, R235, R236: a floating-point word that raises an enabled flag in an executing lane, its NF 0, and whose
destination can be written, traps with ARITH instead of its effect: the address holds the flags of all its lanes, the mask the lanes that raised an enabled one. -/
def Obligations.LaneWordEnds : Prop :=
  (∀ row ∈ intRows, ∀ (s : State) (d : Nat) (a b : Src) (t : Nat), s.inClause → s.accept row.accept = .ok () →
      (s.exec_ = 0 → ∃ u, exec (row.instr d a b t) s = .next u ∧
        Ends (s.setG { s.g with bp := (VReg.u 0 :: s.g.bp).take 3, pushes := s.g.pushes + 1 }) u) ∧
      (s.exec_ ≠ 0 → ∀ i ia, s.sources s.exec_ (row.reads a b s.srcC t) = .error (.trap i ia) → s.canPut d →
        exec (row.instr d a b t) s = .next (s.raiseTrap s.cur i ia).issued) ∧
      (s.exec_ ≠ 0 → ∀ st w, s.sources s.exec_ (row.reads a b s.srcC t) = .error (.hold st w) →
        waits s w (exec (row.instr d a b t) s)) ∧
      (s.exec_ ≠ 0 → (∀ st w, s.sources s.exec_ (row.reads a b s.srcC t) ≠ .error (.hold st w)) → d < 96 → s.vBusy d = true →
        waits s .operand (exec (row.instr d a b t) s)) ∧
      (s.exec_ ≠ 0 → ∀ st xs, s.sources s.exec_ (row.reads a b s.srcC t) = .ok (st, xs) →
        planeSays (row.instr d a b t) (s.pfx.sat == 1) xs = true → d < 96 → s.vBusy d = false → st.vBusy d = false →
        (s.g.vreg d).isP = false → s.slabFree s.cur = false → st.slabFree st.cur = false →
        waits s .slab (exec (row.instr d a b t) s))) ∧
  (∀ row ∈ arithRows ++ pickRows, ∀ (s st : State) (xs : List VReg) (d : Nat) (a b : Src) (t : Nat) (f : Fmt),
      let v (l j : Nat) : Rounded := row.value f (s.modeAt j l) (s.pfx.sat == 1) fun i => codeOf f t ((opnd xs i).at l) j
      let fl (l : Nat) : Byte := laneFlags (viewCount t) fun j => (v l j).2
      LaneRun s row.accept s.exec_ ((row.reads a b s.srcC).map fun x => (x, t)) st xs d → s.viewIs t f → s.pfx.nf = 0 →
      (∃ l, l < 32 ∧ inSet s.exec_ l = true ∧ fl l &&& (s.ctx s.g.ctx).xftrap ≠ 0) →
      ∃ i, exec (row.instr d a b t) s = trapped s i ∧ i.cause = 0x12 ∧
        i.addr = ((ranks s.exec_).foldl (fun e l => e ||| fl l) (0 : Byte)).zeroExtend 64 ∧
        ∀ l, l < 32 → inSet i.mask l = (inSet s.exec_ l && (fl l &&& (s.ctx s.g.ctx).xftrap != 0)))

/-- R81, R93, R110: UNOP and the hints change nothing, and the gang goes on to its next group, or past the clause's end.

R85, R86: the prefix word waits for the lane word at the next position, with its fields; before a hint they have no effect; before
anything else, or at the clause's end, it is UNDEF. -/
def Obligations.PrefixAndEmptyWords : Prop :=
  (∀ (s : State) (i : Instr), (i = .unop ∨ (∃ k x, i = .hint k x) ∨ ∃ k x, i = .uhint k x) → s.inClause →
      ∃ u, exec i s = .next u ∧ Ends s u ∧ Moved s u) ∧
  (∀ (s : State) (c : Clause) (m z rm nf sat k w : Nat), s.g.cl = some c →
      let fields : Latch := { m := m, z := z, rm := rm, nf := nf, sat := sat, c := k }
      let i := Instr.pfx m z rm nf sat k
      (c.first < c.len → (c.words[1]? = some w ∨ (c.words[1]? = none ∧
          s.findWord ((c.addr + 8 + (if c.pfq then 4 else 0) + 4 * (c.first + 1)) % 2 ^ 56) = .word w)) → w < 2 ^ 32 →
        (w / 2 ^ 31 = 0 → w / 2 ^ 24 ≠ 0x7F →
          exec i s = .next (s.setG { s.g with latch := some (if 0x70 ≤ w / 2 ^ 24 ∧ w / 2 ^ 24 ≤ 0x77 then {} else fields) })) ∧
        (w / 2 ^ 31 = 1 ∨ w / 2 ^ 24 = 0x7F → ∃ x, exec i s = trapped s x ∧ x.cause = 0x01)) ∧
      (c.len ≤ c.first → ∃ x, exec i s = trapped s x ∧ x.cause = 0x01))

/-! ## Uniform and lane words -/

/-- R31, R269, R270: a uniform word that computes completes, s[D] its value; it is executed once for the gang, whatever its masks, and
changes nothing else.

R175, R271: a uniform word that reads a marked scalar traps with POISON and the mark's address, with none of its effect. -/
def Obligations.UniformWords : Prop :=
  (∀ row ∈ uniRows, ∀ (s : State) (d a b : Nat), s.inClause → s.g.latch = none → (∀ n ∈ row.reads d a b, s.canGet n) → s.canPutS d →
      ∃ u, exec (row.instr d a b) s = .next u ∧
        Ends (s.setG (s.g.setS d { val := row.value a b fun i => (s.g.sreg ((row.reads d a b).getD i 0)).val })) u) ∧
  (∀ row ∈ uniRows, ∀ (s : State) (d a b n : Nat) (m : Word), s.inClause → s.g.latch = none → n ∈ row.reads d a b →
      (∀ k ∈ row.reads d a b, s.sBusy k = false) → (s.g.sreg n).mark = some m →
      ((row.reads d a b).find? fun k => (s.g.sreg k).mark.isSome) = some n →
      ∃ i, exec (row.instr d a b) s = trapped s i ∧ i.cause = 0x0E ∧ i.addr = m ∧ i.mask = s.act)

/-- R247, R249, R250: the integer, logic, shift and count words without SAT complete, each element of the result the given
function of the operands' elements, and leave all else but D, the bypass and the gang's place in the code.

R248: under SAT an integer word clamps each element to the signed range of the width, and a lane in which one is out of range
raises FS and NX. -/
def Obligations.IntegerLaneWords : Prop :=
  (∀ row ∈ intRows, ∀ (s st : State) (xs : List VReg) (d : Nat) (a b : Src) (t : Nat),
      LaneRun s row.accept s.exec_ (row.reads a b s.srcC t) st xs d → s.pfx.sat = 0 →
      ∃ (r : Nat → Word) (u : State), exec (row.instr d a b t) s = .next u ∧
        (∀ l, l < 32 → inSet s.exec_ l = true → row.holds s t l (fun i => (opnd xs i).at l) (r l)) ∧
        LaneDone s st u d r fun _ => 0) ∧
  (∀ row ∈ satRows, ∀ (s st : State) (xs : List VReg) (d : Nat) (a b : Src) (t : Nat),
      let w := viewWidth t
      let x (l : Nat) (i : Nat) : Word := (opnd xs i).at l
      let top : Int := ((2 ^ (w - 1) : Nat) : Int) - 1
      let low : Int := -((2 ^ (w - 1) : Nat) : Int)
      let out (l : Nat) : Bool := (List.range (viewCount t)).any fun j => top < row.value t (x l) j || row.value t (x l) j < low
      let fl (l : Nat) : Byte := if out l then 0x30 else 0
      LaneRun s row.accept s.exec_ (row.reads a b s.srcC t) st xs d → s.pfx.sat = 1 → st.quietFlags fl →
      ∃ (r : Nat → Word) (u : State), exec (row.instr d a b t) s = .next u ∧
        (∀ l, l < 32 → inSet s.exec_ l = true → ∀ j, j < viewCount t →
          (el w (r l) j).toInt = max low (min top (row.value t (x l) j))) ∧
        LaneDone s st u d r fl)

/-- R251, R252, R254 to R256: the bit-field, selection, address and move words complete with these values.

R55, R56: words of R55's U and A rows that execute in every live lane leave D in that shape, with that base and stride, and
need no slab.

R55: a word of the tables above whose row of R55 says P completes, and leaves D in that shape: one with a P operand, one with an A
operand that no row keeps, and SEL of operands that differ. -/
def Obligations.MoveWordsAndShapes : Prop :=
  (∀ row ∈ moveRows, ∀ (s st : State) (xs : List VReg) (d : Nat) (a b : Src) (t : Nat),
      LaneRun s row.accept s.exec_ (row.reads a b s.srcC t) st xs d →
      ∃ (r : Nat → Word) (u : State), exec (row.instr d a b t) s = .next u ∧
        (∀ l, l < 32 → inSet s.exec_ l = true → row.holds s t l (fun i => (opnd xs i).at l) (r l)) ∧
        LaneDone s st u d r fun _ => 0) ∧
  (∀ (p q r m n : Word) (k : Nat), k < 8 → ∀ row ∈ affineRows p q r m n k,
      ∀ (s st : State) (d : Nat) (a b : Src), s.inClause → s.g.latch.all (fun p => p.m = 0 ∧ p.z = 0 ∧ p.rm = 0 ∧ p.nf = 0 ∧ p.sat = 0) →
      s.accept { c := row.2.1.length == 3 } = .ok () → s.exec_ ≠ 0 → s.g.live &&& ~~~s.exec_ = 0 →
      s.sources s.exec_ (affineReads s a b row.2.1.length) = .ok (st, row.2.1) → d < 96 → st.vBusy d = false →
      ∃ u, exec (row.1 d a b) s = .next u ∧ u.g.vreg d = row.2.2 ∧ (∀ i, i ≠ d → u.g.vreg i = s.g.vreg i) ∧
        u.g.bp = (row.2.2 :: s.g.bp).take 3) ∧
  (∀ row ∈ intRows ++ moveRows, ∀ (s st : State) (xs : List VReg) (d : Nat) (a b : Src) (t : Nat),
      LaneRun s row.accept s.exec_ (row.reads a b s.srcC t) st xs d → s.pfx.sat = 0 ∨ st.quietFlags (fun _ => 0x30) →
      ∃ u, exec (row.instr d a b t) s = .next u ∧
        (d < 96 → planeSays (row.instr d a b t) (s.pfx.sat == 1) xs = true → (u.g.vreg d).isP = true))

/-- R253, R279: ICMP and FCMP set a mask bit where the condition holds for every element of the lane. -/
def Obligations.CompareWords : Prop :=
  ∀ (cond k : Nat) (a b : Src) (t : Nat) (s st : State) (xs : List VReg), 0 < k → k < 8 → s.inClause → s.exec_ ≠ 0 →
    s.sources s.exec_ [(a, t), (b, t)] = .ok (st, xs) →
    (s.accept {} = .ok () →
      ∃ u, exec (.icmp cond k a b t) s = .next u ∧
        MaskDone s st u k (fun l => (List.range (viewCount t)).all fun j =>
          icmpSays cond (el (viewWidth t) ((opnd xs 0).at l) j) (el (viewWidth t) ((opnd xs 1).at l) j)) fun _ => 0) ∧
    (∀ f, s.viewIs t f → s.accept { nf := true } = .ok () →
      let x (l j : Nat) : Machine.Num := f.value (codeOf f t ((opnd xs 0).at l) j)
      let y (l j : Nat) : Machine.Num := f.value (codeOf f t ((opnd xs 1).at l) j)
      let fl (l : Nat) : Byte := laneFlags (viewCount t) fun j => fcmpFlags cond (x l j) (y l j)
      st.quietFlags fl →
      ∃ u, exec (.fcmp cond k a b t) s = .next u ∧
        MaskDone s st u k (fun l => (List.range (viewCount t)).all fun j => fcmpHolds cond (x l j) (y l j)) fl)

/-- R260 to R267: the cross-lane words complete with these values; they read A and B in all 32 lanes, executing or not. -/
def Obligations.CrossLaneWords : Prop :=
  ∀ row ∈ crossRows, ∀ (s st : State) (xs : List VReg) (d : Nat) (a b : Src) (t : Nat),
    LaneRun s {} 0xFFFFFFFF (row.reads a b t) st xs d →
    ∃ (r : Nat → Word) (u : State), exec (row.instr d a b t) s = .next u ∧
      (∀ l, l < 32 → inSet s.exec_ l = true →
        row.holds s.exec_ t l (crossAt s.exec_ a (opnd xs 0)) (crossAt s.exec_ b (opnd xs 1)) (r l)) ∧
      LaneDone s st u d r fun _ => 0

/-- R257: SHAPE gives 0, 1 or 2 for U, A or P, the same in every lane, and reads no value; a stream source moves on.

R59, R258: SHASSERT completes when the operand's shape is in the set: its result, pushed into the bypass, is its operand, a U or an
A operand in that shape; else it raises SHAPE with 0 in the fault address.

R58, R259: WIDEN gives P, each lane as the operand has it.  NARROW gives U when every live lane holds one value, with live lanes
alone read; A when the two lowest live lanes are adjacent and every live lane lies on their line; and P otherwise, each lane
with the operand's value and no mark.  Lanes that are not live read the compact shape's value. -/
def Obligations.ShapeWords : Prop :=
  (∀ (s : State) (d : Nat) (a : Src), s.inClause → s.accept {} = .ok () → s.exec_ ≠ 0 → s.bypassMissing a = false → s.canPut d →
      (∀ o ∈ s.ops, o.gang = s.cur → o.kind.writesV a.code = false) →
      ∃ u, exec (.shape d a) s = .next u ∧
        LaneDone s (s.advance (streamsOf [(a, 0)])) u d (fun _ =>
          if 96 ≤ a.code ∧ a.code ≤ 103 then 2 else match (s.operand [] a 0).1 with
            | .u _ => 0
            | .a _ _ => 1
            | .p _ => 2) fun _ => 0) ∧
  (∀ (s st : State) (xs : List VReg) (a : Src) (set : Nat), LaneRun s { m := false, z := false } s.exec_ [(a, 0)] st xs 112 →
      let code := match opnd xs 0 with
        | .u _ => 0
        | .a _ _ => 1
        | .p _ => 2
      (set.testBit code = true →
        ∃ u, exec (.shassert a set) s = .next u ∧ LaneDone s st u 112 (fun l => (opnd xs 0).at l) (fun _ => 0) ∧
          ((opnd xs 0).isP = false → u.g.bp.getD 0 (.u 0) = opnd xs 0) ∧
          ((opnd xs 0).isP = true → (u.g.bp.getD 0 (.u 0)).isP = true)) ∧
      (set.testBit code = false →
        ∃ i, i.cause = 0x06 ∧ i.addr = 0 ∧ i.mask = s.act ∧
          exec (.shassert a set) s = .next (s.raiseTrap s.cur i 0).issued)) ∧
  (∀ (s st : State) (xs : List VReg) (d : Nat) (a : Src), LaneRun s { m := false, z := false } s.g.live [(a, 0)] st xs d →
      let x (l : Nat) : Word := (opnd xs 0).at l
      let live := ranks s.g.live
      let frame (u : State) : Prop := (∀ n, n ≠ d → u.g.vreg n = s.g.vreg n) ∧ u.g.bp.drop 1 = s.g.bp.take 2 ∧
        (∀ l, l < 32 → inSet s.exec_ l = true → inSet s.g.live l = true → (u.g.bp.getD 0 (.u 0)).at l = x l) ∧
        Ends (st.setG { st.g with v := u.g.v, bp := u.g.bp, pushes := s.g.pushes + 1 }) u
      (∃ u, exec (.widen d a) s = .next u ∧ frame u ∧
        (d < 96 → (u.g.vreg d).isP = true ∧ ∀ l, l < 32 → (u.g.vreg d).lane l = (opnd xs 0).lane l)) ∧
      (∃ u, exec (.narrow d a) s = .next u ∧ frame u ∧
        (d < 96 → (∀ y, (∀ l ∈ live, x l = y) → u.g.vreg d = .u y) ∧
          (∀ l0 l1 rest, live = l0 :: l1 :: rest → (∃ l ∈ live, x l ≠ x l0) →
            let stride := x l1 - x l0
            let base := x l0 - BitVec.ofNat 64 l0 * stride
            let affine := l1 = l0 + 1 ∧ ∀ l ∈ live, x l = base + BitVec.ofNat 64 l * stride
            (affine → u.g.vreg d = .a base stride) ∧
            (¬affine → (u.g.vreg d).isP = true ∧ ∀ l, l < 32 → (u.g.vreg d).lane l = { val := x l })))))

/-- R274 to R280: the lane-pipe floating-point words complete, each element the code of the entry that its exact value rounds to,
and each lane raising the flags of its elements.  Which code of equal values or of NaNs FMIN and FMAX return is log entry 67, and that
FRINT returns a zero's raw code log entry 77 (DESIGN CHOICE both).

R275, R276: FSCALE multiplies each element of A by 2 to the power of B's element, a signed integer, and rounds once; a NaN,
an infinity or a zero comes back unchanged, but under SAT an infinity becomes the largest finite value of its sign (R228).
That a NaN keeps its code is log entry 19 (DEDUCED), and that a zero's raw code stays log entry 77 (DESIGN CHOICE). -/
def Obligations.FloatLaneWords : Prop :=
  (∀ row ∈ arithRows ++ pickRows, ∀ (s st : State) (xs : List VReg) (d : Nat) (a b : Src) (t : Nat) (f : Fmt),
      let v (l j : Nat) : Rounded := row.value f (s.modeAt j l) (s.pfx.sat == 1) fun i => codeOf f t ((opnd xs i).at l) j
      let fl (l : Nat) : Byte := laneFlags (viewCount t) fun j => (v l j).2
      LaneRun s row.accept s.exec_ ((row.reads a b s.srcC).map fun x => (x, t)) st xs d → s.viewIs t f → st.quietFlags fl →
      ∃ (r : Nat → Word) (u : State), exec (row.instr d a b t) s = .next u ∧
        (∀ l, l < 32 → inSet s.exec_ l = true → ∀ j, j < viewCount t →
          el (viewWidth t) (r l) j = BitVec.ofNat (viewWidth t) (v l j).1) ∧
        LaneDone s (st.afterDraw t) u d r fl) ∧
  (∀ (s st : State) (xs : List VReg) (d : Nat) (a b : Src) (t : Nat) (f : Fmt),
      let k (l j : Nat) : Int := (el (viewWidth t) ((opnd xs 1).at l) j).toInt
      let c (l j : Nat) : Nat := codeOf f t ((opnd xs 0).at l) j
      let v (l j : Nat) : Rounded := match f.value (c l j) with
        | .nan sig => (c l j, if sig then 0x01 else 0)
        | .inf neg => if s.pfx.sat = 1 then f.round (.inf neg) (s.modeAt j l) true else (c l j, 0)
        | .fin neg n m e => if n = 0 then (c l j, 0) else
            f.round (.fin neg n m (e + max (-40000) (min 40000 (k l j)))) (s.modeAt j l) (s.pfx.sat == 1)
      let fl (l : Nat) : Byte := laneFlags (viewCount t) fun j => (v l j).2
      LaneRun s { rm := true, nf := true, sat := true } s.exec_ [(a, t), (b, t)] st xs d → s.viewIs t f → st.quietFlags fl →
      ∃ (r : Nat → Word) (u : State), exec (.fscale d a b t) s = .next u ∧
        (∀ l, l < 32 → inSet s.exec_ l = true → ∀ j, j < viewCount t →
          el (viewWidth t) (r l) j = BitVec.ofNat (viewWidth t) (v l j).1) ∧
        LaneDone s (st.afterDraw t) u d r fl)

/-- R281: CVT converts the codes of A that its specification names, each through the exact value and one rounding, and takes every
other element from C.

R282: CVTFI converts each code of the view's entry to the signed integer of the element's width, and CVTIF the integer to the
code; each rounds once.

R221, R226: a number that an entry's code stands for comes back as that code, with no flag, under every rounding mode and
under SAT: the codes of float entries that are not NaN, infinity or subnormals of a SUBN that flushes, and of integer and
fixed-point entries. -/
def Obligations.Conversions : Prop :=
  (∀ (s st : State) (xs : List VReg) (d : Nat) (a b : Src) (t : Nat) (spec : Word),
      let sv := bits spec 18 16
      let part := bits spec 21 19
      let se := (s.ctx s.g.ctx).entry (bits spec 7 0)
      let de := (s.ctx s.g.ctx).entry (bits spec 15 8)
      let es := viewCount sv
      let ed := viewCount t
      let conv (l i j : Nat) : Rounded :=
        convert (codeOf se.fmt sv ((opnd xs 0).at l) i) se.fmt de.fmt (s.modeAt j l) (s.pfx.sat == 1)
      let fl (l : Nat) : Byte :=
        if es ≤ ed then laneFlags es fun i => (conv l i (part * es + i)).2 else laneFlags ed fun j => (conv l (part * ed + j) j).2
      LaneRun s { rm := true, nf := true, sat := true, c := true } s.exec_ (s.cvtSources a b t) st xs d →
      (∀ l, l < 32 → inSet s.exec_ l = true → (opnd xs 1).at l = spec) → se.usable = true → de.usable = true →
      se.fmt.width ≤ viewWidth sv → de.fmt.width ≤ viewWidth t → part < max es ed / min es ed → st.quietFlags fl →
      ∃ (r : Nat → Word) (u : State), exec (.cvt d a b t) s = .next u ∧
        (∀ l, l < 32 → inSet s.exec_ l = true → ∀ j, j < ed → el (viewWidth t) (r l) j =
          if es ≤ ed then
            (if part * es ≤ j ∧ j < (part + 1) * es then BitVec.ofNat _ (conv l (j - part * es) j).1
              else el (viewWidth t) ((opnd xs 2).at l) j)
          else BitVec.ofNat _ (conv l (part * ed + j) j).1) ∧
        LaneDone s (st.afterDraw t) u d r fl) ∧
  (∀ (s st : State) (xs : List VReg) (d : Nat) (a : Src) (t : Nat) (f : Fmt),
      let w := viewWidth t
      let whole : Fmt := { valid := true, kind := 1, spec := 2, subn := 0, width := w, s := 1, ew := 0, fw := 0, bias := 0, levels := [] }
      let x (l j : Nat) : Nat := (el w ((opnd xs 0).at l) j).toNat
      let fi (l j : Nat) : Rounded := convert (x l j) f whole (s.modeAt j l) (s.pfx.sat == 1)
      let if_ (l j : Nat) : Rounded := convert (x l j) whole f (s.modeAt j l) (s.pfx.sat == 1)
      s.viewIs t f →
      (LaneRun s { rm := true, nf := true } s.exec_ [(a, t)] st xs d → st.quietFlags (fun l => laneFlags (viewCount t) fun j => (fi l j).2) →
        ∃ (r : Nat → Word) (u : State), exec (.cvtfi d a t) s = .next u ∧
          (∀ l, l < 32 → inSet s.exec_ l = true → ∀ j, j < viewCount t → el w (r l) j = BitVec.ofNat w (fi l j).1) ∧
          LaneDone s (st.afterDraw t) u d r fun l => laneFlags (viewCount t) fun j => (fi l j).2) ∧
      (LaneRun s { rm := true, nf := true, sat := true } s.exec_ [(a, t)] st xs d →
        st.quietFlags (fun l => laneFlags (viewCount t) fun j => (if_ l j).2) →
        ∃ (r : Nat → Word) (u : State), exec (.cvtif d a t) s = .next u ∧
          (∀ l, l < 32 → inSet s.exec_ l = true → ∀ j, j < viewCount t → el w (r l) j = BitVec.ofNat w (if_ l j).1) ∧
          LaneDone s (st.afterDraw t) u d r fun l => laneFlags (viewCount t) fun j => (if_ l j).2)) ∧
  (∀ (e : FtEntry) (c : Nat) (mode : Mode) (sat : Bool), e.usable = true → e.fmt.kind ≠ 3 → c < 2 ^ e.fmt.width →
      (e.fmt.kind = 0 → ∃ neg n m k, e.fmt.value c = .fin neg n m k ∧ (e.fmt.subn = 2 → n ≠ 0) ∧
        (e.fmt.subn = 1 → c / 2 ^ e.fmt.fw % 2 ^ e.fmt.ew = 0 → c % 2 ^ e.fmt.fw = 0)) →
      e.fmt.round (e.fmt.value c) mode sat = (c, 0))

/-- R284 to R286: a special-function word puts its result in flight, on SETA: each element the entry's code of the quotient, the
root or the function's value, with the flags to raise; nothing is written yet.

R287, R290: ACT runs on the active bank's valid header, by the segmented cubic in binary32, and stands on SETA with that bank;
an invalid header raises FMTENTRY. -/
def Obligations.SfuWordsIssue : Prop :=
  (∀ row ∈ sfuRows, ∀ (s st : State) (xs : List VReg) (d : Nat) (a b : Src) (t : Nat) (f : Fmt),
      let v (l j : Nat) : Rounded := row.value f (s.modeAt j l) (s.pfx.sat == 1) fun i => codeOf f t ((opnd xs i).at l) j
      let fl (l : Nat) : Byte := laneFlags (viewCount t) fun j => (v l j).2
      LaneRun s row.accept s.exec_ ((row.reads a b s.srcC).map fun x => (x, t)) st xs d → s.viewIs t f → st.quietFlags fl →
      s.hasRoom s.cl.seta →
      ∃ (r : Nat → Word) (u : State) (o : Op) (fin : Option VReg), exec (row.instr d a b t) s = .next u ∧
        SfuIssued (st.afterDraw t) u o ∧ o.kind = .sfu d fin (s.later fl) none ∧ Coming s d fin r ∧
        ∀ l, l < 32 → inSet s.exec_ l = true → ∀ j, j < viewCount t →
          el (viewWidth t) (r l) j = BitVec.ofNat (viewWidth t) (v l j).1) ∧
  (∀ (s st : State) (xs : List VReg) (d : Nat) (a : Src) (n t : Nat) (f : Fmt),
      let bank := s.luts.bank s.luts.sel
      let h := fnHeader bank n
      let v (l j : Nat) : Rounded := actOp bank h f (s.modeAt j l) (s.pfx.sat == 1) (f.value (codeOf f t ((opnd xs 0).at l) j))
      let fl (l : Nat) : Byte := laneFlags (viewCount t) fun j => (v l j).2
      LaneRun s { rm := true, nf := true, sat := true } s.exec_ [(a, t)] st xs d → s.viewIs t f →
      (h.valid = true → st.quietFlags fl → s.hasRoom s.cl.seta →
        ∃ (r : Nat → Word) (u : State) (o : Op) (fin : Option VReg), exec (.act d a n t) s = .next u ∧
          SfuIssued (st.afterDraw t) u o ∧ o.kind = .sfu d fin (s.later fl) (some s.luts.sel) ∧ Coming s d fin r ∧
          ∀ l, l < 32 → inSet s.exec_ l = true → ∀ j, j < viewCount t →
            el (viewWidth t) (r l) j = BitVec.ofNat (viewWidth t) (v l j).1) ∧
      (h.valid = false → s.hasRoom s.cl.seta → ∃ i, i.cause = 0x04 ∧ i.addr = BitVec.ofNat 64 n ∧
        exec (.act d a n t) s = .next (s.raiseTrap s.cur i 0).issued))

/-- R291: CATS sums the executing lanes' binary32 weights in ascending lane order, and gives the first lane whose sum exceeds the
threshold, the total times B's low word over 2^32; else the last lane of positive weight; else all ones.  A weight that is not
finite or lies below -0 counts as 0 and raises IW.  Stated where the total is finite.

R292, R293: RNG gives each executing lane the generator's output at its position, as 64 bits, as a binary64 number of 53 bits or
as two binary32 numbers of 24 bits below 1, and moves the counter on by one, also when no lane executes. -/
def Obligations.DrawsAndRandom : Prop :=
  (∀ (s st : State) (xs : List VReg) (d : Nat) (a b : Src) (draw : Nat),
      let c (l : Nat) : Nat := ((opnd xs 0).at l).toNat % 2 ^ 32
      let bad (l : Nat) : Bool := c l / 2 ^ 23 % 256 == 255 || 2 ^ 31 < c l
      let w (l : Nat) : Nat := if bad l then 0 else c l
      let rs := running w (ranks s.exec_) 0
      let total := fmtF32.value ((rs.getLast?.map Prod.snd).getD 0)
      let top := fmtF32.value (fmtF32.round (Machine.Num.scale2 (-32) (Machine.Num.mul total (.ofInt draw))) .rne false).1
      let pick : Word := match rs.find? fun x => !top.isNan && Machine.Num.lt top (fmtF32.value x.2) with
        | some x => BitVec.ofNat 64 x.1
        | none => match ((ranks s.exec_).filter fun l => Machine.Num.lt (.zero false) (fmtF32.value (w l))).getLast? with
          | some l => BitVec.ofNat 64 l
          | none => 0xFFFFFFFFFFFFFFFF
      let fl (l : Nat) : Byte := if bad l then 0x80 else 0
      LaneRun s { z := false } s.exec_ [(a, 5), (b, 5)] st xs d →
      (∀ l, l < 32 → inSet s.exec_ l = true → ((opnd xs 1).at l).toNat % 2 ^ 32 = draw) → total.isInf = false →
      st.quietFlags fl → s.hasRoom s.cl.seta →
      ∃ (u : State) (o : Op) (fin : Option VReg), exec (.cats d a b) s = .next u ∧ SfuIssued st u o ∧
        o.kind = .sfu d fin (s.later fl) none ∧ Coming s d fin fun _ => pick) ∧
  (∀ (s : State) (d t : Nat), s.inClause → s.accept {} = .ok () →
      let mix (q : Word) : Word :=
        let z := q * 0x9E3779B97F4A7C15 + s.g.seed
        let z1 := (z ^^^ (z >>> 30)) * 0xBF58476D1CE4E5B9
        let z2 := (z1 ^^^ (z1 >>> 27)) * 0x94D049BB133111EB
        z2 ^^^ (z2 >>> 31)
      let z (l : Nat) : Word := mix (s.g.ctr * 32 + BitVec.ofNat 64 l)
      let s1 := s.setG { s.g with ctr := s.g.ctr + 1 }
      (s.exec_ = 0 → ∃ u, exec (.rng d t) s = .next u ∧ Ends s1 u) ∧
      (s.exec_ ≠ 0 → s.canPut d → s.hasRoom s.cl.seta →
        ∃ (r : Nat → Word) (u : State) (o : Op) (fin : Option VReg), exec (.rng d t) s = .next u ∧ SfuIssued s1 u o ∧
          o.kind = .sfu d fin (Vector.replicate 32 0) none ∧ Coming s d fin r ∧ ∀ l, l < 32 →
            (t = 0 → r l = z l) ∧
            (t = 4 → r l = BitVec.ofNat 64 (fmtF64.round (.fin false ((z l).toNat / 2 ^ 11) 1 (-53)) .rne false).1) ∧
            (t = 5 → ∀ j, j < 2 → el 32 (r l) j =
              BitVec.ofNat 32 (fmtF32.round (.fin false ((el 32 (z l) j).toNat / 2 ^ 8) 1 (-24)) .rne false).1)))

/-- R284: the oldest special-function word of a gang completes: D takes the result it holds, the sticky flags take its flags, and
it leaves its flag; a staged copy of D is dropped (R71); no other register, gang or byte of memory changes.

R51, R237: XFR gives each executing lane its sticky flags, once no earlier operation has flags to deliver; XFC also clears the
flags that A's low byte names in each executing lane, and its result comes with its completion. -/
def Obligations.SfuWordsComplete : Prop :=
  (∀ (s : State) (op d : Nat) (o : Op) (fin : Option VReg), s.op? op = some o → s.hasGang o.gang →
      (∀ p ∈ s.ops, p.gang = o.gang → p.kind.isSfu = true → o.id ≤ p.id) →
      let old := s.gang o.gang
      let put : Gang := match fin with
        | some r => old.setV d r
        | none => old
      (∀ flags bank, o.kind = .sfu d fin flags bank →
        ∃ u, exec (.sfuComplete op) s = .next u ∧ Retired s u o ∧ (u.gang o.gang).v = put.v ∧
          (∀ l : Fin 32, (u.gang o.gang).xf[l] = old.xf[l] ||| flags[l]) ∧
          (u.gang o.gang).staged = put.staged ∧ (u.gang o.gang).cl = put.cl ∧ { s with ops := u.ops, gangs := u.gangs } = u ∧
          { u.gang o.gang with v := old.v, xf := old.xf, cf := old.cf, staged := old.staged, cl := old.cl } = old) ∧
      (o.kind = .xfc d fin →
        ∃ u, exec (.sfuComplete op) s = .next u ∧ Retired s u o ∧ (u.gang o.gang).v = put.v ∧
          (u.gang o.gang).staged = put.staged ∧ (u.gang o.gang).cl = put.cl ∧ { s with ops := u.ops, gangs := u.gangs } = u ∧
          { u.gang o.gang with v := old.v, cf := old.cf, staged := old.staged, cl := old.cl } = old)) ∧
  (∀ (s : State) (d : Nat), s.inClause → s.accept {} = .ok () → s.exec_ ≠ 0 → s.flagsPending = false → s.canPut d →
      (∃ u, exec (.xfr d) s = .next u ∧
        LaneDone s s u d (fun l => (s.g.xf.toList.getD l 0).zeroExtend 64) fun _ => 0) ∧
      (∀ (a : Src) (st : State) (xs : List VReg), s.sources s.exec_ [(a, 0)] = .ok (st, xs) → st.canPut d → s.hasRoom s.cl.seta →
        ∃ (u : State) (o : Op) (fin : Option VReg), exec (.xfc d a) s = .next u ∧ o.kind = .xfc d fin ∧
          Coming s d fin (fun l => (s.g.xf.toList.getD l 0).zeroExtend 64) ∧
          (∀ l : Fin 32, u.g.xf[l] = if inSet s.exec_ l then s.g.xf[l] &&& ~~~(((opnd xs 0).at l).truncate 8) else s.g.xf[l]) ∧
          SfuIssued (st.setG { st.g with xf := u.g.xf }) u o))

/-! ## Memory words and their accesses -/

/-- R77, R173, R178, R179: LDG and LDS complete, once every lane's address passes its checks: one access for each executing lane, at
A + B, of T's width, in flight on SETA, its values to go to the executing lanes of D. -/
def Obligations.LaneLoadsIssue : Prop :=
  ∀ (s st : State) (xs : List VReg) (d : Nat) (a b : Src) (t : Nat),
    let w := bytesOfT t
    let l := (ranks s.exec_).map fun l => (l, ((opnd xs 0).at l + (opnd xs 1).at l).toNat)
    LaneRun s {} s.exec_ [(a, 0), (b, 0)] st xs d → s.hasRoom s.cl.seta →
    (∀ es, st.checkGlobal .read w false l = .ok es →
      ∃ (u : State) (o : Op), exec (.ldg d a b t) s = .next u ∧ Issued (st.useTlb es) u o ∧ o.flag = s.cl.seta ∧
        o.kind = .load (destOf s d) t false ∧ o.places = globalPlaces w l es ∧ FilledLater s u d) ∧
    (st.checkSpad .read w false l = .ok () →
      ∃ (u : State) (o : Op), exec (.lds d a b t) s = .next u ∧ Issued st u o ∧ o.flag = s.cl.seta ∧
        o.kind = .load (destOf s d) t true ∧ o.places = spadPlaces w l ∧ (∀ i ∈ o.items, i.done = false) ∧ FilledLater s u d)

/-- R147, R173, R178, R180: STG and STS complete, once every lane's address passes its checks: the low bytes of each executing lane's
data are to be stored at A + B; no register changes and no byte of memory does yet; when the accesses are performed the bytes are
those of the lanes' stores in ascending lane order, and each access keeps to one aligned 64-byte block.  Translations keep the
alignment, as every leaf does that a walk gives. -/
def Obligations.LaneStoresIssue : Prop :=
  ∀ (s st : State) (xs : List VReg) (data : Nat) (a b : Src) (t : Nat),
    let w := bytesOfT t
    let l := (ranks s.exec_).map fun l => (l, ((opnd xs 0).at l + (opnd xs 1).at l).toNat)
    LaneRun s { z := false } s.exec_ [(a, 0), (b, 0), (⟨data, 0⟩, t)] st xs 112 → s.hasRoom s.cl.seta →
    (∀ es, st.checkGlobal .write w false l = .ok es → (∀ p ∈ l.zip es, p.2.phys p.1.2 % w = 0) →
      ∃ (u : State) (o : Op), exec (.stg data a b t) s = .next u ∧ SameLines (st.useTlb es) u ∧
        Issued { st.useTlb es with cores := u.cores } u o ∧ o.flag = s.cl.seta ∧ o.kind = .store false ∧ u.g.v = s.g.v ∧
        (∀ i ∈ o.items, i.done = false ∧ i.pa / 64 = (i.pa + i.w - 1) / 64) ∧
        ∀ m x, m.wf = true →
          (o.leaves m).byte x = (storeBytes w ((l.zip es).map fun p => (p.1.1, p.2.phys p.1.2)) (opnd xs 2).at m).byte x) ∧
    (st.checkSpad .write w false l = .ok () →
      ∃ (u : State) (o : Op), exec (.sts data a b t) s = .next u ∧ Issued st u o ∧ o.flag = s.cl.seta ∧ o.kind = .store true ∧
        u.g.v = s.g.v ∧ (∀ i ∈ o.items, i.done = false) ∧
        ∀ m x, m.wf = true → (o.leaves m).byte x = (storeBytes w l (opnd xs 2).at m).byte x)

/-- R189: the uniform loads and stores complete, once the address passes its checks: s[A] is the address and `w` the size code; a
load's value is to go to s[D], and a store writes the low bytes of s[D].

R183: PFD never traps on its addresses; it changes no register, mask or flag, and no earlier operation; with .l1 it puts
prefetches in flight, which stand on no flag: the lowest executing lane's line is requested first, when that lane's operands carry no mark,
its address passes the checks, no copy in L1 would serve it and its line is not poisoned.  With .l2 it puts nothing in flight (log entry 40,
DEDUCED: R183 brings the line to its home bank).  Where no operand is a stream, no byte of memory changes but those of a frame that a
tenant's walk takes over (R367).  A stream's elements are loads of the gang, stated where none of them has an earlier access to wait for.
No operation in flight has the number that the next one will take, an invariant that `StepKeepsInvariant` states. -/
def Obligations.UniformMemoryWords : Prop :=
  (∀ (s : State) (d a w : Nat), s.inClause → s.g.latch = none → s.canGet a → s.hasRoom s.cl.seta → w < 4 →
      let n := 8 / 2 ^ w
      let l := [(0, (s.g.sreg a).val.toNat)]
      (s.sBusy d = false →
        (∀ es, s.checkGlobal .read n true l = .ok es →
          ∃ (u : State) (o : Op), exec (.uld d a w) s = .next u ∧ Issued (s.useTlb es) u o ∧ o.flag = s.cl.seta ∧
            o.kind = .load (.scl d) 0 false ∧ o.places = globalPlaces n l es ∧ u.g.v = s.g.v) ∧
        (s.checkSpad .read n true l = .ok () →
          ∃ (u : State) (o : Op), exec (.ulds d a w) s = .next u ∧ Issued s u o ∧ o.flag = s.cl.seta ∧
            o.kind = .load (.scl d) 0 true ∧ o.places = spadPlaces n l ∧ u.g.v = s.g.v)) ∧
      (s.canGet d →
        (∀ es, s.checkGlobal .write n true l = .ok es →
          ∃ (u : State) (o : Op), exec (.ust d a w) s = .next u ∧ SameLines (s.useTlb es) u ∧
            Issued { s.useTlb es with cores := u.cores } u o ∧ o.flag = s.cl.seta ∧ o.kind = .store false ∧ u.g.v = s.g.v ∧
            ∀ m x, m.wf = true → (o.leaves m).byte x =
              (storeBytes n ((l.zip es).map fun p => (p.1.1, p.2.phys p.1.2)) (fun _ => (s.g.sreg d).val) m).byte x) ∧
        (s.checkSpad .write n true l = .ok () →
          ∃ (u : State) (o : Op), exec (.usts d a w) s = .next u ∧ Issued s u o ∧ o.flag = s.cl.seta ∧ o.kind = .store true ∧
            u.g.v = s.g.v ∧ ∀ m x, m.wf = true → (o.leaves m).byte x = (storeBytes n l (fun _ => (s.g.sreg d).val) m).byte x))) ∧
  (∀ (s : State) (a b : Src) (level : Nat), s.inClause → s.accept { z := false } = .ok () → s.srcBusy a = false → s.srcBusy b = false →
      (∀ o ∈ s.ops, o.id < s.nextOp) →
      (∀ x ∈ s.allElems (streamsOf [(a, 0), (b, 0)]), ∀ e, s.elemEntry x.2.2 x.2.1 = some e →
        s.loadHeld s.cur e.shared (e.phys x.2.1) x.2.2 = false) →
      ∃ u l, exec (.pfd a b level) s = .next u ∧ u.ops = s.ops ++ l ∧ (level ≠ 0 → l = []) ∧
        (∀ o ∈ l, o.kind = .prefetch ∧ 12 ≤ o.flag ∧ o.gang = s.cur) ∧ u.g.v = s.g.v ∧ u.g.s = s.g.s ∧ u.g.m = s.g.m ∧ u.g.xf = s.g.xf ∧
        u.g.cf = s.g.cf ∧ u.g.bp = s.g.bp ∧ (∀ k, k ≠ s.cur → u.gang k = s.gang k) ∧
        (streamsOf [(a, 0), (b, 0)] = [] →
          (level ≠ 0 ∨ (s.ctx s.g.ctx).num = 0 → u.mem = s.mem) ∧
          (s.mem.wf = true → ∀ x, u.mem.byte x ≠ s.mem.byte x →
            u.mem.byte x = 0 ∧ tget? u.owners (x / 65536) ≠ tget? s.owners (x / 65536)) ∧
          (level = 0 → s.bypassMissing a = false → s.bypassMissing b = false → ∀ n ns x y e, ranks s.exec_ = n :: ns →
            operandMark s.g a n = none → operandMark s.g b n = none → operandSays s.g a 0 n x → operandSays s.g b 0 n y →
            let ea := (x + y).toNat
            s.checkGlobal .read 1 false [(0, ea)] = .ok [e] →
            ((s.core s.g.core).l1.all fun c => !(c.ctx == s.g.ctx && c.line == e.phys ea / 128 && decide (s.ns < c.expiry) &&
              decide (s.g.va ≤ c.grant))) = true →
            s.mem.poisoned (e.phys ea / 128 * 128) 128 = false →
            ∃ o r, l = o :: r ∧ o.items = [{ lane := 0, va := ea, pa := e.phys ea, w := 1, shared := e.shared, dirt := [e.dref ea] }])))

/-- R184 to R188, R190: the atomics complete, once every address passes its checks: one access for each executing lane at A, with the
lane's operand and, for CAS, its compare value; ATOM and FATOM return the old values to D, UATOM to s[D], and RED returns none. -/
def Obligations.AtomicsIssue : Prop :=
  ∀ (s st : State) (xs : List VReg) (d : Nat) (a b : Src) (t : Nat) (es : List TlbEntry),
    let l := (ranks s.exec_).map fun l => (l, ((opnd xs 0).at l).toNat)
    let codes : List AtomOp := [.add, .min, .max, .minu, .maxu, .and, .or, .xor]
    let given (o : Op) : Prop := ∀ i ∈ o.items, i.done = false ∧ i.x = (opnd xs 1).at i.lane
    s.hasRoom s.cl.seta →
    (∀ n, n = 4 ∨ n = 8 →
      let go := if n = 4 then exec (.atom32 d a b t) s else exec (.atom64 d a b t) s
      st.checkGlobal .atomic n false l = .ok es →
      (LaneRun s { sat := true } s.exec_ [(a, 0), (b, 0)] st xs d → s.pfx.sat = 0 → t < 8 →
        ∃ (u : State) (o : Op), go = .next u ∧ Issued (st.useTlb es) u o ∧ o.flag = s.cl.seta ∧
          o.kind = .atomic (codes.getD t .add) n (destOf s d) {} 0 false ∧ o.places = globalPlaces n l es ∧ given o ∧ FilledLater s u d) ∧
      (LaneRun s { sat := true } s.exec_ [(a, 0), (b, 0)] st xs d → s.pfx.sat = 1 → t = 0 →
        ∃ (u : State) (o : Op), go = .next u ∧ Issued (st.useTlb es) u o ∧ o.flag = s.cl.seta ∧
          o.kind = .atomic .xchg n (destOf s d) {} 0 false ∧ o.places = globalPlaces n l es ∧ given o ∧ FilledLater s u d) ∧
      (LaneRun s { sat := true, c := true } s.exec_ [(a, 0), (b, 0), (s.srcC, 0)] st xs d → s.pfx.sat = 1 → t = 1 →
        ∃ (u : State) (o : Op), go = .next u ∧ Issued (st.useTlb es) u o ∧ o.flag = s.cl.seta ∧
          o.kind = .atomic .cas n (destOf s d) {} 0 false ∧ o.places = globalPlaces n l es ∧ given o ∧
          (∀ i ∈ o.items, i.cmp = (opnd xs 2).at i.lane) ∧ FilledLater s u d)) ∧
    (∀ z, LaneRun s { z := false } s.exec_ [(a, 0), (b, 0)] st xs 112 → t < 8 → st.checkGlobal .atomic (8 / 2 ^ z) false l = .ok es →
      ∃ (u : State) (o : Op), exec (.red z a b t) s = .next u ∧ Issued (st.useTlb es) u o ∧ o.flag = s.cl.seta ∧
        o.kind = .red (codes.getD t .add) (8 / 2 ^ z) ∧ o.places = globalPlaces (8 / 2 ^ z) l es ∧ given o ∧ u.g.v = s.g.v) ∧
    (∀ n, LaneRun s { rm := true, nf := true, c := true } s.exec_ [(a, 0), (b, 0), (s.srcC, 0)] st xs d → s.pfx.rm ≠ 3 →
      (s.ctx s.g.ctx).featmask.getLsbD 6 = true → (∀ k, k < 32 → inSet s.exec_ k = true → ((opnd xs 2).at k).toNat % 256 = n) →
      let e := (s.ctx s.g.ctx).entry n
      e.usable = true → e.fmt.kind ≠ 3 → (e.fmt.width = 8 ∨ e.fmt.width = 16 ∨ e.fmt.width = 32 ∨ e.fmt.width = 64) →
      st.checkGlobal .atomic (e.fmt.width / 8) false l = .ok es →
      ∃ (u : State) (o : Op), exec (.fatom d a b t) s = .next u ∧ Issued (st.useTlb es) u o ∧ o.flag = s.cl.seta ∧
        o.kind = .atomic (if t = 0 then .fadd else if t = 1 then .fmin else .fmax) (e.fmt.width / 8) (destOf s d) e
          (if s.pfx.rm = 0 then s.g.fround + 1 else s.pfx.rm) (s.pfx.nf == 1) ∧
        o.places = globalPlaces (e.fmt.width / 8) l es ∧ given o ∧ FilledLater s u d) ∧
    (∀ ad op x, s.inClause → s.g.latch = none → s.canGet ad → s.canGet x → s.sBusy d = false → (op = 7 → s.canGet d) → op < 8 →
      let la := [(0, (s.g.sreg ad).val.toNat)]
      s.checkGlobal .atomic 8 true la = .ok es →
      ∃ (u : State) (o : Op), exec (.uatom d ad op x) s = .next u ∧ Issued (s.useTlb es) u o ∧ o.flag = s.cl.seta ∧
        o.kind = .atomic (([.add, .minu, .maxu, .and, .or, .xor, .xchg, .cas] : List AtomOp).getD op .add) 8 (.scl d) {} 0 false ∧
        o.places = globalPlaces 8 la es ∧ (∀ i ∈ o.items, i.x = (s.g.sreg x).val ∧ (op = 7 → i.cmp = (s.g.sreg d).val)) ∧ u.g.v = s.g.v)

/-- R138, R140, R143: a home bank serves an access of a load: the access takes the bytes of memory, or the mark of its address when
one of them is poisoned; L1 holds the line until the lease clock has passed by the lease length, and G of the line is no earlier.
No byte of memory changes.  Stated where the frame needs no zeroing and the core's queue holds no store of the context.

R140: a line whose lease has ended leaves L1; every other line, and all else, stays. -/
def Obligations.LoadServed : Prop :=
  (∀ (s : State) (op k : Nat) (o : Op) (i : Item) (dst : Dst) (t : Nat) (ev ev2 : List Nat),
      s.op? op = some o → o.items[k]? = some i → s.mayPerform o k i = true →
      (o.kind = .load dst t false → (s.core o.core).l1Room (i.pa / 128) ev = true →
        s.newOwner (s.ctx o.ctx).num (i.pa / 65536) i.shared = none → s.queued o.core o.ctx o.id = [] → s.mem.wf = true →
        0 < i.w → i.pa / 128 = (i.pa + i.w - 1) / 128 →
        ∃ (u : State) (j : Item), exec (.loadMissServe op k ev ev2) s = .next u ∧ Performed s u o k j ∧
          (∀ x, u.mem.byte x = s.mem.byte x) ∧
          (s.mem.poisoned i.pa i.w = false → j.res = some { val := BitVec.ofNat 64 (s.mem.value i.pa i.w) }) ∧
          (s.mem.poisoned i.pa i.w = true → ∃ r, j.res = some r ∧ r.mark = some (BitVec.ofNat 64 i.va)) ∧
          (∃ x ∈ (u.core o.core).l1, x.ctx = o.ctx ∧ x.line = i.pa / 128 ∧ x.grant = s.ns ∧ x.expiry = s.ns + (s.ctx o.ctx).leaselen) ∧
          s.ns + (s.ctx o.ctx).leaselen ≤ u.lineExpiry (s.ctx o.ctx).part i.pa) ∧
      (o.kind = .load dst t true → i.plane = none →
        ∃ (u : State) (j : Item), exec (.loadMissServe op k ev ev2) s = .next u ∧ Performed s u o k j ∧ u.mem = s.mem ∧
          let m := (s.team o.team).spad
          (m.poisoned i.pa i.w = false → j.res = some { val := BitVec.ofNat 64 (m.value i.pa i.w) }) ∧
          (m.poisoned i.pa i.w = true → ∃ r, j.res = some r ∧ r.mark = some (BitVec.ofNat 64 i.va)))) ∧
  (∀ (s : State) (core ctx line : Nat), ∃ u, exec (.leaseExpiry core ctx line) s = .next u ∧
      u = s.setCore core { s.core core with l1 := (s.core core).l1.filter fun x => !(x.ctx == ctx && x.line == line && x.expiry ≤ s.ns) } ∧
      ∀ x ∈ (u.core core).l1, x.ctx = ctx → x.line = line → s.ns < x.expiry)

/-- R178, R179, R189, R216: when every access of a load is performed it completes: each lane that executed takes the value read,
extended from T's width, or its mark, and other lanes keep what they held, and a staged copy of the register is dropped (R71); a
uniform load fills s[D]; the flag counts one fewer.

R141, R187, R216: an acknowledged store enters its completion time into P and leaves its flag; no register or byte of memory
changes.

R184 to R188, R190, R216: an acknowledged atomic completes.  ATOM32, ATOM64 and FATOM give each lane of D, and UATOM gives s[D], the
old value that its access returned, or its mark; FATOM's flags reach the lanes; RED returns none, and each poisoned access of it leaves a
report on the gang and on the flag (R175; log entry 73).  The completion time enters P; no byte of memory changes. -/
def Obligations.AccessesComplete : Prop :=
  (∀ (s : State) (op : Nat) (o : Op) (t : Nat) (sp : Bool), s.op? op = some o → s.hasGang o.gang → (∀ i ∈ o.items, i.done = true) →
      let ext (x : Slot) : Word := match t with
        | 1 => ((x.val.truncate 32).signExtend 64)
        | 2 => ((x.val.truncate 16).signExtend 64)
        | 3 => ((x.val.truncate 8).signExtend 64)
        | _ => x.val
      (∀ d e, d < 96 → o.kind = .load (.vec d e) t sp →
        ∃ u, exec (.loadComplete op) s = .next u ∧ Retired s u o ∧ { s with ops := u.ops, gangs := u.gangs } = u ∧
          (∀ l i, l < 32 → inSet e l = true → (o.items.find? fun i => i.lane == l) = some i →
            ((u.gang o.gang).vreg d).lane l = { val := ext (i.res.getD {}), mark := (i.res.getD {}).mark }) ∧
          (∀ l, l < 32 → inSet e l = false → ((u.gang o.gang).vreg d).lane l = ((s.gang o.gang).vreg d).lane l) ∧
          (∀ n, n ≠ d → (u.gang o.gang).vreg n = (s.gang o.gang).vreg n) ∧
          (u.gang o.gang).staged = (s.gang o.gang).staged.filter (fun k => !(k == d)) ∧
          (u.gang o.gang).cl = ((s.gang o.gang).setV d (.u 0)).cl ∧
          { u.gang o.gang with v := (s.gang o.gang).v, cf := (s.gang o.gang).cf, staged := (s.gang o.gang).staged,
                               cl := (s.gang o.gang).cl } = s.gang o.gang) ∧
      (∀ d i, d < 256 → o.kind = .load (.scl d) t sp → o.items = [i] → i.lane = 0 →
        ∃ u, exec (.loadComplete op) s = .next u ∧ Retired s u o ∧ { s with ops := u.ops, gangs := u.gangs } = u ∧
          (u.gang o.gang).sreg d = { val := ext (i.res.getD {}), mark := (i.res.getD {}).mark } ∧
          (∀ n, n ≠ d → (u.gang o.gang).sreg n = (s.gang o.gang).sreg n) ∧
          { u.gang o.gang with s := (s.gang o.gang).s, cf := (s.gang o.gang).cf } = s.gang o.gang)) ∧
  (∀ (s : State) (op : Nat) (o : Op) (sp : Bool), s.op? op = some o → s.hasGang o.gang → o.kind = .store sp →
      (∀ i ∈ o.items, i.done = true) → o.items ≠ [] →
      ∃ u, exec (.storeAck op) s = .next u ∧ Retired s u o ∧ { s with ops := u.ops, gangs := u.gangs } = u ∧
        { u.gang o.gang with pend := none, cf := (s.gang o.gang).cf } = { s.gang o.gang with pend := none } ∧
        (sp = true → (u.gang o.gang).pend = (s.gang o.gang).pend) ∧
        (sp = false → ∃ p, (u.gang o.gang).pend = some p ∧ (∀ i ∈ o.items, i.comp ≤ p) ∧ (s.gang o.gang).pend.getD 0 ≤ p ∧
          ((∃ i ∈ o.items, i.comp = p) ∨ (s.gang o.gang).pend.getD 0 = p))) ∧
  (∀ (s : State) (op : Nat) (o : Op), s.op? op = some o → s.hasGang o.gang → (∀ i ∈ o.items, i.done = true) → o.items ≠ [] →
      let old := s.gang o.gang
      let back (l : Nat) : Option Item := o.items.find? fun i => i.lane == l
      let value (l : Nat) : Slot := match back l with
        | some i => i.res.getD {}
        | none => {}
      let rest (u : State) : Prop := { s with ops := u.ops, gangs := u.gangs, cores := u.cores } = u ∧
        (∀ k, { u.core k with l1 := [] } = { s.core k with l1 := [] }) ∧
        ∃ p, (u.gang o.gang).pend = some p ∧ (∀ i ∈ o.items, i.comp ≤ p) ∧ old.pend.getD 0 ≤ p ∧
          ((∃ i ∈ o.items, i.comp = p) ∨ old.pend.getD 0 = p)
      (∀ f w dst e md nf, o.kind = .atomic f w dst e md nf →
        ∃ u, exec (.storeAck op) s = .next u ∧ Retired s u o ∧ rest u ∧
          (∀ n l, n < 96 → l < 32 → ((u.gang o.gang).vreg n).lane l = match dst with
            | .vec d set => if n = d ∧ inSet set l = true then value l else (old.vreg n).lane l
            | _ => (old.vreg n).lane l) ∧
          (∀ n, n < 256 → (u.gang o.gang).sreg n = match dst with
            | .scl d => if n = d then value 0 else old.sreg n
            | _ => old.sreg n) ∧
          (∀ l : Fin 32, (u.gang o.gang).xf[l] = old.xf[l] ||| match back l with
            | some i => i.flags
            | none => 0) ∧
          (∀ n, (∀ set, dst ≠ .vec n set) → (u.gang o.gang).vreg n = old.vreg n) ∧
          ((∀ d set, dst ≠ .vec d set) → (u.gang o.gang).staged = old.staged ∧ (u.gang o.gang).cl = old.cl) ∧
          (∀ d set, dst = .vec d set → (u.gang o.gang).staged = old.staged.filter (fun k => !(k == d)) ∧
            (u.gang o.gang).cl = (old.setV d (.u 0)).cl) ∧
          { u.gang o.gang with v := old.v, s := old.s, xf := old.xf, cf := old.cf, pend := old.pend, staged := old.staged,
                               cl := old.cl } = old) ∧
      (∀ f w, o.kind = .red f w →
        let rs : List Report := o.items.filterMap fun i => (i.res.bind fun r => r.mark).map fun a => { engine := false, addr := a }
        ∃ u, exec (.storeAck op) s = .next u ∧ rest u ∧ u.ops = s.ops.filter (fun x => !(x.id == o.id)) ∧
          (u.gang o.gang).redReports = old.redReports ++ rs ∧
          (∀ n, n < 12 → (u.gang o.gang).flag n =
            if n = o.flag then { old.flag n with count := (old.flag n).count - 1, reports := (old.flag n).reports ++ rs } else old.flag n) ∧
          { u.gang o.gang with cf := old.cf, pend := old.pend, redReports := old.redReports } = old))

/-- R138, R141, R175, R362: a store is performed at its bank: every byte it writes whole takes its value, the D bits of the stage-1
leaves it goes through are set, every other byte stays as it was (after R367's zeroing), and its completion time is the later of now
and G; the core's atomics not yet acknowledged note its bytes (R154).  At a scratchpad bank, memory does not change.

R184 to R186, R175: an integer atomic is performed at its bank in one step: the old bytes are returned and the new value of the
operation takes their place, a CAS that fails storing none; on poisoned bytes it is not performed, and its mark is returned.  No byte
outside changes where every leaf has its D bit set.

R187, R175: FATOM is performed at its bank in one step, in its captured entry: the old code is returned and the new one takes its
place, the exact sum rounded once in its mode, or the operand that R277's order picks (log entry 67, DESIGN CHOICE); the flags, none under
NF, wait with the old code; on poisoned bytes it is not performed.  Stated where every leaf has its D bit set. -/
def Obligations.WritesPerformed : Prop :=
  (∀ (s : State) (op k : Nat) (o : Op) (i : Item), s.op? op = some o → o.items[k]? = some i → s.mayPerform o k i = true →
      s.mem.wf = true →
      let last (m : Memory) : Prop := ∀ ps p qs, i.pieces = ps ++ p :: qs → (∀ q ∈ qs, q.addr ≠ p.addr) → p.mask = 0xFF →
        m.byte p.addr = p.byte
      (o.kind = .store false → (∀ d ∈ i.dirt, d.leaf2 = none) →
        ∃ (u : State) (j : Item), exec (.storePerformed op k) s = .next u ∧
          Performed (s.noteAfter o.core o.ctx i.pieces) u o k j ∧ last u.mem ∧
          (∀ x, (∀ p ∈ i.pieces, p.addr ≠ x) → u.mem.byte x =
            if ∃ d ∈ i.dirt, d.leaf1 = some x then (s.ownedMem o i).byte x ||| 0x40 else (s.ownedMem o i).byte x) ∧
          j.comp = max (s.lineExpiry (s.ctx o.ctx).part i.pa) s.ns) ∧
      (o.kind = .store true → (s.team o.team).spad.wf = true →
        ∃ (u : State) (j : Item), exec (.storePerformed op k) s = .next u ∧ Performed s u o k j ∧ u.mem = s.mem ∧
          last (u.team o.team).spad ∧ ∀ x, (∀ p ∈ i.pieces, p.addr ≠ x) → (u.team o.team).spad.byte x = (s.team o.team).spad.byte x)) ∧
  (∀ (s : State) (op k w : Nat) (o : Op) (i : Item) (f : AtomOp) (dst : Dst) (e : FtEntry) (md : Nat) (nf : Bool),
      s.op? op = some o → o.items[k]? = some i → s.mayPerform o k i = true → s.mem.wf = true →
      o.kind = .atomic f w dst e md nf → (w = 4 ∨ w = 8) →
      (∀ d ∈ i.dirt, d.leaf1 = none ∧ d.leaf2 = none) →
      s.newOwner (s.ctx o.ctx).num (i.pa / 65536) i.shared = none →
      let old := BitVec.ofNat (8 * w) (s.mem.value i.pa w)
      let x : BitVec (8 * w) := i.x.setWidth _
      let new : Option (BitVec (8 * w)) := match f with
        | .add => some (old + x)
        | .min => some (if x.slt old then x else old)
        | .max => some (if old.slt x then x else old)
        | .minu => some (if x.ult old then x else old)
        | .maxu => some (if old.ult x then x else old)
        | .and => some (old &&& x)
        | .or => some (old ||| x)
        | .xor => some (old ^^^ x)
        | .xchg => some x
        | .cas => some (if old = i.cmp.setWidth _ then x else old)
        | _ => none
      ∀ y, new = some y →
        ∃ (u : State) (j : Item), exec (.storePerformed op k) s = .next u ∧
          Performed (if s.mem.poisoned i.pa w then s else s.noteAfter o.core o.ctx (piecesOf i.pa w (y.setWidth 64))) u o k j ∧
          (∀ a, a < i.pa ∨ i.pa + w ≤ a → u.mem.byte a = s.mem.byte a) ∧
          (s.mem.poisoned i.pa w = false → j.res = some { val := old.setWidth 64 } ∧ BitVec.ofNat (8 * w) (u.mem.value i.pa w) = y ∧
            j.comp = max (s.lineExpiry (s.ctx o.ctx).part i.pa) s.ns) ∧
          (s.mem.poisoned i.pa w = true → (∃ r, j.res = some r ∧ r.mark = some (BitVec.ofNat 64 i.va)) ∧
            BitVec.ofNat (8 * w) (u.mem.value i.pa w) = old)) ∧
  (∀ (s : State) (op k w : Nat) (o : Op) (i : Item) (f : AtomOp) (dst : Dst) (e : FtEntry) (md : Nat) (nf : Bool),
      s.op? op = some o → o.items[k]? = some i → s.mayPerform o k i = true → s.mem.wf = true →
      o.kind = .atomic f w dst e md nf → (f = .fadd ∨ f = .fmin ∨ f = .fmax) → (w = 1 ∨ w = 2 ∨ w = 4 ∨ w = 8) →
      (∀ d ∈ i.dirt, d.leaf1 = none ∧ d.leaf2 = none) →
      s.newOwner (s.ctx o.ctx).num (i.pa / 65536) i.shared = none →
      let old := s.mem.value i.pa w
      let x := i.x.toNat % 2 ^ (8 * w)
      let mode : Mode := if md = 2 then .rtz else if md = 3 then .rup else if md = 4 then .rdn else .rne
      let a := e.fmt.value old
      let b := e.fmt.value x
      let y : Rounded := if f = .fadd then once e.fmt (Machine.Num.add (md == 4) a b) [a, b] mode false
        else extremeSays (f == .fmax) e.fmt old x
      ∃ (u : State) (j : Item), exec (.storePerformed op k) s = .next u ∧
        Performed (if s.mem.poisoned i.pa w then s else s.noteAfter o.core o.ctx (piecesOf i.pa w (BitVec.ofNat 64 y.1))) u o k j ∧
        (∀ a, a < i.pa ∨ i.pa + w ≤ a → u.mem.byte a = s.mem.byte a) ∧
        (s.mem.poisoned i.pa w = false → j.res = some { val := BitVec.ofNat 64 old } ∧ u.mem.value i.pa w = y.1 % 2 ^ (8 * w) ∧
          j.flags = (if nf then 0 else y.2) ∧ j.comp = max (s.lineExpiry (s.ctx o.ctx).part i.pa) s.ns) ∧
        (s.mem.poisoned i.pa w = true → (∃ r, j.res = some r ∧ r.mark = some (BitVec.ofNat 64 i.va)) ∧ u.mem.value i.pa w = old))

/-- R174: the causes of a global access come in order over all its lanes: ALIGN, then XLATE, then PERM; each names the lowest lane
that fails and its address; that csr.tmask holds the lanes that fail is log entry 17 (DEDUCED).  Where a lane's walk fails on a table
that the context must take over, the table's frame is zeroed and becomes the context's, and the word waits while the frame is not ready for
that (R367; log entry 13, DEDUCED).  LDG, as any such word, then traps with none of its effect: no stream moves on (R217). -/
def Obligations.AccessChecks : Prop :=
  (∀ (s st : State) (xs : List VReg) (d : Nat) (a b : Src) (t : Nat) (i : TrapInfo) (ia : Nat),
    let check := st.checkGlobal .read (bytesOfT t) false
      ((ranks s.exec_).map fun l => (l, ((opnd xs 0).at l + (opnd xs 1).at l).toNat))
    LaneRun s {} s.exec_ [(a, 0), (b, 0)] st xs d → s.hasRoom s.cl.seta →
    (check = .error (.trap i ia) → exec (.ldg d a b t) s = .next (s.raiseTrap s.cur i ia).issued) ∧
    (∀ fs, check = .error (.walk fs i ia) →
      exec (.ldg d a b t) s = .next ((s.ownTables s.g.ctx fs).raiseTrap s.cur i ia).issued)) ∧
  ∀ (s : State) (k : Access) (al : Nat) (l : List (Nat × Nat)), (l.map (·.1)).Nodup → (∀ x ∈ l, x.1 < 32) →
    let tells (cause : Nat) (bad : Nat → Bool) (t : TrapInfo) : Prop := t.cause = cause ∧
      (∀ x, (l.find? fun x => bad x.2) = some x → t.addr = BitVec.ofNat 64 x.2) ∧
      (∀ x ∈ l, inSet t.mask x.1 = bad x.2)
    let stops (cause : Nat) (bad : Nat → Bool) : Prop := ∃ t ia, s.checkGlobal k al false l = .error (.trap t ia) ∧ tells cause bad t
    let fails : List XFail := l.filterMap fun x => if x.2 < 2 ^ 56 then (match s.xlate s.g.core s.g.ctx x.2 with
      | .error f => some f
      | .ok _ => none) else none
    let out (a : Nat) : Bool := 2 ^ 56 ≤ a || (match s.xlate s.g.core s.g.ctx a with
      | .error f => f.xlate
      | .ok _ => false)
    let may (a : Nat) : Bool := a < 2 ^ 56 && (match s.xlate s.g.core s.g.ctx a with
      | .error _ => false
      | .ok e => (e.permit k s.g.level a).isNone)
    (l.any (fun x => x.2 % al != 0) = true → stops 0x08 fun a => a % al != 0) ∧
    (l.any (fun x => x.2 % al != 0) = false → l.any (fun x => out x.2) = true →
      ((∀ f ∈ fails, f.own = none) → stops 0x09 out) ∧
      ((∃ f ∈ fails, f.own ≠ none) → (∀ f ∈ fails, s.ownTable s.g.ctx f ≠ none) →
        ∃ fs t ia, s.checkGlobal k al false l = .error (.walk fs t ia) ∧ tells 0x09 out t ∧
          let u := s.ownTables s.g.ctx fs
          { s with mem := u.mem, owners := u.owners, cores := u.cores, clusters := u.clusters } = u ∧
          ∀ f ∈ fails, ∀ frame shared, f.own = some (frame, shared) → u.newOwner (s.ctx s.g.ctx).num frame shared = none ∧
            (s.newOwner (s.ctx s.g.ctx).num frame shared ≠ none → ∀ x, x / 65536 = frame → u.mem.byte x = 0)) ∧
      ((∃ f ∈ fails, s.ownTable s.g.ctx f = none) → s.checkGlobal k al false l = .error (.hold s .operand))) ∧
    (l.any (fun x => x.2 % al != 0) = false → l.any (fun x => out x.2) = false → l.any (fun x => !may x.2) = true →
      stops 0x0B fun a => !may a) ∧
    (l.any (fun x => x.2 % al != 0) = false → l.all (fun x => may x.2) = true →
      ∃ es, s.checkGlobal k al false l = .ok es ∧ es.length = l.length ∧
        ∀ p ∈ l.zip es, s.xlate s.g.core s.g.ctx p.1.2 = .ok p.2)

/-! ## Matrix words -/

/-- R238, R239, R296, R298, R302, R303, R307, R312: MMA, MZERO, MLD, MST and QTILE run in all 32 lanes, and complete once their format word,
entries, scales and scratchpad ranges pass their checks, the accumulator is declared, the queue has room and, for MMA, the core's level
covers its draw: the operation stands on SETB with all it captured, and no register changes but that QTILE.max takes D's slab and makes D
P, with the values it holds, until it completes (R57 gives slabs at issue; that QTILE.max takes one is log entry 35, DEDUCED).  An MMA in
flight may end its core's excess over its need (R408).  MST.c32 to .c8 take an invalid AE or BE, which R308's conversion does not use, without a
trap, where R239 would raise FMTENTRY: the model's choice (log entry 79).

R94, R239, R296: a collective word that has its place in the queue and its destination, and that some lane does not execute, raises
ILLCONV; lanes that disagree on its format word raise FMTDIV with the lanes that differ from the lowest. -/
def Obligations.CollectiveWordsIssue : Prop :=
  (∀ (s st : State) (xs : List VReg) (shape acc d : Nat) (a b : Src) (x w : Word),
      let e (n : Nat) : FtEntry := (s.ctx s.g.ctx).entry n
      let rnd : Nat := if bits w 55 54 = 3 then 5 else if bits w 55 54 = 0 then s.g.fround + 1 else bits w 55 54
      let fits (m : MatOp) : Prop := s.rangesFit 256 m.ranges
      let goes (i : Instr) (st : State) (m : MatOp) (n : Nat) : Prop :=
        ∃ u o, exec i s = .next u ∧ MatrixIssued st u o m n ∧ u.g.v = s.g.v
      s.inClause → s.accept { m := false, z := false } = .ok () → s.exec_ = 0xFFFFFFFF → s.matrixSpace → shape < 5 →
      (acc < (s.team s.g.team).accIdx.length → goes (.mzero shape acc) s { kind := .mzero, acc := acc, shape := shape } 0) ∧
      (s.sources s.exec_ [(a, 0)] = .ok (st, xs) → acc < (s.team s.g.team).accIdx.length → votes s.exec_ (opnd xs 0) x →
        let m (k : MatKind) : MatOp := { kind := k, acc := acc, shape := shape, offA := bits x 31 0 }
        (fits (m .mld) → goes (.mld shape acc a) st (m .mld) 0) ∧
        (fits (m (.mst 4 false)) → goes (.mstRaw shape acc a) st (m (.mst 4 false)) 0)) ∧
      (s.sources s.exec_ [(a, 0), (b, 0)] = .ok (st, xs) → votes s.exec_ (opnd xs 0) x → votes s.exec_ (opnd xs 1) w → s.genOk w →
        (acc < (s.team s.g.team).accIdx.length →
          (∀ accum,
            let ae := e (bits w 7 0)
            let be := e (bits w 15 8)
            let m : MatOp :=
              { kind := .mma (accum == 1), acc := acc, shape := shape, offA := bits x 31 0, offB := bits x 63 32, ae := ae, be := be,
                ce := e (bits w 23 16), asm := bits w 33 32, bsm := bits w 35 34, blk := bits w 37 36,
                ascale := s.scaleOf (bits w 33 32) (bits w 45 38), bscale := s.scaleOf (bits w 35 34) (bits w 53 46),
                draw := (ae.fmt.planeCount * be.fmt.planeCount + 3) / 4 }
            ae.operandOk = true → be.operandOk = true → m.ce.accOk = true →
            s.scaleOk ae m.asm (blockSize m.blk) (shapeDims shape).2 = true → s.scaleOk be m.bsm (blockSize m.blk) (shapeDims shape).2 = true →
            s.scaleReady m.asm (bits w 45 38) → s.scaleReady m.bsm (bits w 53 46) → fits m → m.draw ≤ (s.core s.g.core).level →
            ∃ u o, exec (.mma shape acc a b accum) s = .next u ∧ MatrixIssued { st with cores := u.cores } u o m 0 ∧ SameButNotes st u ∧
              u.g.v = s.g.v) ∧
          (∀ t c, (t, c) ∈ [(1, 4), (2, 2), (3, 1)] →
            let m : MatOp := { kind := .mst c true, acc := acc, shape := shape, offA := bits x 31 0, ce := e (bits w 23 16),
                               oute := e (bits w 31 24), mode := rnd, sat := w.getLsbD 56 }
            m.ce.accOk = true → m.oute.usable = true → m.oute.fmt.width ≤ 8 * c → (bits w 55 54 = 3 → s.feature 2 = true) → fits m →
            s.scaleMode (e (bits w 7 0)) (bits w 33 32) = true → s.scaleMode (e (bits w 15 8)) (bits w 35 34) = true →
            goes (.mstConvert shape acc a b t) st m (if m.mode = 5 then (regionCells shape + 31) / 32 else 0))) ∧
        (∀ k i, (k, i) ∈ [(MatKind.qmax d, Instr.qtileMax d a b), (.qcvt, .qtileCvt a b)] →
          let m : MatOp :=
            { kind := k, offA := bits x 31 0, offB := bits x 63 32, ae := e (bits w 7 0), be := e (bits w 15 8), asm := bits w 33 32,
              blk := bits w 37 36, ascale := s.scaleOf (bits w 33 32) (bits w 45 38), mode := rnd, sat := w.getLsbD 56 }
          let scale := fmtF32.value (m.ascale.toNat % 2 ^ 32)
          m.be.usable = true → m.be.fmt.kind ≠ 3 → m.be.fmt.width ≤ 32 → m.ae.operandOk = true →
          s.scaleOk m.ae m.asm (blockSize m.blk) 64 = true → (bits w 55 54 = 3 → s.feature 2 = true) → s.scaleReady m.asm (bits w 45 38) →
          (m.asm = 2 → scale.isNan = false ∧ scale.isInf = false ∧ Machine.Num.lt (.zero false) scale = true) →
          m.offA % 8 = 0 → m.offB % 256 = 0 → s.rangesFit 1 m.ranges → s.canPut d → st.canPut d →
          ∃ u o, exec i s = .next u ∧ MatrixIssued st u o m (if k = .qcvt ∧ m.mode = 5 then 128 else 0) ∧
            (k = .qcvt → u.g.v = s.g.v) ∧ (k = .qmax d → d < 96 → (u.g.vreg d).isP = true) ∧
            (∀ n, n ≠ d → u.g.vreg n = s.g.vreg n) ∧ ∀ n l, l < 32 → (u.g.vreg n).lane l = (s.g.vreg n).lane l))) ∧
  (∀ (s st : State) (xs : List VReg) (shape acc d : Nat) (a b : Src) (accum t : Nat),
      s.inClause → s.accept { m := false, z := false } = .ok () → acc < (s.team s.g.team).accIdx.length →
      s.bypassMissing a = false → s.bypassMissing b = false → s.matrixSpace → s.canPut d →
      (s.exec_ ≠ 0xFFFFFFFF → ∀ i ∈ [Instr.mma shape acc a b accum, .mzero shape acc, .mld shape acc a, .mstRaw shape acc a,
          .mstConvert shape acc a b t, .qtileMax d a b, .qtileCvt a b], ∃ x, exec i s = trapped s x ∧ x.cause = 0x02 ∧ x.mask = s.act) ∧
      (s.exec_ = 0xFFFFFFFF → s.sources s.exec_ [(a, 0), (b, 0)] = .ok (st, xs) →
        (∃ l, l < 32 ∧ (opnd xs 1).at l ≠ (opnd xs 1).at 0) →
        ∀ i ∈ [Instr.mma shape acc a b accum, .mstConvert shape acc a b t, .qtileMax d a b, .qtileCvt a b],
          ∃ x, exec i s = trapped s x ∧ x.cause = 0x03 ∧ ∀ l, l < 32 → inSet x.mask l = ((opnd xs 1).at l != (opnd xs 1).at 0)))

/-- R309 to R311: MRD, PLST and PLLD complete once their descriptors pass their checks: MRD's operation stands on SETB for D; PLST's
store holds each executing lane's codes in the layout, and PLLD's load reads them, a lane's elements from the element START + e·l up.  MRD.c32 to
.c8 take an invalid AE or BE, which R308's conversion does not use, without a trap: the model's choice (log entry 79).

R317: MFENCE completes at once when no matrix operation of the gang (with .t, of the team) is in flight, and otherwise waits. -/
def Obligations.AccumulatorAndPlaneWords : Prop :=
  (∀ (s st : State) (xs : List VReg) (d data : Nat) (a b : Src) (t : Nat) (x w : Word),
      let ent (n : Nat) : FtEntry := (s.ctx s.g.ctx).entry n
      let e := 64 / viewWidth t
      let mrd (conv : Bool) (c : Nat) : MatOp :=
        { kind := .mrd d s.exec_ (bits x 18 7) c conv, acc := bits x 2 0, shape := bits x 6 3 }
      let legal (c : Nat) : Prop := bits x 63 19 = 0 ∧ bits x 6 3 < 5 ∧ bits x 2 0 < (s.team s.g.team).accIdx.length ∧
        bits x 18 7 % (32 * (8 / c)) = 0 ∧ bits x 18 7 + 32 * (8 / c) ≤ regionCells (bits x 6 3)
      s.inClause → s.exec_ ≠ 0 → votes s.exec_ (opnd xs 0) x →
      (s.accept { rm := true } = .ok () → s.sources s.exec_ [(a, 0)] = .ok (st, xs) → s.canPut d → st.canPut d → s.matrixSpace → legal 4 →
        ∃ u o, exec (.mrdRaw d a) s = .next u ∧ MatrixIssued st u o (mrd false 4) 0 ∧ FilledLater s u d) ∧
      (∀ c, (t, c) ∈ [(1, 4), (2, 2), (3, 1)] → s.accept { rm := true } = .ok () →
        s.sources s.exec_ [(a, 0), (b, 0)] = .ok (st, xs) → votes s.exec_ (opnd xs 1) w → s.canPut d → st.canPut d → s.matrixSpace → legal c → s.genOk w →
        let code := if s.pfx.rm = 0 then bits w 55 54 else s.pfx.rm
        let m : MatOp := { mrd true c with ce := ent (bits w 23 16), oute := ent (bits w 31 24), sat := w.getLsbD 56,
                                           mode := if code = 3 then 5 else if code = 0 then s.g.fround + 1 else code }
        m.ce.accOk = true → m.oute.usable = true → m.oute.fmt.width ≤ 8 * c → (bits w 55 54 = 3 → s.feature 2 = true) →
        s.scaleMode (ent (bits w 7 0)) (bits w 33 32) = true → s.scaleMode (ent (bits w 15 8)) (bits w 35 34) = true →
        ∃ u o, exec (.mrdConvert d a b t) s = .next u ∧ MatrixIssued st u o m (if m.mode = 5 then 8 / c else 0) ∧ FilledLater s u d) ∧
      (t = 2 ∨ t = 3 → s.hasRoom s.cl.setb →
        let p : PlaneRef := { ent := ent (bits x 63 56), k := 32 * 2 ^ bits x 55 54, rho := if bits x 53 53 = 0 then 32 else 64,
                              base := bits x 31 0, start := bits x 47 32, e := e }
        bits x 52 48 = 0 → p.start % (32 * e) = 0 → p.start + 32 * e ≤ p.rho * p.k → p.ent.operandOk = true → p.ent.fmt.width ≤ viewWidth t →
        s.rangesFit 256 [(p.base, p.lay.size)] →
        (s.accept { z := false } = .ok () → s.sources s.exec_ [(a, 0), (⟨data, 0⟩, t)] = .ok (st, xs) →
          ∃ u o i, exec (.plst data a t) s = .next u ∧ Issued st u o ∧ o.flag = s.cl.setb ∧ o.kind = .store true ∧ o.items = [i] ∧
            u.g.v = s.g.v ∧ i.done = false ∧ i.pieces = (ranks s.exec_).flatMap fun l => (List.range e).flatMap fun j =>
              p.lay.put (p.start + l * e + j) ((el (viewWidth t) ((opnd xs 1).at l) j).toNat % 2 ^ p.ent.fmt.width)) ∧
        (s.accept {} = .ok () → s.sources s.exec_ [(a, 0)] = .ok (st, xs) → s.canPut d → st.canPut d →
          ∃ u o, exec (.plld d a t) s = .next u ∧ Issued st u o ∧ o.flag = s.cl.setb ∧ o.kind = .load (destOf s d) 0 true ∧
            FilledLater s u d ∧
            o.items.map (fun i => (i.lane, i.plane)) = (ranks s.exec_).map fun l => (l, some { p with start := p.start + l * e })))) ∧
  (∀ (s : State) (scope : Nat), s.inClause →
      let mine (o : Op) : Prop := (o.gang = s.cur ∨ scope = 1 ∧ o.team = s.g.team) ∧ ∃ m, o.kind = .matrix m
      ((∀ o ∈ s.ops, ¬mine o) → ∃ u, exec (.mfence scope) s = .next u ∧ Ends s u ∧ Moved s u) ∧
      (s.g.wait = .none → (∃ o ∈ s.ops, o.id < s.nextOp ∧ mine o) → waits s (.mfence s.nextOp) (exec (.mfence scope) s)))

/-- R304, R305, R307 to R309, R313 to R315, R319: a matrix operation that nothing holds back takes effect and leaves its flag: the
accumulator's region takes MMA's product, MLD's words of scratchpad or 0; scratchpad takes MST's cells, QTILE's maxima or codes; D takes
MRD's cells or QTILE's maximum.  Others of the
team may take effect with it, as free bits say, and leave with it: those that every operation ordered before them (R315) has left or
leaves with them; no accumulator but those they name changes (log entry 12, DEDUCED: R316 says what each cell and word may hold). -/
def Obligations.MatrixCompletes : Prop :=
  ∀ (s : State) (op : Nat) (o : Op) (m : MatOp), s.op? op = some o → o.kind = .matrix m →
    (s.matrixReady o m = false → exec (.matrixOpComplete op) s = .next s) ∧
    (∀ p ∈ s.meets o, p.1 ∈ s.ops ∧ p.1.kind = .matrix p.2 ∧ p.1.team = o.team ∧ p.1.id ≠ o.id ∧
      ∀ q ∈ s.ops, q.id < p.1.id →
        (∀ n, q.kind = .matrix n → q.team = o.team → n.kind.namesAcc = true → p.2.kind.namesAcc = true → n.acc = p.2.acc →
          n.shape = p.2.shape → q.id = o.id ∨ ∃ r ∈ s.meets o, r.1.id = q.id) ∧
        ((∀ n, q.kind ≠ .matrix n) → q.gang = p.1.gang → q.kind.onSpad = true → ∀ i ∈ q.items, i.done = true)) ∧
    (s.matrixReady o m = true →
      ∃ u, exec (.matrixOpComplete op) s = .next u ∧ u.mem = s.mem ∧
        u.ops = s.ops.filter (fun x => !(x.id == o.id) && (s.meets o).all fun p => !(x.id == p.1.id)) ∧
        ∀ k, k < 8 → k ≠ m.acc → (∀ p ∈ s.meets o, k ≠ p.2.acc) → (u.team o.team).accOf k = (s.team o.team).accOf k) ∧
    (s.matrixReady o m = true → s.meets o = [] → s.hasGang o.gang → m.acc < 8 → (s.team o.team).spad.wf = true →
      let t := s.team o.team
      let a := t.accOf m.acc
      let side := regionSide m.shape
      ∃ u, exec (.matrixOpComplete op) s = .next u ∧ Retired s u o ∧ u.mem = s.mem ∧
        let t1 := u.team o.team
        let g1 := u.gang o.gang
        (m.kind.namesAcc = true → ∀ k, k < 8 → k ≠ m.acc → t1.accOf k = t.accOf k) ∧
        (m.kind = .mzero → AccIs a (t1.accOf m.acc) m.shape (fun _ _ => 0) ∧ t1.spad = t.spad) ∧
        (m.kind = .mld → AccIs a (t1.accOf m.acc) m.shape (fun i j => t.spad.value (m.offA + 4 * (i * side + j)) 4) ∧ t1.spad = t.spad) ∧
        (∀ accum, m.kind = .mma accum →
          let n := (shapeDims m.shape).1
          let cell (i j : Nat) : Nat :=
            let start : Machine.Num := if accum then m.ce.fmt.value (a.cell (i * 64 + j) % 2 ^ m.ce.fmt.width) else .zero false
            (chunks m.ce.fmt ((shapeDims m.shape).2 / 16) ((m.layA.rows t.spad m.ascale).getD i []) ((m.layB.rows t.spad m.bscale).getD j [])
              (start, 0, 0)).2.2
          m.shape < 5 → AccIs a (t1.accOf m.acc) m.shape cell ∧ t1.spad = t.spad ∧ n = side) ∧
        (∀ c conv, m.kind = .mst c conv →
          SpadIs t.spad t1.spad m.offA ((List.range (regionCells m.shape)).flatMap fun x =>
            let v := a.cell (x / side * 64 + x % side)
            let r := if conv then (convert (v % 2 ^ m.ce.fmt.width) m.ce.fmt m.oute.fmt (m.cellMode x) m.sat).1 else v
            (List.range c).map fun k => BitVec.ofNat 8 (r / 2 ^ (8 * k))) ∧ t1.acc = t.acc) ∧
        (∀ d e first c conv, m.kind = .mrd d e first c conv → d < 96 → a.mark = false → c = 4 ∨ c = 2 ∨ c = 1 →
          (∀ l, l < 32 → inSet e l = true → ((g1.vreg d).lane l).mark = none ∧ ∀ j, j < 8 / c → el (8 * c) ((g1.vreg d).at l) j =
            BitVec.ofNat _ (
              let x := first + l * (8 / c) + j
              let v := a.cell (x / side * 64 + x % side)
              if conv then (convert (v % 2 ^ m.ce.fmt.width) m.ce.fmt m.oute.fmt (m.laneMode j l) m.sat).1 else v)) ∧
          (∀ l, l < 32 → inSet e l = false → (g1.vreg d).lane l = ((s.gang o.gang).vreg d).lane l)) ∧
        (∀ d, m.kind = .qmax d → t.spad.poisoned m.offA (4096 * m.sourceBytes) = false →
          (d < 96 → g1.vreg d = .u (m.maxima t.spad).2.1) ∧
          SpadIs t.spad t1.spad m.offB ((m.maxima t.spad).1.flatMap fun r => (List.range 4).map fun k => BitVec.ofNat 8 (r / 2 ^ (8 * k)))) ∧
        (m.kind = .qcvt → SpadIs t.spad t1.spad m.offB (m.quantised t.spad).1))

/-! ## Control flow and synchronisation -/

/-- R30, R97, R100, R103, R104, R106: a branch ends the clause, each active lane going to its target or to the next clause; a call links
the next clause's address; an indirect form goes to each lane's pointer, without its class.  RET, JMPI and CALLI raise ALIGN for a pointer
that is not a multiple of 8, and CALLI before that CALLSIG for one of another class, each with the lowest such lane's pointer; the mask of
the lanes that fail is log entry 64 (DESIGN CHOICE). -/
def Obligations.Branches : Prop :=
  ∀ (s : State) (n off k link ptr cls : Nat), s.inClause →
    let goes (i : Instr) (pc : Nat → Word) : Prop := ∃ u, exec i s = .next u ∧ Ends s u ∧ WentTo s u pc
    let calls (i : Instr) (pc : Nat → Word) : Prop :=
      ∃ u, exec i s = .next u ∧ Ends (s.setG { s.g with v := u.g.v }) u ∧ Linked s u link ∧ WentTo s u pc
    let p (l : Nat) : Word := (s.g.vreg ptr).at l
    let aligned : Prop := ∀ l, l < 32 → inSet s.act l = true → (p l).toNat % 8 = 0
    let inClass : Prop := ∀ l, l < 32 → inSet s.act l = true → (p l).toNat / 2 ^ 56 = cls
    s.g.latch = none →
    goes (.bra off) (fun _ => s.targetOf 24 off) ∧
    (s.canGet n → goes (.brz n off) (fun _ => if (s.g.sreg n).val = 0 then s.targetOf 16 off else s.nextClause) ∧
      goes (.brnz n off) (fun _ => if (s.g.sreg n).val = 0 then s.nextClause else s.targetOf 16 off)) ∧
    goes (.brm k off) (fun l => if inSet (s.mask k) l then s.targetOf 21 off else s.nextClause) ∧
    (link < 96 → s.canPut link → calls (.call link off) fun _ => s.targetOf 16 off) ∧
    (s.pointersIn ptr → aligned →
      goes (.ret ptr) (fun l => p l &&& 0x00FFFFFFFFFFFFFF) ∧ goes (.jmpi ptr) (fun l => p l &&& 0x00FFFFFFFFFFFFFF) ∧
      (link < 96 → s.canPut link → inClass → calls (.calli link ptr cls) fun l => p l &&& 0x00FFFFFFFFFFFFFF)) ∧
    (s.pointersIn ptr → ∀ l, l < 32 → inSet s.act l = true → (∀ j, j < l → inSet s.act j = true → (p j).toNat % 8 = 0) →
      (p l).toNat % 8 ≠ 0 → ∀ i ∈ [Instr.ret ptr, .jmpi ptr], ∃ x, exec i s = trapped s x ∧ x.cause = 0x08 ∧ x.addr = p l ∧
        ∀ j, j < 32 → inSet x.mask j = (inSet s.act j && (p j).toNat % 8 != 0)) ∧
    (s.pointersIn ptr → (link < 96 → s.canPut link) → inClass → ∀ l, l < 32 → inSet s.act l = true →
      (∀ j, j < l → inSet s.act j = true → (p j).toNat % 8 = 0) → (p l).toNat % 8 ≠ 0 →
      ∃ x, exec (.calli link ptr cls) s = trapped s x ∧ x.cause = 0x08 ∧ x.addr = p l ∧
        ∀ j, j < 32 → inSet x.mask j = (inSet s.act j && (p j).toNat % 8 != 0)) ∧
    (s.pointersIn ptr → (link < 96 → s.canPut link) → ∀ l, l < 32 → inSet s.act l = true →
      (∀ j, j < l → inSet s.act j = true → (p j).toNat / 2 ^ 56 = cls) →
      (p l).toNat / 2 ^ 56 ≠ cls → ∃ x, exec (.calli link ptr cls) s = trapped s x ∧ x.cause = 0x13 ∧ x.addr = p l ∧
        ∀ j, j < 32 → inSet x.mask j = (inSet s.act j && (p j).toNat / 2 ^ 56 != cls))

/-- R107, R108: EXIT takes the masked active lanes out of the live set, their PCs all ones, and the rest go on; YIELD marks the active
lanes.

R77, R175, R352: WAITF goes on when no named flag counts an operation; a report that one carries is raised instead, and leaves it:
the first POISON of the lowest flag that has one, and with none the first ENGINE (R355).

R353, R354, R357: LAUNCH by the team's gang 0, once released at .p, reads its record; a refused one gives s[D] its code with bit 63,
and an accepted one makes a child grid, numbered from 1, whose number s[D] takes.  WAITCH goes on with a .p acquire when its child has
retired, and WAITCH.all when all launched have. -/
def Obligations.ExitWaitAndLaunchWords : Prop :=
  (∀ (s : State) (k : Nat), s.fresh → s.Sound → s.act &&& ~~~s.g.live = 0 →
      let x := s.act &&& s.mask k
      let live := s.g.live &&& ~~~x
      (∃ u, exec (.exit k) s = .next u ∧ u.g.live = live ∧
        (∀ l : Fin 32, inSet live l = false → u.g.pcv[l] = 0xFFFFFFFFFFFFFFFF) ∧
        (live = 0 ∨ s.act &&& ~~~x = 0 → u.g.cl = none ∧ ∀ l : Fin 32, inSet live l = true → u.g.pcv[l] = s.g.pcv[l]) ∧
        (s.act &&& ~~~x ≠ 0 → s.cl.next ≤ s.cl.len →
          u.g.cl = some { s.cl with active := s.act &&& ~~~x, first := s.cl.next, words := [], prev := s.cl.words } ∧
          ∀ l : Fin 32, inSet live l = true → u.g.pcv[l] = s.g.pcv[l]) ∧
        u.g.v = s.g.v ∧ u.g.s = s.g.s ∧ u.g.m = s.g.m ∧ u.g.cf = s.g.cf ∧ u.g.st = s.g.st ∧ u.g.xf = s.g.xf ∧ u.g.frame = s.g.frame ∧
        u.mem = s.mem ∧ u.ops = s.ops) ∧
      does s .yield (s.setG { s.g with yielding := s.g.yielding ||| s.act })) ∧
  (∀ (s : State) (set : Nat), s.inClause → s.g.latch = none →
      let named (n : Nat) : Prop := n < 12 ∧ set.testBit n = true
      ((∀ n, named n → (s.g.flag n).count = 0 ∧ (s.g.flag n).reports = []) → does s (.waitf set) s) ∧
      ((∃ n, named n ∧ 0 < (s.g.flag n).count) → waits s (.waitf set) (exec (.waitf set) s)) ∧
      (∀ n r pre rest, named n → (∀ k, named k → (s.g.flag k).count = 0) → (s.g.flag n).reports = pre ++ r :: rest →
        (r.engine = false ∧ (∀ x ∈ pre, x.engine = true) ∧ (∀ k, k < n → named k → ∀ x ∈ (s.g.flag k).reports, x.engine = true)) ∨
          (r.engine = true ∧ pre = [] ∧ (∀ k, named k → ∀ x ∈ (s.g.flag k).reports, x.engine = true) ∧
            ∀ k, k < n → named k → (s.g.flag k).reports = []) →
        ∃ x g, exec (.waitf set) s = .next ((s.setG g).raiseTrap s.cur x 0).issued ∧ (g.flag n).reports = pre ++ rest ∧
          x.cause = (if r.engine then 0x0F else 0x0E) ∧ x.addr = r.addr)) ∧
  (∀ (s t : State) (d a : Nat) (w : Nat → Word), s.inClause → s.g.latch = none →
      let tm := s.team s.g.team
      let gr := s.grid s.g.grid
      (s.ctx s.g.ctx).featmask.getLsbD 7 = true →
      (s.g.gindex ≠ 0 → traps s (.launch d a) 0x02 0) ∧
      (s.g.gindex = 0 → gr.depth = 9 → traps s (.launch d a) 0x0D 9) ∧
      (s.g.gindex = 0 → gr.depth ≠ 9 → s.canGet a → s.canPutS d → s.hasRoom s.cl.setb → s.idle → s.leasePast →
        BlockRead s.released t (s.g.sreg a).val.toNat 8 w →
        let rec_ := recordOf w
        let code := (t.ctx t.g.ctx).refusal rec_ (s.g.level == 0) (decide (64 ≤ tm.openChildren)) false
        (code ≠ 0 → does s (.launch d a) (t.setG (t.g.setS d { val := BitVec.ofNat 64 (2 ^ 63 + code) }))) ∧
        (code = 0 → ∃ (u : State) (key : Nat) (t' : Team) (g' : Grid), exec (.launch d a) s = .next u ∧ Moved s u ∧
          t' = { tm with launches := tm.launches + 1, children := t'.children } ∧ tget? t'.children (tm.launches + 1) = some key ∧
          g'.record = rec_ ∧ g'.ctx = s.g.ctx ∧ g'.part = s.g.part ∧ g'.depth = gr.depth + 1 ∧ g'.level = (if rec_.sup then s.g.level else 0) ∧
          g'.parent = some s.g.team ∧ g'.child = tm.launches + 1 ∧ g'.nextTeam = 0 ∧
          Ends (((({ t with nextKey := u.nextKey, nextOrder := u.nextOrder }).setGrid key g').setTeam s.g.team t').setG
            (t.g.setS d { val := BitVec.ofNat 64 (tm.launches + 1) })) u)) ∧
      (∀ n, (s.g.wait = .none ∧ s.canGet a ∧ (s.g.sreg a).val.toNat = n) ∨ s.g.wait = .waitch n →
        (tm.doneChildren.contains n = true → does s (.waitch a) s.acquireP) ∧
        (tm.doneChildren.contains n = false → 0 < n → n ≤ tm.launches → waits s (.waitch n) (exec (.waitch a) s)) ∧
        (tm.doneChildren.contains n = false → n = 0 → traps s (.waitch a) 0x0C 0)) ∧
      (∀ n, (s.g.wait = .none ∧ n = tm.launches) ∨ s.g.wait = .waitchAll n →
        ((∀ i, 0 < i → i ≤ n → tm.doneChildren.contains i = true) → does s .waitchAll s.acquireP) ∧
        ((∃ i, 0 < i ∧ i ≤ n ∧ tm.doneChildren.contains i = false) → waits s (.waitchAll n) (exec .waitchAll s))))

/-- R346 to R348: BAR, BARA and BARW.  An arrival counts; the one that makes the count completes the phase and frees the barrier; an
arrival of another count than the phase's is ILLCONV; BAR goes on when its phase has completed, and BARW when the phase exceeds its
operand, each with a .t acquire.

R342, R349: GBAR releases at .p, arrives, and acquires at .p when its phase has completed; the arrival of the grid's last team
completes the phase, and the partition's release rotation moves on.

R350: SYNCM checks every lane's mask, then each lane joins its mask's group, and a group whose lanes have all arrived goes; others
stand.  A lane outside its own mask, or in conflict with another group, is ILLCONV. -/
def Obligations.Barriers : Prop :=
  (∀ (s : State) (d k c n a : Nat), s.inClause → s.g.latch = none →
      let tk := s.g.team
      let t := s.team tk
      let b := t.bar k
      let after : Barrier := if b.arrivals + 1 = n then { phase := b.phase + 1 } else { b with arrivals := b.arrivals + 1, target := some n }
      (s.g.wait = .none → k < t.barIdx.length → s.countIs c n → s.loadsPending = false → s.teamPending = false →
        (b.target = none ∨ b.target = some n →
          (b.arrivals + 1 = n → ∃ t', t'.bar k = after ∧ OnlyBarrier t t' k ∧ does s (.bar k c) (s.setTeam tk t').acquireT) ∧
          (b.arrivals + 1 ≠ n → ∃ t', t'.bar k = after ∧ OnlyBarrier t t' k ∧
            waits (s.setTeam tk t') (.bar k b.phase) (exec (.bar k c) s)) ∧
          (s.canPutS d → ∃ t', t'.bar k = after ∧ OnlyBarrier t t' k ∧
            does s (.bara d k c) ((s.setTeam tk t').setG (s.g.setS d { val := BitVec.ofNat 64 b.phase })))) ∧
        (∀ m, b.target = some m → m ≠ n → traps s (.bar k c) 0x02 (BitVec.ofNat 64 n) ∧
          (s.canPutS d → traps s (.bara d k c) 0x02 (BitVec.ofNat 64 n)))) ∧
      (∀ p, s.g.wait = .bar k p → (p < b.phase → does s (.bar k c) s.acquireT) ∧ (b.phase ≤ p → waits s (.bar k p) (exec (.bar k c) s))) ∧
      (s.g.wait = .none → k < t.barIdx.length → s.canGet a → s.loadsPending = false →
        ((s.g.sreg a).val.toNat < b.phase → does s (.barw k a) s.acquireT) ∧
        (b.phase ≤ (s.g.sreg a).val.toNat → waits s (.barw k (s.g.sreg a).val.toNat) (exec (.barw k a) s))) ∧
      (∀ p, s.g.wait = .barw k p → (p < b.phase → does s (.barw k a) s.acquireT) ∧ (b.phase ≤ p → waits s (.barw k p) (exec (.barw k a) s)))) ∧
  (∀ (s : State), s.inClause → s.g.latch = none →
      let gr := s.grid s.g.grid
      let t := s.team s.g.team
      (∀ p, s.g.wait = .gbar p →
        (p < gr.phase → does s .gbar s.acquireP) ∧ (gr.phase ≤ p → waits s (.gbar p) (exec .gbar s))) ∧
      (s.g.wait = .none → s.Sound → s.idle → s.leasePast → t.grid = s.g.grid →
        (∀ e ∈ s.gangs, e.1 ≠ s.cur → e.2.team = s.g.team → e.2.life = .retired ∨ e.2.live = 0 ∨ e.2.gridPhase = gr.phase + 1) →
        gr.record.teams ≤ (insertNat gr.arrived t.num).length →
        let rho := (s.part gr.part).rho
        ∃ u, exec .gbar s = .next u ∧ (u.grid s.g.grid).phase = gr.phase + 1 ∧ (u.grid s.g.grid).arrived = [] ∧
          (u.part gr.part).rho = (if 95 ≤ rho then 0 else rho + 1) ∧ u.g.va = s.ns ∧ u.g.pend = none ∧
          Ends ((({ s with grids := u.grids, parts := u.parts, teams := u.teams, rails := u.rails }).setG
            { s.g with pend := none, seenPend := none, gridPhase := gr.phase + 1 }).acquireP) u)) ∧
  (∀ (s st : State) (xs : List VReg) (a : Src), LaneRun s { z := false } s.exec_ [(a, 0)] st xs 112 → s.loadsPending = false →
      s.g.groups.Pairwise (fun p q => p.mask ≠ q.mask) →
      let m (l : Nat) : Lanes := ((opnd xs 0).at l).truncate 32
      let here (l : Nat) : Prop := l < 32 ∧ inSet s.exec_ l = true
      let clash (l : Nat) : Prop :=
        (∃ q ∈ s.g.groups, q.mask ≠ m l ∧ (inSet q.mask l = true ∨ q.arrived &&& m l ≠ 0)) ∨
        ∃ j, here j ∧ m j ≠ m l ∧ (inSet (m j) l = true ∨ inSet (m l) j = true)
      ((∀ l, here l → inSet (m l) l = true ∧ ¬clash l ∧ m l &&& ~~~s.g.live = 0) →
        ∃ u, exec (.syncm a) s = .next u ∧ Ends (st.setG { st.g with groups := u.g.groups }) u ∧
          (∀ q ∈ u.g.groups, q.arrived ≠ q.mask) ∧
          (∀ q, (∀ l, here l → m l ≠ q.mask) → (q ∈ u.g.groups ↔ q ∈ s.g.groups ∧ q.arrived ≠ q.mask)) ∧
          (∀ l, here l → ∀ now : Lanes,
            (∀ j, j < 32 → (inSet now j = true ↔ (here j ∧ m j = m l) ∨ ∃ q ∈ s.g.groups, q.mask = m l ∧ inSet q.arrived j = true)) →
            (now = m l → ∀ q ∈ u.g.groups, q.mask ≠ m l) ∧ (now ≠ m l → ∃ q ∈ u.g.groups, q.mask = m l ∧ q.arrived = now))) ∧
      ((∃ l, here l ∧ inSet (m l) l = false) ∨ (∃ l, here l ∧ clash l) → ∃ x, exec (.syncm a) s = trapped s x ∧ x.cause = 0x02))

/-! ## Engine, table and fence words -/

/-- R197 to R199: COPY, once its range, its handle and its hand-off allow, stands on SETB and contributes its slice to the handle's round,
which it opens when the handle is free (full, for a copy out), its pointer at 0 and its error bit clear; when every expected gang has contributed or retired the round is closed.  A
handle that cannot take it holds the word.

R199, R200: the ladle moves a closed round's bytes on, to the count it has reached; when all are moved and, for a copy out, past their
completion times, the round ends: the handle is full, or free, and the round's operations are gone.  At a fault the round ends with the
handle's error and its address.  A round that is not closed stands.  It moves 8-byte words in ascending scratchpad offset: inbound the
scratchpad word takes the bytes of the highest-numbered gang's slice there, outbound the slice's bytes take the scratchpad word, and a gap
takes none.  That a part of the round may move at a time, and that every slice of an overlap is read, is log entry 41 (DEDUCED).

R200 to R203: HWAIT goes on, with a .p acquire, when the handle is in the state it wants, or raises ENGINE with the handle's error
address; HREL frees a full handle; HSTATE gives the state, the slices and the error, and WPR the write pointer. -/
def Obligations.CopyAndHandles : Prop :=
  (∀ (s : State) (k a b : Nat), s.fresh → s.canGet a → s.canGet b → s.idle → s.hasRoom s.cl.setb →
      let tk := s.g.team
      let h := (s.team tk).handle k
      let w := (s.g.sreg b).val
      let glob := (s.g.sreg a).val.toNat
      let len := bits w 55 32
      let off := bits w 31 0
      let out_ := w.getLsbD 63
      let x : Slice := { gang := s.cur, gindex := s.g.gindex, level := s.g.level, glob := glob, len := len, spoff := off, op := s.nextOp }
      k < (s.team tk).hIdx.length → s.hasLadle s.g.part = true → bits w 62 56 = 0 → len ≤ 393216 → glob % 8 = 0 → off % 8 = 0 →
      len % 8 = 0 → off + len ≤ (s.team tk).spadLen →
      let opens : Prop := if out_ then h.state = .full else h.state = .free
      let joins : Prop := (if out_ then h.state = .draining else h.state = .filling) ∧ h.closed = false ∧
        ∀ y ∈ h.slices, y.gang ≠ s.cur
      (opens ∨ joins →
        ∃ (u : State) (o : Op) (h' : Handle), exec (.copy k a b) s = .next u ∧ Issued { s with teams := u.teams } u o ∧
          o.flag = s.cl.setb ∧ o.kind = .copy k ∧ o.items = [] ∧ u.g.v = s.g.v ∧ (u.team tk).handle k = h' ∧
          (opens → h'.state = (if out_ then .draining else .filling) ∧ h'.isOpen = true ∧ h'.slices = [x] ∧
            h'.ptr = 0 ∧ h'.moved = 0 ∧ h'.err = false ∧ (h'.closed = true → len ≠ 0 → h'.lo = off ∧ h'.hi = off + len) ∧
            ∀ e ∈ s.gangs, e.2.team = tk → e.2.life ≠ .retired → e.1 ∈ h'.expected) ∧
          (joins → h'.state = h.state ∧ h'.slices = h.slices ++ [x] ∧ h'.expected = h.expected) ∧
          (h'.isOpen = true → (∀ n ∈ h'.expected, (∃ y ∈ h'.slices, y.gang = n) ∨ (u.gang n).life = .retired) → h'.closed = true)) ∧
      (¬opens → ¬joins → waits s (.copy k) (exec (.copy k a b) s))) ∧
  (∀ (s : State) (tk k upto : Nat), (s.team tk).life ≠ .retired →
      let h := (s.team tk).handle k
      let go := exec (.copyRoundEnd tk k upto) s
      let total := h.hi - h.lo
      let r := Mover.copyWords tk h ((min total upto - h.moved) / 8) h.moved { st := s }
      let out_ : Bool := h.state == .draining
      let comp := max h.comp r.1.comp
      let ended : HandleState := if out_ then .free else .full
      (h.isOpen = false ∨ h.closed = false → go = .next s) ∧
      (h.isOpen = true → h.closed = true →
        ∃ u, go = .next u ∧ u.mem = r.1.st.mem ∧
          let h' := (u.team tk).handle k
          (∀ c x, r.1.stop = some (.fail c x) → h'.state = ended ∧ h'.isOpen = false ∧ h'.err = true ∧ h'.errAddr = BitVec.ofNat 64 x ∧
            ∀ o ∈ u.ops, ∀ y ∈ h.slices, o.id ≠ y.op) ∧
          (r.1.stop = none → r.2 = total → out_ = false ∨ comp ≤ s.ns →
            h'.state = ended ∧ h'.isOpen = false ∧ h'.slices = [] ∧ h'.ptr = total ∧ h'.err = h.err ∧ ∀ o ∈ u.ops, ∀ y ∈ h.slices, o.id ≠ y.op) ∧
          (r.1.stop = none → r.2 < total → h'.state = h.state ∧ h'.isOpen = true ∧ h'.closed = true ∧ h'.slices = h.slices ∧ h'.moved = r.2 ∧
            (out_ = false → h'.ptr = r.2))) ∧
      (h.isOpen = true → h.closed = true → upto = h.moved + 8 → upto ≤ total → (s.team tk).spad.wf = true → s.mem.wf = true →
        let t := s.team tk
        let o := h.lo + h.moved
        let covers (y : Slice) : Bool := decide (y.spoff ≤ o) && decide (o < y.spoff + y.len)
        let ga (y : Slice) : Nat := y.glob + (o - y.spoff)
        ((∀ y ∈ h.slices, covers y = false) → ∃ u, go = .next u ∧ u.mem = s.mem ∧ (u.team tk).spad = t.spad) ∧
        ∀ (x : Slice) (tr : Slice → TlbEntry), x ∈ h.slices → covers x = true →
          let pa (y : Slice) : Nat := (tr y).phys (ga y)
          let own (y : Slice) : Prop := s.newOwner (s.ctx t.ctx).num (pa y / 65536) (tr y).shared = none
          (h.state = .filling → (∀ y ∈ h.slices, covers y = true → (y = x ∨ y.gindex < x.gindex) ∧
              s.ladleLook t.ctx y.level (ga y) .read = .ok (tr y) ∧ own y ∧ s.mem.poisoned (pa y) 8 = false) →
            ∃ u, go = .next u ∧ u.mem = s.mem ∧ (u.team tk).spad.value o 8 = s.mem.value (pa x) 8 ∧
              ∀ z, z < o ∨ o + 8 ≤ z → (u.team tk).spad.byte z = t.spad.byte z) ∧
          (h.state = .draining → h.slices.filter covers = [x] → s.ladleLook t.ctx x.level (ga x) .write = .ok (tr x) → own x →
            (tr x).d1 = true → (tr x).d2 = true → t.spad.poisoned o 8 = false →
            ∃ u, go = .next u ∧ (u.team tk).spad = t.spad ∧ u.mem.value (pa x) 8 = t.spad.value o 8 ∧
              ∀ z, z < pa x ∨ pa x + 8 ≤ z → u.mem.byte z = s.mem.byte z))) ∧
  (∀ (s : State) (d k full : Nat), s.inClause → s.g.latch = none → k < (s.team s.g.team).hIdx.length → full < 2 →
      let h := (s.team s.g.team).handle k
      let want : HandleState := if full = 1 then .full else .free
      let never : Prop := full = 1 ∧ s.g.wait = .none ∧ ((h.state = .free ∧ h.isOpen = false) ∨ h.state = .draining)
      let code : Nat := match h.state with
        | .free => 0
        | .filling => 1
        | .full => 2
        | .draining => 3
      (s.g.wait = .none ∨ s.g.wait = .hwait k →
        (h.state = want → h.err = false → does s (.hwait k full) s.acquireP) ∧
        (h.state = want → h.err = true → traps s (.hwait k full) 0x0F h.errAddr) ∧
        (never → traps s (.hwait k full) 0x0C (BitVec.ofNat 64 k)) ∧
        (h.state ≠ want → ¬never → waits s (.hwait k) (exec (.hwait k full) s))) ∧
      (s.idle → (h.state = .full → ∃ t', t'.handle k = { h with state := .free, ptr := 0, err := false, errAddr := 0 } ∧
          (∀ j, j ≠ k → t'.handle j = (s.team s.g.team).handle j) ∧ { t' with handles := (s.team s.g.team).handles } = s.team s.g.team ∧
          does s (.hrel k) (s.setTeam s.g.team t')) ∧
        (h.state = .filling → waits s (.hrel k) (exec (.hrel k) s)) ∧
        (h.state = .free ∨ h.state = .draining → traps s (.hrel k) 0x02 0)) ∧
      (s.canPutS d →
        does s (.hstate d k) (s.setG (s.g.setS d { val := BitVec.ofNat 64 (code + 4 * h.slices.length + if h.err then 256 else 0) })) ∧
        does s (.wpr d k) (s.setG (s.g.setS d { val := BitVec.ofNat 64 h.ptr })).acquireP))

/-- R204, R205: CHAPP, its hand-off made, appends the card at one time: the card's link is cleared, TAIL and NEXT take the card and the next
number, and the old tail's link, or an empty HEAD, the card; s[D] takes the number, and the append stands on SETB, last on its chain.  A
poisoned block is not appended to and gives s[D] its mark, the card's link cleared before (log entry 15, DESIGN CHOICE), and a partition
without a ladle raises ENGINE.

R212, R213: SEQW goes on with a .p acquire when DONE has reached its number and no earlier job has failed, raises ENGINE when one has,
ORPHAN when the number is not yet given out, and waits otherwise; of a poisoned block only the fields it comes to read raise POISON (log
entry 42, DEDUCED).  SEQR
reads DONE. -/
def Obligations.ChainWords : Prop :=
  (∀ (s s1 s2 : State) (d a b : Nat) (eb ec : TlbEntry), s.fresh → s.canGet a → s.canGet b →
      let blk := (s.g.sreg a).val
      let card := (s.g.sreg b).val
      let pb := eb.phys blk.toNat
      let n := s2.mem.word (pb + 16) + 1
      let tail := s2.mem.word (pb + 8)
      let s3 := ((s2.wordStore ec card.toNat 8 0).1.wordStore eb (blk.toNat + 8) 8 card).1
      let s4 := (s3.wordStore eb (blk.toNat + 16) 8 n).1
      let goes (t : State) : Prop := ∃ (u : State) (o : Op) (key : Nat), exec (.chapp d a b) s = .next u ∧ u.ops = t.ops ++ [o] ∧
        o.gang = s.cur ∧ o.flag = s.cl.setb ∧ o.kind = .chapp key card.toNat ∧ u.mem = t.mem ∧
        (∃ c k pre, tget? u.chains key = some c ∧ c.ctx = s.g.ctx ∧ c.addr = blk.toNat ∧ c.cards = pre ++ [k] ∧ k.card = card.toNat ∧
          k.seq = n.toNat ∧ k.level = s.g.level ∧ k.gang = s.cur ∧ k.op = o.id) ∧
        u.g.sreg d = { val := n } ∧ (∀ k, k ≠ d → u.g.sreg k = s.g.sreg k) ∧ (∃ p, u.g.pend = some p ∧ s.ns ≤ p) ∧
        u.g.v = s.g.v ∧ u.g.m = s.g.m ∧ u.g.xf = s.g.xf ∧ u.g.st = s.g.st ∧ u.g.frame = s.g.frame
      blk.toNat % 64 = 0 → card.toNat % 128 = 0 →
      (s.hasLadle s.g.part = false → traps s (.chapp d a b) 0x0F 0) ∧
      (s.hasLadle s.g.part = true → s.canPutS d → s.hasRoom s.cl.setb → s.acksPending = false →
        s.check1 .atomic 64 blk.toNat = .ok eb → s.check1 .write 128 card.toNat = .ok ec →
        s.bankHeld s.cur pb 64 = false → s.bankHeld s.cur (ec.phys card.toNat) 8 = false → s.ownW eb blk.toNat = .ok s1 →
        s1.ownW ec card.toNat = .ok s2 →
        (s2.mem.poisoned pb 24 = true →
          let r := s2.wordStore ec card.toNat 8 0
          ∃ v, does s (.chapp d a b)
            ({ r.1 with freeCtr := r.1.freeCtr + 1 }.setG ((r.1.g.notePend r.2).setS d { val := v, mark := some blk }))) ∧
        (s2.mem.poisoned pb 24 = false →
          (tail = 0 → s4.mem.word pb = 0 → goes (s4.wordStore eb blk.toNat 8 card).1) ∧
          (tail = 0 → s4.mem.word pb ≠ 0 → goes s4) ∧
          (tail ≠ 0 → ∀ et s5, s4.check1 .write 8 tail.toNat = .ok et → s.bankHeld s.cur (et.phys tail.toNat) 8 = false → s4.ownW et tail.toNat = .ok s5 →
            goes (s5.wordStore et tail.toNat 8 card).1)))) ∧
  (∀ (s s1 : State) (d a b : Nat) (e : TlbEntry), s.inClause → s.g.latch = none → s.canGet a →
      let blk := (s.g.sreg a).val
      let n := (s.g.sreg b).val.toNat
      let at_ (off : Nat) : Nat := (s1.mem.word (e.phys blk.toNat + off)).toNat
      s.check1 .read 64 blk.toNat = .ok e →
      (s.canGet b → s.bankHeld s.cur (e.phys blk.toNat) 64 = false → s.g.wait = .none ∨ s.g.wait = .seqw blk.toNat → (s.useTlb [e]).ownR e blk.toNat = .ok s1 →
        let bad (off : Nat) : Bool := s1.mem.poisoned (e.phys blk.toNat + off) 8
        (s.g.wait = .none → bad 16 = false → at_ 16 < n → traps s (.seqw a b) 0x0C blk) ∧
        (s.g.wait = .none → bad 16 = true → traps s (.seqw a b) 0x0E blk) ∧
        ((bad 16 = false ∧ n ≤ at_ 16) ∨ s.g.wait ≠ .none →
          (bad 24 = true → traps s (.seqw a b) 0x0E blk) ∧
          (bad 24 = false → at_ 24 < n → waits s (.seqw blk.toNat) (exec (.seqw a b) s)) ∧
          (bad 24 = false → n ≤ at_ 24 → bad 32 = true → traps s (.seqw a b) 0x0E blk) ∧
          (bad 24 = false → bad 32 = false → n ≤ at_ 24 → 0 < at_ 32 → at_ 32 ≤ n → traps s (.seqw a b) 0x0F blk) ∧
          (bad 24 = false → bad 32 = false → n ≤ at_ 24 → at_ 32 = 0 ∨ n < at_ 32 → does s (.seqw a b) s1.acquireP))) ∧
      (s.canPutS d → s.settled .fence e (blk.toNat + 24) 8 = .ok () →
        let r := (s.useTlb [e]).loadNow s.cur e.shared (blk.toNat + 24) (e.phys blk.toNat + 24) 8
        does s (.seqr d a) (r.1.setG (r.1.g.setS d r.2))))

/-- R65, R194 to R196: STDEF loads a stream register from its descriptor, or stores the descriptor's 64 bytes, and STPOS reads or sets its
position.

R176, R214, R215: RESID registers, releases, queries and re-ranks tensors of the context, all ones in s[D] where it cannot; a base that
is not aligned is UNDEF (log entry 45, DEDUCED), as a length of none or of part pages is, and a reserved bit.  The results of release and of
set priority are not stated (log entry 15, DESIGN CHOICE), and a tensor's tier is that of its base's page (log entry 66, DESIGN CHOICE).
DEMOTE of an index above 511 or of a tier above 1 is UNDEF; else it starts a move, marked on its entry and standing on SETB, or has no
effect: that it has none for an index that is not registered, that another context registered, or whose tensor is being moved, is log entry
45 (DEDUCED), and that it has none in a partition without a ladle log entry 66 (DESIGN CHOICE).  Its end moves the pages that stand outside
the tier to the places planned, waits while one of them is in use, and leaves the tensor where it is when the tier has no room any more. -/
def Obligations.StreamAndResidencyWords : Prop :=
  (∀ (s t : State) (d n a : Nat) (w : Nat → Word), s.fresh → n < 8 →
      let x := s.g.stream n
      (s.canGet a → BlockRead s t (s.g.sreg a).val.toNat 8 w →
        (bits (w 0) 63 58 ≠ 0 → traps s (.stdefLoad n a) 0x01 (w 0)) ∧
        (bits (w 0) 63 58 = 0 → (w 7).toNat < 2 → ∃ y : StreamReg,
          y.base = w 0 &&& 0x00FFFFFFFFFFFFFF ∧ y.zc = bits (w 0) 57 56 ∧
          (∀ k : Fin 5, y.strides[k] = (w (k + 1)).truncate 32 ∧ y.extents[k] = ((w (k + 1)) >>> 32).truncate 32) ∧ y.pos = w 6 ∧
          y.fin = (w 7 == 1) ∧ does s (.stdefLoad n a) (t.setG (t.g.setStream n y)))) ∧
      (s.canGet a → ∀ e, s.check1 .write 64 (s.g.sreg a).val.toNat = .ok e →
        ∃ (u : State) (o : Op), exec (.stdefStore n a) s = .next u ∧ SameLines (s.useTlb [e]) u ∧
          Issued { s.useTlb [e] with cores := u.cores } u o ∧ o.flag = 15 ∧ o.kind = .store false ∧ u.g.v = s.g.v ∧
          ∀ m, m.wf = true → ∀ i k, i < 8 → k < 8 →
            let word : Word := if i = 0 then (x.base &&& 0x00FFFFFFFFFFFFFF) ||| (BitVec.ofNat 64 x.zc <<< 56)
              else if i ≤ 5 then (x.extents.toList.getD (i - 1) 0).append (x.strides.toList.getD (i - 1) 0)
              else if i = 6 then x.pos else if x.fin then 1 else 0
            x.zc < 4 → (o.leaves m).byte (e.phys (s.g.sreg a).val.toNat + 8 * i + k) = el 8 word k) ∧
      (s.canPutS d →
        does s (.stposRead d n) (s.setG (s.g.setS d { val := (if x.fin then 0x8000000000000000 else 0) ||| (x.pos &&& 0x7FFFFFFFFFFFFFFF) }))) ∧
      (s.canGet a →
        does s (.stposWrite n a) (s.setG (s.g.setStream n { x with pos := (s.g.sreg a).val &&& 0x7FFFFFFFFFFFFFFF, fin := false })))) ∧
  (∀ (s : State) (d a b : Nat), s.fresh → s.canGet a → s.canGet b →
      let p := s.part s.g.part
      let x := (s.g.sreg a).val
      let w := (s.g.sreg b).val
      let len := bits w 39 0
      let puts (q : Part) (y : Word) : Prop := does s (.resid d a b) ((s.setPart s.g.part q).setG (s.g.setS d { val := y }))
      let mine (e : ResEntry) : Prop := tget? p.resid (bits x 8 0) = some e ∧ e.ctx = s.g.ctx
      let none_ : Word := 0xFFFFFFFFFFFFFFFF
      (s.sBusy d = false → bits w 61 43 ≠ 0 → traps s (.resid d a b) 0x01 w) ∧
      (s.sBusy d = false → bits w 61 43 = 0 → bits w 63 62 = 0 →
        (len = 0 ∨ len % 65536 ≠ 0 → traps s (.resid d a b) 0x01 w) ∧
        (len ≠ 0 → len % 65536 = 0 → x.toNat % 65536 ≠ 0 → traps s (.resid d a b) 0x01 x)) ∧
      (s.canPutS d → bits w 61 43 = 0 →
        (bits w 63 62 = 0 → len ≠ 0 → len % 65536 = 0 → x.toNat % 65536 = 0 →
          let clash : Prop := ∃ e ∈ p.resid, e.2.ctx = s.g.ctx ∧ x.toNat < e.2.base + e.2.len ∧ e.2.base < x.toNat + len
          (clash ∨ firstFree p.resid 0 512 = none → puts p none_) ∧
          (¬clash → ∀ i, firstFree p.resid 0 512 = some i → ∃ e : ResEntry, e.ctx = s.g.ctx ∧ e.base = x.toNat ∧ e.len = len ∧
            e.prio = bits w 42 40 ∧ e.moving = false ∧
            does s (.resid d a b) (({ s with nextOrder := s.nextOrder + 1 }.setPart s.g.part { p with resid := tput p.resid i e }).setG
              (s.g.setS d { val := BitVec.ofNat 64 i })))) ∧
        (bits w 63 62 ≠ 0 → (∀ e, ¬mine e) → puts p none_) ∧
        (∀ e, mine e →
          (bits w 63 62 = 2 → puts p (BitVec.ofNat 64 ((if e.moving then 2 else s.tierAt e.ctx e.base) + 256 * e.prio))) ∧
          (bits w 63 62 = 1 ∨ bits w 63 62 = 3 → ∃ y,
            let left := if bits w 63 62 = 1 then tdel p.resid (bits x 8 0) else tput p.resid (bits x 8 0) { e with prio := bits w 42 40 }
            does s (.resid d a b) (({ s with freeCtr := s.freeCtr + 1 }.setPart s.g.part { p with resid := left }).setG
              (s.g.setS d { val := y }))))) ∧
      (s.hasRoom s.cl.setb → 511 < x.toNat → traps s (.demote a b) 0x01 x) ∧
      (s.hasRoom s.cl.setb → x.toNat < 512 → 1 < w.toNat → traps s (.demote a b) 0x01 w) ∧
      (s.hasRoom s.cl.setb → x.toNat < 512 → w.toNat < 2 → s.idle →
        ((∀ e, tget? p.resid x.toNat = some e → e.ctx ≠ s.g.ctx ∨ e.moving = true ∨ s.outside e w.toNat = [] ∨ s.tierPlan e w.toNat = none ∨
            s.hasLadle s.g.part = false ∨ (w.toNat = 1 ∧ (s.ctx s.g.ctx).featmask.getLsbD 5 = false)) →
          does s (.demote a b) s) ∧
        (∀ e, tget? p.resid x.toNat = some e → e.ctx = s.g.ctx → e.moving = false → s.outside e w.toNat ≠ [] → (s.tierPlan e w.toNat).isSome = true →
          s.hasLadle s.g.part = true → (w.toNat = 1 → (s.ctx s.g.ctx).featmask.getLsbD 5 = true) →
          ∃ (u : State) (o : Op), exec (.demote a b) s = .next u ∧ o.flag = s.cl.setb ∧ o.kind = .demote x.toNat w.toNat ∧ u.g.v = s.g.v ∧
            Issued (s.setPart s.g.part { p with resid := tput p.resid x.toNat { e with moving := true } }) u o)) ∧
      (∀ (op : Nat) (o : Op) (idx tier : Nat), s.op? op = some o → o.kind = .demote idx tier → s.hasGang o.gang →
        ∀ e, (s.part (s.ctx o.ctx).part).resOf o.ctx idx = some e → s.tierPlan e tier = none →
        ∃ u, exec (.demoteMoveEnd op) s = .next u ∧ Retired s u o ∧ u.mem = s.mem ∧
          tget? (u.part (s.ctx o.ctx).part).resid idx = some { e with moving := false }) ∧
      (∀ (op : Nat) (o : Op) (idx tier : Nat) (e : ResEntry) (l : List ((Nat × Nat) × Nat)), s.op? op = some o → o.kind = .demote idx tier →
        s.hasGang o.gang → (s.part (s.ctx o.ctx).part).resOf o.ctx idx = some e → s.tierPlan e tier = some l →
        l.map (·.1) = s.outside e tier ∧
        ((∃ q ∈ l, s.pageBusy q.1 = true) → exec (.demoteMoveEnd op) s = .next s) ∧
        ((∀ q ∈ l, s.pageBusy q.1 = false) → ∃ u, exec (.demoteMoveEnd op) s = .next u ∧ Retired s u o ∧
          u.mem = (s.movePages (s.ctx o.ctx).part l).mem ∧
          ∃ e', tget? (u.part (s.ctx o.ctx).part).resid idx = some e' ∧ e'.moving = false ∧ e'.base = e.base ∧ e'.len = e.len)))

/-- R219, R241 to R244, R294: FTSET replaces an entry above 15 and raises the generation, FTGET reads a word of an entry or the generation,
FMTSEL chooses the entries of the views 6 and 7, and raises FMTENTRY for a bad one, X before Y (log entry 78, DESIGN CHOICE).  FFENCE has
nothing to wait for, since a group sees the table as the words before it left it (log entry 28, DEDUCED; R243 makes it wait for that), and
RNGSEED sets the generator.

R169, R287 to R289: LUTLD reads its whole image at issue (log entry 28, DEDUCED) and stands on SETA with the inactive bank; its completion writes that bank, or, when the image
held poison, leaves its headers invalid and its flag a report; LUTSWAP, with no load under way and no report, makes the other bank active. -/
def Obligations.TableWords : Prop :=
  (∀ (s t : State) (d n k a b x y : Nat) (w : Nat → Word), s.fresh →
      let c := s.ctx s.g.ctx
      let e : FtEntry := { w0 := w 0, w1 := w 1, w2 := w 2, w3 := w 3 }
      let good (m width : Nat) : Prop := (c.entry m).usable = true ∧ (c.entry m).fmt.kind ≠ 3 ∧ (c.entry m).fmt.width = width
      (s.canGet a → BlockRead s t (s.g.sreg a).val.toNat 4 w →
        (n < 16 ∨ (e ≠ {} ∧ e.consistent = false) → traps s (.ftset n a) 0x04 (s.g.sreg a).val) ∧
        (16 ≤ n → n < 256 → e = {} ∨ e.consistent = true → c.featmask.getLsbD 0 = true → c.featmask.getLsbD 1 = true ∨ e.fmt.kind ≠ 3 →
          ∃ c', c'.entry n = e ∧ (∀ m, m ≠ n → c'.entry m = c.entry m) ∧ c'.gen = (if 127 ≤ c.gen then 1 else c.gen + 1) ∧
            { c' with ft := c.ft, gen := c.gen } = c ∧ does s (.ftset n a) (t.setCtx s.g.ctx c'))) ∧
      (s.canPutS d → k < 4 →
        let words := [(c.entry n).w0, (c.entry n).w1, (c.entry n).w2, (c.entry n).w3]
        does s (.ftgetEntry d n k) (s.setG (s.g.setS d { val := words.getD k 0 })) ∧
        does s (.ftgetGen d) (s.setG (s.g.setS d { val := BitVec.ofNat 64 c.gen }))) ∧
      does s (.ffence k) s ∧
      (good x 16 → good y 8 → does s (.fmtsel x y) (s.setG { s.g with ef := BitVec.ofNat 16 (x + 256 * y) })) ∧
      (¬good x 16 → traps s (.fmtsel x y) 0x04 (BitVec.ofNat 64 x)) ∧
      (good x 16 → ¬good y 8 → traps s (.fmtsel x y) 0x04 (BitVec.ofNat 64 y)) ∧
      (s.canGet a → s.canGet b → does s (.rngseed a b) (s.setG { s.g with seed := (s.g.sreg a).val, ctr := (s.g.sreg b).val }))) ∧
  (∀ (s : State),
      (∀ a es, s.fresh → s.canGet a → s.hasRoom s.cl.seta → (s.g.sreg a).val.toNat % 64 = 0 →
        s.checkGlobal .read 1 true (imageChecks (s.g.sreg a).val.toNat) = .ok es →
        (∀ x ∈ es.zip (imageParts (s.g.sreg a).val.toNat), s.loadHeld s.cur x.1.shared (x.1.phys x.2.1) x.2.2 = false) →
        let r := (s.useTlb es).readImage (s.g.sreg a).val.toNat
        ∃ (u : State) (o : Op), exec (.lutld a) s = .next u ∧ Issued r.1 u o ∧ o.flag = s.cl.seta ∧ u.g.v = s.g.v ∧
          o.kind = .lutld (1 - s.luts.sel) r.2.1 r.2.2 (s.g.sreg a).val) ∧
      (∀ op o bank image bad addr, s.op? op = some o → o.kind = .lutld bank image bad addr → s.hasGang o.gang →
        (s.lutldReady o bank = false → exec (.lutldComplete op) s = .next s) ∧
        (s.lutldReady o bank = true → bank < 2 → image.wf = true →
          ∃ u, exec (.lutldComplete op) s = .next u ∧ u.ops = s.ops.filter (fun x => !(x.id == op)) ∧ u.mem = s.mem ∧
            (∀ k, k ≠ o.gang → u.gang k = s.gang k) ∧
            let old := tget (s.core o.core).luts o.ctx {}
            let new := tget (u.core o.core).luts o.ctx {}
            new.sel = old.sel ∧ new.bank (1 - bank) = old.bank (1 - bank) ∧
            (bad = false → Retired s u o ∧ ∀ x, (new.bank bank).byte x = image.byte x) ∧
            (bad = true → (∀ x, (new.bank bank).byte x = if x < 64 then 0 else image.byte x) ∧
              (o.flag < 12 → ((u.gang o.gang).flag o.flag).reports = ((s.gang o.gang).flag o.flag).reports ++ [{ engine := false, addr := addr }])))) ∧
      (s.fresh → (∀ o ∈ s.ops, o.core = s.g.core → o.ctx = s.g.ctx → ∀ bank image bad addr, o.kind ≠ .lutld bank image bad addr) →
        s.g.lutReports = [] → ∃ c', { c' with luts := (s.core s.g.core).luts } = s.core s.g.core ∧
          (tget c'.luts s.g.ctx {} = { s.luts with sel := 1 - s.luts.sel }) ∧
          (∀ k, k ≠ s.g.ctx → tget c'.luts k {} = tget (s.core s.g.core).luts k {}) ∧ does s .lutswap (s.setCore s.g.core c')))

/-- R149, R150, R191: a fence goes on when the gang's earlier accesses are complete as its kind and scope need: a release at .p or above
clears P once the lease clock has passed it, and an acquire at .p or above sets the valid-after time to now, at .s once every inbound write
accepted before it has been performed and its time has come.  An acquire at .t or above puts what the team has issued so far before the
gang's later accesses (R152, R153).  What it waits for first names the wait.

R165, R166, R192, R193: TFENCE waits for the gang's stores to be acknowledged; TLBI, at its level, takes the context's translations (with
.all, its partition's) out of the TLBs in its scope, and IFENCE the lines out of the instruction caches in its scope. -/
def Obligations.Fences : Prop :=
  (∀ (s : State) (kind scope : Nat), s.fresh → kind < 4 → scope < 4 →
      let rel : Prop := kind ≠ 0 ∧ 2 ≤ scope
      let acq : Prop := kind ≠ 1 ∧ 2 ≤ scope
      (s.idle → s.leasePast →
        (kind ≠ 1 → scope = 3 → ∀ i ∈ s.inbound, i.part = s.g.part → i.performed = true ∧ i.comp ≤ s.ns) →
        ∃ g, does s (.fence kind scope) (s.setG g) ∧ (rel → g.pend = none) ∧ (¬rel → g.pend = s.g.pend) ∧ (acq → g.va = s.ns) ∧
          (¬acq → g.va = s.g.va) ∧
          (kind ≠ 1 ∧ 1 ≤ scope → g.seenOp = s.nextOp ∧
            ∀ e ∈ s.gangs, e.1 ≠ s.cur → e.2.team = s.g.team → e.2.pend.getD 0 ≤ g.seenPend.getD 0) ∧
          (kind = 1 ∨ scope = 0 → g.seenOp = s.g.seenOp ∧ g.seenPend = if kind = 1 ∧ 2 ≤ scope then none else s.g.seenPend) ∧
          { g with pend := s.g.pend, va := s.g.va, seenOp := s.g.seenOp, seenPend := s.g.seenPend } = s.g) ∧
      (s.loadsPending = true → waits s .fence (exec (.fence kind scope) s)) ∧
      (s.loadsPending = false → s.acksPending = true → rel → waits s .fence (exec (.fence kind scope) s)) ∧
      (s.loadsPending = false → s.acksPending = false → s.g.redReports = [] → rel → ∀ p, s.g.pend = some p → s.ns < p →
        waits s .lease (exec (.fence kind scope) s)) ∧
      (∀ k, (s.gang k).wait = .lease →
        let past : Prop := (s.gang k).pend.getD 0 ≤ s.ns ∧ (s.gang k).seenPend.getD 0 ≤ s.ns
        (past → exec (.fenceLeaseWaitEnd k) s = .next (s.setGang k { s.gang k with pend := none, seenPend := none })) ∧
        (¬past → exec (.fenceLeaseWaitEnd k) s = .next s))) ∧
  (∀ (s : State) (a mode scope : Nat), s.fresh → mode < 3 → scope < 4 →
      let reached (core : Nat) : Prop := if scope ≤ 1 then core = s.g.core else (s.part s.g.part).owns (coreSlice core) = true
      let reachedK (k : Nat) : Prop := if scope ≤ 1 then k = clusterOf s.g.core else (s.part s.g.part).owns (sliceOf k) = true
      let hit (e : TlbEntry) : Prop := (if mode = 2 then (s.ctx e.ctx).part = s.g.part else e.ctx = s.g.ctx) ∧
        (mode = 0 → e.covers e.ctx (s.g.sreg a).val.toNat = true)
      let hitMid (e : MidEntry) : Prop := (if mode = 2 then (s.ctx e.ctx).part = s.g.part else e.ctx = s.g.ctx) ∧
        (mode = 0 → e.covers e.ctx (s.g.sreg a).val.toNat = true)
      (s.ownAcks = false → does s (.tfence scope) s) ∧
      (s.ownAcks = true → waits s .fence (exec (.tfence scope) s) ∧ waits s .fence (exec (.ifence scope) s)) ∧
      (s.ownAcks = false → ∃ u, exec (.ifence scope) s = .next u ∧ Moved s u ∧
        (∀ c ∈ u.cores, reached c.1 → c.2.l0 = []) ∧ (∀ k ∈ u.clusters, reachedK k.1 → k.2.ic = []) ∧
        (∀ k, ¬reached k → (u.core k).still = (s.core k).still) ∧ (∀ k, { (u.core k).still with l0 := [] } = { (s.core k).still with l0 := [] }) ∧
        u.apart = s.apart ∧ u.g.still = s.g.still) ∧
      (s.g.level < (if mode = 2 then 2 else 1) → traps s (.tlbi a mode scope) 0x10 0) ∧
      ((if mode = 2 then 2 else 1) ≤ s.g.level → (mode = 0 → s.canGet a) → s.tlbiBusy mode scope = false →
        ∃ u, exec (.tlbi a mode scope) s = .next u ∧ Moved s u ∧
          (∀ c ∈ u.cores, reached c.1 → ∀ e ∈ c.2.tlb, ¬hit e) ∧ (∀ k ∈ u.clusters, reachedK k.1 → ∀ e ∈ k.2.tlb, ¬hit e) ∧
          (∀ k e, ¬hit e → (e ∈ (u.core k).tlb ↔ e ∈ (s.core k).tlb)) ∧
          (∀ c ∈ u.cores, reached c.1 → ∀ e ∈ c.2.mid, ¬hitMid e) ∧ (∀ k ∈ u.clusters, reachedK k.1 → ∀ e ∈ k.2.mid, ¬hitMid e) ∧
          (∀ k e, ¬hitMid e → (e ∈ (u.core k).mid ↔ e ∈ (s.core k).mid)) ∧
          (∀ k, { u.core k with tlb := (s.core k).tlb, mid := (s.core k).mid }.still = (s.core k).still) ∧
          u.apart = s.apart ∧ u.g.still = s.g.still))

/-! ## Traps, registers and load words -/

/-- R391, with R384 and R386: TRAP holds an immediate in bits 15:0 and no other field, and stands at any position.  When nothing that entry waits for is in
flight it enters the handler with SWTRAP: the frame holds the cause, the immediate as fault address, the position of the word, in NEXT that of the group after it,
the masks, the level and the lanes' PCs; the live lanes stand at csr.tvec at supervisor level or above, INH is 1, and the bypass, the yielding marks and the
held groups are put away.  No other register and no byte of memory changes. -/
def Obligations.TrapWord : Prop :=
  decode [0xF0000005] = .ok (.trap 5, 1) ∧ (∀ imm, imm < 65536 → decode [0xF0000000 + imm] = .ok (.trap imm, 1)) ∧
  (∀ x imm, 0 < x → x < 256 → imm < 65536 → (decode [0xF0000000 + x * 65536 + imm]).toOption = none) ∧
  (∀ imm, endsClause (.trap imm) = false) ∧
  (∀ (s : State) (imm : Nat), s.canTrap → s.g.latch = none → s.cl.first < 32 → s.cl.addr < 2 ^ 56 → s.cl.next < 32 → s.g.level < 4 →
      ∃ u, exec (.trap imm) s = .next u ∧ u.cur = s.cur ∧
        let f := u.g.frame
        f.cause = 0x11 ∧ f.addr = BitVec.ofNat 64 imm ∧ f.mask = s.act ∧ f.act = s.act ∧ f.pcv = s.g.pcv ∧ f.scr = s.g.frame.scr ∧
        f.pos.toNat = s.cl.first * 2 ^ 56 + s.cl.addr ∧ f.info.toNat = 2 ^ 31 + s.g.level * 2 ^ 16 + s.cl.next ∧
        u.g.level = max 1 s.g.level ∧
        (∀ l : Fin 32, u.g.pcv[l] = if inSet s.g.live l then (s.ctx s.g.ctx).tvec else s.g.pcv[l]) ∧
        u.g.cl = none ∧ u.g.bp = [] ∧ u.g.pushes = 0 ∧ u.g.yielding = 0 ∧ u.g.groups = [] ∧
        u.g.hidden = { bp := s.g.bp, pushes := s.g.pushes, yielding := s.g.yielding, groups := s.g.groups } ∧
        { u.g with frame := s.g.frame, level := s.g.level, hidden := s.g.hidden, bp := s.g.bp, pushes := s.g.pushes, yielding := s.g.yielding,
                   groups := s.g.groups, waitSince := s.g.waitSince }.still = s.g.still ∧
        (∀ k, k ≠ s.cur → u.gang k = s.gang k) ∧ (∀ k, (u.core k).still = (s.core k).still) ∧ u.apart = s.apart)

/-- R384: a trap whose gang still has loads, special-function words, matrix operations, atomics that return a value or table loads in flight is
held, and the gang issues nothing until they have completed.

R390: RTE, at supervisor level or above in a handler with nothing in flight, brings back the level and the live lanes' PCs; with INDEX 31, or no lane of
csr.tact still at the clause, issue is chosen anew, else that clause goes on at INDEX with those lanes, its bypass as it was.  The registers
that RTE's own clause names are staged (R70).  Elsewhere it is PRIV or UNDEF. -/
def Obligations.TrapsAndReturn : Prop :=
  (∀ (s : State) (imm : Nat), s.inClause → s.g.latch = none → s.drained s.cur = false →
      ∃ u x, exec (.trap imm) s = .next u ∧ u.g.wait = .trap x ∧ x.cause = 0x11 ∧ x.addr = BitVec.ofNat 64 imm ∧ u.mayGo u.g = false ∧
        u.g.cl = s.g.cl.map (fun c => { c with next := c.first }) ∧ u.g.frame = s.g.frame ∧ u.g.level = s.g.level ∧
        (∀ k, (u.core k).still = (s.core k).still) ∧ u.apart = s.apart) ∧
  (∀ (s : State), s.inClause → s.g.latch = none →
      let f := s.g.frame
      let index := bits f.pos 60 56
      let a := bits f.pos 55 0
      let pc (l : Nat) : Word := if inSet s.g.live l then f.pcv.toList.getD l 0 &&& 0xFFFFFFFFFFFFFFF8 else s.g.pcv.toList.getD l 0
      (s.g.level < 1 → traps s .rte 0x10 0) ∧ (1 ≤ s.g.level → f.info.getLsbD 31 = false → traps s .rte 0x01 0) ∧
      (1 ≤ s.g.level → f.info.getLsbD 31 = true → s.drained s.cur = true →
        ∃ u, exec .rte s = .next u ∧ u.cur = s.cur ∧ u.g.level = (f.info.toNat / 2 ^ 16) % 4 ∧ u.g.frame = { f with info := f.info &&& 0x7FFFFFFF } ∧
          (∀ l : Fin 32, u.g.pcv[l] = pc l) ∧ u.g.yielding = s.g.hidden.yielding &&& s.g.live ∧ u.g.staged = s.cl.staging ∧
          (∀ e : Lanes, (∀ l, l < 32 → inSet e l = (inSet f.act l && inSet s.g.live l && ((pc l).toNat == a))) →
            (index = 31 ∨ e = 0 → u.g.cl = none ∧ u.g.bp = []) ∧
            (index ≠ 31 → e ≠ 0 → u.g.bp = s.g.hidden.bp ∧ u.g.pushes = s.g.hidden.pushes ∧
              ∃ c, u.g.cl = some c ∧ c.addr = a ∧ c.active = e ∧ c.first = index ∧ c.refetch = true)) ∧
          u.g.v = s.g.v ∧ u.g.s = s.g.s ∧ u.g.m = s.g.m ∧ u.g.cf = s.g.cf ∧ u.g.xf = s.g.xf ∧ u.g.st = s.g.st ∧ u.g.live = s.g.live ∧
          (∀ k, k ≠ s.cur → u.gang k = s.gang k) ∧ (∀ k, (u.core k).still = (s.core k).still) ∧ u.apart = s.apart))

/-- R358, R392, R393: CSRR gives each register's value at a level that may read it, and CSRW sets it at a level that may write it, when the value is
one the register takes; a lower level is PRIV, and any other value, number or index UNDEF. -/
def Obligations.ControlRegisters : Prop :=
  ∀ (s : State) (d a n i : Nat), s.fresh →
    (∀ row ∈ csrRows, n = row.num → i < row.count →
      (row.level ≤ s.g.level → s.canPutS d → does s (.csrr d n i) (s.setG (s.g.setS d { val := row.value s i }))) ∧
      (s.g.level < row.level → traps s (.csrr d n i) 0x10 (BitVec.ofNat 64 n))) ∧
    ((∀ row ∈ csrRows, n = row.num → row.count ≤ i) → traps s (.csrr d n i) 0x01 0) ∧
    (∀ row ∈ csrWriteRows, n = row.num → i < row.count → (row.framed = true → s.g.frame.info.getLsbD 31 = true) →
      (s.g.level < row.level → traps s (.csrw a n i) 0x10 (BitVec.ofNat 64 n)) ∧
      (row.level ≤ s.g.level → s.canGet a →
        (row.legal (s.g.sreg a).val.toNat → does s (.csrw a n i) (row.put s i (s.g.sreg a).val)) ∧
        (¬row.legal (s.g.sreg a).val.toNat → traps s (.csrw a n i) 0x01 0))) ∧
    ((∀ row ∈ csrWriteRows, n = row.num → row.count ≤ i ∨ (row.framed = true ∧ s.g.frame.info.getLsbD 31 = false)) →
      traps s (.csrw a n i) 0x01 0)

/-- R417: DRAWC holds a class in bits 1:0 and no other field, sets the gang's default draw class, whatever its DRAWMAX, and changes nothing else; the class is 0
when a gang is placed, and is saved with the gang; it enters a clause's effective class, which DRAWMAX limits (R78). -/
def Obligations.DrawClassWord : Prop :=
  decode [0xF6000002] = .ok (.drawc 2, 1) ∧ (∀ x, x < 4 → decode [0xF6000000 + x] = .ok (.drawc x, 1)) ∧
  (∀ x, 4 ≤ x → x < 2 ^ 24 → (decode [0xF6000000 + x]).toOption = none) ∧
  (∀ (s : State) (n : Nat), s.fresh → does s (.drawc n) (s.setG { s.g with drawDefault := n })) ∧
  (∀ (s : State) (tk core slot i : Nat), (s.newGang tk core slot i).drawDefault = 0) ∧
  (∀ g : Gang, g.saved.drawDefault = g.drawDefault) ∧ ∀ (g : Gang) (c : Nat), g.effDraw c = min (max c g.drawDefault) g.drawMax

/-- R414, R417, R418: BOOST sets the gang's boost request and DRAWC its default draw class; EMBER registers a launch record in the context's lowest free
place, whose number s[D] takes, or gives its refusal with bit 63; EMBER.off withdraws one.

R415: a core whose level has stood above its need for a microsecond is a candidate, else it is not; while one is, every registration of its
partition's running contexts that has no grid in flight is launched; an ember team leaves for a team that would then fit, or when its core has been
no candidate for a microsecond. -/
def Obligations.PowerAndEmber : Prop :=
  (∀ (s t : State) (d a n : Nat) (w : Nat → Word), s.fresh →
      let c := s.ctx s.g.ctx
      let r := recordOf w
      let code : Nat :=
        let k := (t.ctx t.g.ctx).refusal r (s.g.level == 0) false false
        if 1 ≤ k ∧ k ≤ 9 then k else if r.restart = false then 12 else if 8 ≤ (t.ctx t.g.ctx).embers.length then 13 else 0
      (c.featmask.getLsbD 9 = true → does s (.boost n) (s.setG { s.g with boostReq := n })) ∧
      does s (.drawc n) (s.setG { s.g with drawDefault := n }) ∧
      (c.featmask.getLsbD 10 = true → s.canGet a →
        does s (.emberOff a) (s.withCtx fun c => { c with embers := tdel c.embers ((s.g.sreg a).val.toNat % 8) }) ∧
        (s.canPutS d → BlockRead s t (s.g.sreg a).val.toNat 8 w →
          (code ≠ 0 → does s (.ember d a) (t.setG (t.g.setS d { val := BitVec.ofNat 64 (2 ^ 63 + code) }))) ∧
          (code = 0 → ∀ i, firstFree (t.ctx t.g.ctx).embers 0 8 = some i →
            does s (.ember d a) ((t.withCtx fun c => { c with embers := tput c.embers i r }).setG (t.g.setS d { val := BitVec.ofNat 64 i })))))) ∧
  (∀ (s : State) (core tk : Nat),
      let now : Prop := s.needNow core < (s.core core).level ∧ ∃ t, (s.core core).overSince = some t ∧ t + 1000 ≤ s.ns
      let t := s.team tk
      let idle : Prop := (s.core t.core).candidate = false ∧ ∃ x, (s.core t.core).underSince = some x ∧ x + 1000 ≤ s.ns
      (∃ u, exec (.emberCandidate core) s = .next u ∧ ((u.core core).candidate = true ↔ now) ∧ (now → (u.core core).underSince = none) ∧
        (¬now → u = s.setCore core { s.core core with candidate := false, underSince := some ((s.core core).underSince.getD s.ns) }) ∧
        (now → ∀ tag p, s.partOf (coreSlice core) = some (tag, p) → ∀ ck c, tget? s.ctxs ck = some c → c.part = tag → c.stopped = false →
          ∀ x ∈ c.embers, s.emberInFlight ck x.1 = false → ∃ e ∈ u.grids, e.2.ctx = ck ∧ e.2.ember = some x.1 ∧ e.2.retired = false ∧ e.2.nextTeam = 0)) ∧
      (t.ember = true → t.life = .resident → t.stopping = none →
        (idle ∨ s.crowds tk = true → ∃ u, exec (.emberFlush tk) s = .next u ∧ u.toldToLeave tk .flush) ∧
        (¬idle → s.crowds tk = false → exec (.emberFlush tk) s = .next s)) ∧
      (t.ember = false → exec (.emberFlush tk) s = .next s))

/-! ## Issue and fetch -/

/-- R29, R70, R74 to R80, R331, R416: a gang that stands in no clause takes the least PC of its live lanes that are neither held nor, unless all
are, yielding; every lane not held at that PC is in the active set, and loses its yielding mark.  A sound header whose WAIT names no busy flag begins its clause there; a busy flag
holds the gang, an unsound header is UNDEF and a word that may not be fetched IFETCH, each with INDEX and NEXT 31.  A gang that has read the
header and waits on its flags reads no code again until they are free. -/
def Obligations.ClauseIssue : Prop :=
  ∀ (s : State) (a : Nat) (e : Lanes) (h0 h1 : Nat) (pf : Option Nat), s.g.cl = none → s.g.life = .resident → s.g.live ≠ 0 →
    s.g.brokenGroup = none →
    let free : Lanes := s.g.live &&& ~~~s.g.syncHeld
    let chosen : Lanes := if free &&& ~~~s.g.yielding = 0 then free else free &&& ~~~s.g.yielding
    let flag (x : Nat) : Prop := x < 12 ∨ x = 15
    let slot (k : Nat) : Prop := if (pf.getD 0).testBit (28 + k) then fld (pf.getD 0) (7 * k + 6) (7 * k) < 96 else fld (pf.getD 0) (7 * k + 6) (7 * k) = 0
    let sound : Prop := fld h0 4 0 = 0 ∧ flag (fld h0 19 16) ∧ flag (fld h0 15 12) ∧ h1 / 4 ^ (fld h0 11 8 + 1) = 0 ∧
      (pf.isSome = true → ∀ k, k < 4 → slot k)
    let m : State := s.setG { s.g with yielding := s.g.yielding &&& ~~~e }
    let busy : Prop := ∃ n, n < 12 ∧ (fld h0 31 20).testBit n = true ∧ 0 < (s.g.flag n).count
    (∃ l : Fin 32, inSet chosen l = true ∧ s.g.pcv[l].toNat = a) → (∀ l : Fin 32, inSet chosen l = true → a ≤ s.g.pcv[l].toNat) →
    (∀ l : Fin 32, inSet e l = (inSet free l && (s.g.pcv[l].toNat == a))) →
    (∀ set, s.g.waitsOn a = some set → ∃ u, Waits m u (.clause set) ∧ exec .clauseIssue s = .next { u with phase := .select }) ∧
    (∀ f, s.g.waitsOn a = none → s.findWord (a % 2 ^ 56) = .fail f → ∃ t ia, exec .clauseIssue s = .next (m.raiseTrap s.cur t ia).issued ∧ t.cause = 0x0A ∧
      t.addr = BitVec.ofNat 64 (a % 2 ^ 56) ∧ t.index = 31 ∧ t.next = 31 ∧ t.act = e ∧ t.mask = e ∧ t.fetch = true) ∧
    (s.g.waitsOn a = none → s.findWord (a % 2 ^ 56) = .word h0 → s.findWord ((a + 4) % 2 ^ 56) = .word h1 →
      (if fld h0 5 5 = 1 then ∃ w, pf = some w ∧ s.findWord ((a + 8) % 2 ^ 56) = .word w else pf = none) →
      (¬sound → ∃ t, exec .clauseIssue s = trapped m t ∧ t.cause = 0x01 ∧ t.clause = a ∧ t.index = 31 ∧ t.next = 31 ∧ t.act = e) ∧
      (sound → busy → ∃ u, Waits (m.setG { m.g with header := some { addr := a, flags := fld h0 31 20 } }) u (.clause (fld h0 31 20)) ∧ exec .clauseIssue s = .next { u with phase := .select }) ∧
      (sound → ¬busy → ∃ u c, exec .clauseIssue s = .next u ∧ u.g.cl = some c ∧ c.addr = a ∧ c.active = e ∧ c.first = 0 ∧
        c.seta = fld h0 19 16 ∧ c.setb = fld h0 15 12 ∧ c.len = fld h0 11 8 ∧ c.draw = fld h0 7 6 ∧ c.stall = h1 ∧ c.pfq = pf.isSome ∧
        (∀ n, n ∈ c.staging ↔ ∃ k, k < 4 ∧ (pf.getD 0).testBit (28 + k) = true ∧ n = fld (pf.getD 0) (7 * k + 6) (7 * k)) ∧
        u.g.bp = [] ∧ u.g.pushes = 0 ∧ u.g.header = none ∧ u.g.yielding = s.g.yielding &&& ~~~e ∧
        u.g.drawNow = min (max (fld h0 7 6) s.g.drawDefault) s.g.drawMax ∧
        { u.g with cl := none, bp := s.g.bp, pushes := s.g.pushes, wait := s.g.wait, yielding := s.g.yielding, drawNow := s.g.drawNow,
                   header := s.g.header, chargedAt := s.g.chargedAt } = s.g ∧ u.g.chargedAt = none ∧
        (∀ k, k ≠ s.cur → u.gang k = s.gang k) ∧ (∀ k, { u.team k with token := (s.team k).token } = s.team k) ∧
        (∀ k, (u.team k).token ≠ (s.team k).token → u.g.drawNow = 3 ∧ (u.team k).token = true ∧
          (k = s.g.team ∨ k ∈ (s.part (s.team s.g.team).part).tokenQueue)) ∧
        (∀ k, { u.part k with tokenQueue := (s.part k).tokenQueue } = s.part k) ∧
        { u with gangs := s.gangs, teams := s.teams, parts := s.parts } = s))

/-- R327, R328: of the gangs ready for a slot that is free in the cycle, the lane slot before the uniform one, that one is chosen whose age has
reached the cap, the oldest first, then the lower slot; else the one of the team admitted first, and within a team the next after the slot's last
winner.  With none ready nothing changes.  A group that issues returns its gang's age to 0, and the end of a cycle raises by one the age of each
gang that was ready and did not issue, and frees the slots.  A core runs the teams of one partition, which sets the cap.

R109, R367, R401 to R403: PFI asks for the lines from its target on: each that is neither in L0 nor asked for gets a request, none two, and
one whose translation stands in a TLB and forbids the fetch none; a walk that succeeds is installed in the TLB, and its request goes on
to the line unless that is present or on its way; a line that arrives, from the cluster's cache or memory, once its frame is its context's, stands in
L0 and in that cache.  A request that cannot be met is dropped, once a table that
its walk must zero is the context's: a demand raises IFETCH, a PFI nothing.  That PFI's line addresses wrap at 2^56 is the
model's choice (log entry 63). -/
def Obligations.GangSelectAndFetch : Prop :=
  (∀ (s : State) (core cap : Nat),
      let lanes := s.readyFor core .lane
      let unis := s.readyFor core .uniform
      let ready := if lanes.isEmpty then unis else lanes
      let last := if lanes.isEmpty then (s.core core).lastUniform else (s.core core).lastLane
      let turn (g : Gang) : Nat := if last.all fun n => n < g.gindex then g.gindex else g.gindex + 64
      let age (g : Gang) : Nat := (s.team g.team).admitted
      ((∀ e ∈ ready, (s.part e.2.part).ageCap = cap) →
        (ready = [] → exec (.gangIssueSelect core) s = .next s) ∧
        (ready ≠ [] → ∃ u e, exec (.gangIssueSelect core) s = .next u ∧ e ∈ ready ∧ u.cur = e.1 ∧ u.phase = .issue ∧
          { u with cur := s.cur, phase := s.phase } = s ∧
          ∀ b ∈ ready, (cap ≤ b.2.age → cap ≤ e.2.age ∧ b.2.age ≤ e.2.age ∧ (b.2.age = e.2.age → e.2.slot ≤ b.2.slot)) ∧
            (e.2.age < cap → age e.2 ≤ age b.2 ∧ (age e.2 = age b.2 → turn e.2 ≤ turn b.2)))) ∧
      (s.hasGang s.cur → s.issued.g.age = 0) ∧
      (s.unpolled = [] → s.nextSelect = none → ∃ u, s.selectStep = .next u ∧ u.cyc = s.cyc + 1 ∧
        (∀ k g, tget? s.gangs k = some g →
          (u.gang k).age = if s.runnable g = true ∧ (g.turn = .lane ∨ g.turn = .uniform) then g.age + 1 else g.age) ∧
        ∀ c ∈ u.cores, c.2.laneWon = none ∧ c.2.uniWon = none)) ∧
  (∀ (s : State) (core va : Nat),
      let c := s.core core
      let first (p : FetchReq → Bool) : Option FetchReq := c.freq.find? fun r => r.va == va / 64 && p r
      let gone (t : State) (r : FetchReq) : State := t.setCore core { (t.core core) with freq := (t.core core).freq.filter fun x => x != r }
      let arrive := exec (.instructionLineArrive core va) s
      let walk := exec (.fetchWalkResult core va) s
      let drop_ := exec (.pfiLineDrop core va) s
      (∀ n off, s.inClause → s.g.latch = none → ∃ u, exec (.pfi n off) s = .next u ∧ Moved s u ∧ Ends { s with cores := u.cores } u ∧
        (∀ j, { u.core j with freq := (s.core j).freq }.still = (s.core j).still) ∧ (∀ j, j ≠ s.g.core → u.core j = s.core j) ∧
        let lineOf (i : Nat) : Nat := ((s.targetOf 20 off).toNat / 64 * 64 + 64 * i) % 2 ^ 56
        let settled (i : Nat) : Prop := ∃ e, s.fetchTlb s.g.core s.g.ctx (lineOf i) = some e ∧ ((e.permit .fetch s.g.level (lineOf i)).isSome = true ∨
          s.physOk (s.ctx s.g.ctx).part (e.phys (lineOf i)) = false ∨ (s.inL0 s.g.core s.g.ctx e (lineOf i)).isSome = true)
        let same (x y : FetchReq) : Prop := (x.va = y.va ∧ x.ctx = y.ctx) ∨ (x.walk = false ∧ y.walk = false ∧ x.pa = y.pa)
        ∃ new, (u.core s.g.core).freq = (s.core s.g.core).freq ++ new ∧
          (∀ i, i ≤ n → settled i ∨ ∃ x ∈ (u.core s.g.core).freq, (x.va = lineOf i / 64 ∧ x.ctx = s.g.ctx) ∨
            ∃ e, s.fetchTlb s.g.core s.g.ctx (lineOf i) = some e ∧ x.walk = false ∧ x.pa = e.phys (lineOf i) / 64) ∧
          new.Pairwise (fun x y => ¬same x y) ∧ (∀ x ∈ (s.core s.g.core).freq, ∀ y ∈ new, ¬same x y) ∧
          ∀ r ∈ new, r.demand = none ∧ r.ctx = s.g.ctx ∧ ∃ i, i ≤ n ∧ ¬settled i ∧ r.va = lineOf i / 64) ∧
      (first (fun r => !r.walk && s.lineReady r) = none → arrive = .next s) ∧
      (∀ r, first (fun r => !r.walk && s.lineReady r) = some r →
        let m := s.own (s.ctx r.ctx).num (r.pa / 1024) r.shared
        let held := (m.cluster (clusterOf core)).ic.find? fun l => l.line == r.pa
        let bad : Bool := m.mem.poisoned (r.pa * 64) 64
        (held.isSome = true ∨ bad = false → ∃ u l, arrive = .next u ∧ l = held.getD { line := r.pa, bytes := m.mem.bytes (r.pa * 64) 64 } ∧
          l ∈ (u.core core).l0 ∧ l ∈ (u.cluster (clusterOf core)).ic ∧ r ∉ (u.core core).freq ∧ (u.core core).tlb = c.tlb ∧
          (u.core core).l1 = c.l1 ∧ { u with cores := m.cores, clusters := m.clusters } = m) ∧
        (held = none → bad = true → r.demand = none → arrive = .next (m.setCore core ((m.core core).dropReq r)))) ∧
      (first (fun r => r.walk) = none → walk = .next s) ∧
      (∀ r, first (fun r => r.walk) = some r →
        (∀ f, s.walkFor core r.ctx va = .error f → s.ownTable r.ctx f = none → walk = .next s) ∧
        (∀ f t, s.walkFor core r.ctx va = .error f → s.ownTable r.ctx f = some t → r.demand = none → walk = .next (gone t r)) ∧
        (∀ e, s.walkFor core r.ctx va = .ok e → e.permit .fetch r.level va = none →
          let here := (s.inL0 core r.ctx e va).isSome = true ∨ ∃ x ∈ c.freq, x.walk = false ∧ x.pa = e.phys va / 64
          ∃ u, walk = .next u ∧ e ∈ (u.core core).tlb ∧ (u.core core).l0 = c.l0 ∧
            { u with cores := s.cores, clusters := s.clusters } = s ∧ (here → r ∉ (u.core core).freq) ∧
            (¬here → { r with walk := false, pa := e.phys va / 64, shared := e.shared } ∈ (u.core core).freq)) ∧
        (∀ e f, s.walkFor core r.ctx va = .ok e → e.permit .fetch r.level va = some f → r.demand = none →
          ∃ u, walk = .next u ∧ e ∈ (u.core core).tlb ∧ r ∉ (u.core core).freq ∧ { u with cores := s.cores, clusters := s.clusters } = s) ∧
        (∀ f m g w, s.walkFor core r.ctx va = .error f → s.ownTable r.ctx f = some m → r.demand = some g → (s.gang g).wait = .fetch w → w / 64 = r.va →
          s.runnable (s.gang g) = true → (s.gang g).cl.isSome = true →
          ∃ t ia, walk = .next ((gone m r).raiseTrap g t ia) ∧ t.cause = 0x0A ∧ t.addr = BitVec.ofNat 64 w ∧ t.fetch = true)) ∧
      (first (fun r => r.demand.isNone) = none → drop_ = .next s) ∧
      (∀ r, first (fun r => r.demand.isNone) = some r →
        (r.walk = false → drop_ = .next (if s.mem.poisoned (r.pa * 64) 64 then gone s r else s)) ∧
        (∀ f, r.walk = true → s.walkFor core r.ctx va = .error f → drop_ = .next (((s.ownTable r.ctx f).map fun t => gone t r).getD s)) ∧
        (∀ e, r.walk = true → s.walkFor core r.ctx va = .ok e →
          ((e.permit .fetch r.level va).isSome = true ∨ s.mem.poisoned (e.phys va / 64 * 64) 64 = true →
            ∃ u, drop_ = .next u ∧ e ∈ (u.core core).tlb ∧ r ∉ (u.core core).freq ∧ { u with cores := s.cores, clusters := s.clusters } = s) ∧
          ((e.permit .fetch r.level va).isSome = false → s.mem.poisoned (e.phys va / 64 * 64) 64 = false → drop_ = .next s))))

/-! ## The dispatcher -/

/-- R26, R39 to R41, R323, R368: the dispatcher takes the first waiting team, in its order, that some core fits, and of the cores that fit the one
with the fewest free gang slots, then the first from the start index on.  The team's gangs start there as R39 says; a queued team is placed so again, and a saved
one resumes with its gangs' registers, valid from now on.  Scratchpad that another context's team used last reads 0.  With no team to place only the
head's waiting time is noted.  That a gang starts with an empty trap frame is the model's choice (log entry 3). -/
def Obligations.TeamPlacement : Prop :=
  ∀ (s : State) (tag core : Nat), s.Sound →
    let go := exec (.teamPlace tag) s
    let placed (u : State) (tk grk num : Nat) : Prop :=
      let t := u.team tk
      let r := (s.grid grk).record
      core ∈ s.openCores tag ∧ t.life = .resident ∧ t.core = core ∧ t.grid = grk ∧ t.num = num ∧ t.spadLen = r.spad ∧ t.stopping = none ∧
      (r.spad % 256 = 0 → ∀ x, x < r.spad → tget (s.core core).spadOwner (t.spadBase / 256 + x / 256) 0 ≠ t.ctx + 1 → t.spad.byte x = 0) ∧
      t.gangs.length = (r.threads + 31) / 32 ∧
      ∀ i k, t.gangs[i]? = some k →
        let g := u.gang k
        g.team = tk ∧ g.gindex = i ∧ g.core = core ∧ g.slot < 48 ∧ g.grid = grk ∧ g.ctx = t.ctx ∧ g.level = (s.grid grk).level ∧
        (∀ l : Fin 32, inSet g.live l = decide (32 * i + l.val < r.threads) ∧
          g.pcv[l] = if 32 * i + l.val < r.threads then BitVec.ofNat 64 r.entry else 0xFFFFFFFFFFFFFFFF) ∧
        (g.sreg 0).val = r.args ∧ (g.sreg 1).val = BitVec.ofNat 64 num ∧
        (g.sreg 2).val = BitVec.ofNat 64 (r.threads * 2 ^ 16 + (r.threads + 31) / 32 * 2 ^ 8 + i) ∧
        (g.sreg 3).val = BitVec.ofNat 64 (r.teams * 2 ^ 32 + (s.grid grk).depth) ∧ (∀ n, 4 ≤ n → n < 256 → g.sreg n = {}) ∧
        (∀ n, g.vreg n = .u 0) ∧ (∀ n : Fin 8, g.m[n] = 0) ∧ (∀ n : Fin 8, g.st[n] = {}) ∧ (∀ n : Fin 12, g.cf[n] = {}) ∧
        (∀ l : Fin 32, g.xf[l] = 0) ∧ g.ef = r.ef ∧ g.seed = r.seed ∧ g.ctr = 0 ∧ g.va = s.ns ∧ g.pend = none ∧ g.floor = r.wfloor ∧
        g.drawMax = r.drawMax ∧ g.frame = {} ∧ g.cl = none ∧ g.wait = .none
    (∀ w, s.placeable tag = some (w, core) → (∃ l r, s.dispatchOrder tag = l ++ w :: r ∧ ∀ x ∈ l, s.fitting tag x = []) ∧
      core ∈ s.fitting tag w ∧ ∀ x ∈ s.fitting tag w, (s.freeSlots core).length ≤ (s.freeSlots x).length ∧
        ((s.freeSlots core).length = (s.freeSlots x).length → (core + Config.cores - (s.part tag).start) % Config.cores ≤
          (x + Config.cores - (s.part tag).start) % Config.cores)) ∧
    (s.placeable tag = none → ∃ u, go = .next u ∧ { u with teams := s.teams, grids := s.grids } = s ∧
      (∀ k, { u.team k with headSince := (s.team k).headSince } = s.team k) ∧ ∀ k, { u.grid k with headSince := (s.grid k).headSince } = s.grid k) ∧
    (∀ grk, s.placeable tag = some (.grid grk, core) → ∃ u, go = .next u ∧ placed u s.nextKey grk (s.grid grk).nextTeam ∧
      (u.grid grk).nextTeam = (s.grid grk).nextTeam + 1 ∧ u.mem = s.mem ∧ u.ops = s.ops ∧ ∀ e ∈ s.gangs, e.1 < s.nextKey → u.gang e.1 = e.2) ∧
    (∀ tk, s.placeable tag = some (.team tk, core) → (s.team tk).life = .queued → (s.team tk).gangs = [] → (s.team tk).stopping = none →
      ∃ u, go = .next u ∧ placed u tk (s.team tk).grid (s.team tk).num) ∧
    (∀ tk, s.placeable tag = some (.team tk, core) → (s.team tk).life = .saved →
      ∃ u, go = .next u ∧ (u.team tk).life = .resident ∧ (u.team tk).core = core ∧ (u.team tk).spad = (s.team tk).spad ∧
        (u.team tk).acc = (s.team tk).acc ∧ (u.team tk).bars = (s.team tk).bars ∧ (u.team tk).handles = (s.team tk).handles ∧
        ∀ e ∈ s.gangs, e.2.team = tk → e.2.life = .saved → ∃ slot, slot < 48 ∧
          u.gang e.1 = { e.2 with life := .resident, core := core, slot := slot, va := s.ns, pend := none, waitSince := s.ns, turn := .fresh,
                                  lastIssue := some s.cyc, placedCyc := s.cyc })

/-- R42, R46, R107: a gang with no live lane retires once its completion time has passed and nothing of it that retirement waits for is in flight:
it holds its slot and its slabs no more.  A gang that still has a lane, or is no longer on a core, stays.

R322, R324: a full millisecond of waiting raises the age of a grid of the partition that has teams to place by one, up to 7; a team that has stood
at the head for 100 µs without fitting reserves the core with the most free slots, when none is reserved.

R63: when every resident gang of a core stalls on slabs or waits, one of them stalling, and that has been so for 2,048 cycles, the core's youngest team is saved, or, when
the core has one team, the stalled gang of lowest GINDEX raises SHAPE with fault address 1; else nothing happens. -/
def Obligations.RetireAgeAndDeadlock : Prop :=
  (∀ (s : State) (k : Nat) (g : Gang), s.Sound → tget? s.gangs k = some g →
      (g.life = .resident → g.live = 0 → (∀ p, g.pend = some p → p ≤ s.ns) →
        (∀ o ∈ s.ops, o.gang = k → 12 ≤ o.flag ∧ o.kind.isAccess = false ∧ o.holdsTrap = false) →
        ∃ u, exec (.gangRetire k) s = .next u ∧ (∀ g', tget? u.gangs k = some g' → g'.life = .retired ∧ g'.slabs = 0) ∧
          u.mem = s.mem ∧ u.ops = s.ops ∧ ∀ j, j ≠ k → ∀ g', tget? u.gangs j = some g' → g'.v = (s.gang j).v ∧ g'.s = (s.gang j).s) ∧
      (g.life ≠ .resident ∨ g.live ≠ 0 → exec (.gangRetire k) s = .next s)) ∧
  (∀ (s : State) (tag : Nat),
      (∃ u, exec (.gridAging tag) s = .next u ∧ { u with grids := s.grids } = s ∧ ∀ k gr, tget? s.grids k = some gr →
        tget? u.grids k = some (if gr.part = tag ∧ gr.nextTeam < gr.record.teams ∧ gr.ageMark + 1000000 ≤ s.ns then
          { gr with age := min 7 (gr.age + 1), ageMark := gr.ageMark + 1000000 } else gr)) ∧
      (∀ w r, s.dispatchOrder tag = w :: r →
        let held : Prop := ∃ t0, s.headTime w = some t0 ∧ t0 + 100000 ≤ s.ns ∧ s.fitting tag w = [] ∧ (s.part tag).reservation = none ∧
          s.openCores tag ≠ []
        (held → ∃ c, c ∈ s.openCores tag ∧ (∀ x ∈ s.openCores tag, (s.freeSlots x).length ≤ (s.freeSlots c).length) ∧
          exec (.coreReservation tag) s = .next (s.setPart tag { s.part tag with reservation := some (w.ident, c) })) ∧
        (¬held → exec (.coreReservation tag) s = .next s))) ∧
  (∀ (s : State) (core : Nat),
      let ts := s.teams.filter fun e => e.2.life == .resident && e.2.core == core
      let stalls (g : Gang) : Prop := g.wait = .slab ∧ g.turn ≠ .lane ∧ g.turn ≠ .uniform
      let stuck : Prop := (∃ e ∈ s.residents core, stalls e.2) ∧ (∀ e ∈ s.residents core, stalls e.2 ∨ s.isWaiting e.1 e.2 = true) ∧
        ∃ c, (s.core core).stuckSince = some c ∧ c + 2048 ≤ s.cyc
      (¬stuck → exec (.slabDeadlock core) s = .next s) ∧
      (stuck → ∀ e, ts = [e] → ∃ k g x, (k, g) ∈ s.residents core ∧ g.wait = .slab ∧
        (∀ y ∈ s.residents core, y.2.wait = .slab → g.gindex ≤ y.2.gindex) ∧
        exec (.slabDeadlock core) s = .next (s.raiseTrap k x 0) ∧ x.cause = 0x06 ∧ x.addr = 1) ∧
      (stuck → ∀ e f r, ts = e :: f :: r → ∃ y ∈ ts, (∀ z ∈ ts, z.2.admitted ≤ y.2.admitted) ∧
        ∃ u, exec (.slabDeadlock core) s = .next u ∧
          (y.2.stopping.isSome = true → u = s) ∧ (y.2.stopping = none → (s.team y.1).life = .resident → u.toldToLeave y.1 (.save .ready))))

/-- R336, R338 to R340, R370: the teams that a step takes off a core are told to leave it.  A head with a latency bound that has stood for 1 µs
without fitting, and that some core would fit without teams of its own context and lower declared priority, pre-empts the fewest such teams of
one core, which is reserved for it; teams that leave the core already count as gone (log entry 46, DEDUCED).  Each is drained, flushed or saved,
whichever is eligible, meets the bound and takes least, in this order at a tie, and saved when none meets it; a drained team leaves at its barrier or at its deadline; a team all of
whose gangs have waited for the swap threshold leaves with what wakes it; and at the end of its time slice a context leaves to another that would
then fit, and its slice clock starts afresh.  Where the condition does not hold nothing changes. -/
def Obligations.Preemption : Prop :=
  ∀ (s : State) (tag core ck tk : Nat),
    let thr := (s.ctx (s.team tk).ctx).swapthr * 1000
    let here := s.ctxTeams core ck
    let x := s.ctx ck
    (s.preemptPlan tag = none → exec (.preemptRequest tag) s = .next s) ∧
    (let cores : List Nat := match (s.part tag).reservation with
      | some (_, c) => [c]
      | none => s.openCores tag
    let mayTake (w : Waiting) (c t : Nat) : Prop := ∃ tm, (t, tm) ∈ s.teams ∧ tm.life = .resident ∧ tm.core = c ∧ tm.ctx = s.waitingCtx w ∧
      (s.grid (s.team t).grid).record.queue < (s.waitingRec w).queue ∧ tm.stopping = none ∧ tm.drainBy = none
    let fitsWithout (w : Waiting) (c : Nat) (ts : List Nat) : Bool := (s.asIfSaved (s.leaving c ++ ts)).fits c w.key? (s.waitingRec w)
    let head (w : Waiting) : Prop := (∃ r, s.dispatchOrder tag = w :: r) ∧ (∃ t0, s.headTime w = some t0 ∧ t0 + 1000 ≤ s.ns) ∧
      s.fitting tag w = [] ∧ (s.waitingRec w).lambda ≠ 0 ∧ (∀ x c, (s.part tag).reservation = some (x, c) → x = w.ident) ∧
      s.mayReserve w = true
    (∀ w, head w → (∀ c ∈ cores, fitsWithout w c [] = false) →
      (∃ c ∈ cores, ∃ ts : List Nat, (∀ t ∈ ts, mayTake w c t) ∧ fitsWithout w c ts = true) → ∃ c ts, s.preemptPlan tag = some (w, c, ts)) ∧
    (∀ w c ts, s.preemptPlan tag = some (w, c, ts) → head w ∧ c ∈ cores ∧ ts ≠ [] ∧ (∀ t ∈ ts, mayTake w c t) ∧ fitsWithout w c ts = true ∧
      ∀ c' ∈ cores, ∀ ts' : List Nat, ts'.Nodup → (∀ t ∈ ts', mayTake w c' t) → fitsWithout w c' ts' = true → ts.length ≤ ts'.length)) ∧
    (∀ w c ts, s.preemptPlan tag = some (w, c, ts) → ts.Nodup → ∃ u, exec (.preemptRequest tag) s = .next u ∧
      (w.ident ∉ ts → (u.part tag).reservation = some (w.ident, c)) ∧
      ∀ t ∈ ts, (s.team t).life = .resident → (s.team t).stopping = none →
        let tm := s.team t
        let gr := s.grid tm.grid
        let bound := (s.waitingRec w).lambda
        let slabs := ((s.teamGangs t).map fun e => e.2.slabs).sum
        let save := 1500 + (gr.record.spad + 256 * slabs + 16384 * gr.record.accs + 4096 * gr.record.gangs) / 128
        let drain : Option Nat :=
          if 0 < tm.barDone then some ((tm.barLast - tm.barFirst) / tm.barDone - (s.ns - tm.barLast) + save)
          else if 0 < gr.lives then some (gr.lifeSum / gr.lives - (s.ns - tm.placedNs)) else none
        let mayFlush : Prop := gr.record.restart = true ∧ tm.openChildren = 0
        let drains : Prop := ∃ d, drain = some d ∧ d ≤ bound ∧ (mayFlush → d ≤ 500) ∧ d ≤ save
        let flushes : Prop := mayFlush ∧ 500 ≤ bound ∧ (∀ d, drain = some d → 500 < d) ∧ 500 ≤ save
        (drains → (u.team t).drainBy = some (s.ns + bound) ∧ (u.team t).stopping = none) ∧ (flushes → u.toldToLeave t .flush) ∧
        (¬drains → ¬flushes → u.toldToLeave t (.save .ready))) ∧
    ((s.team tk).life = .resident → (s.team tk).stopping = none → ∀ d, (s.team tk).drainBy = some d →
      (s.allWait tk Wait.atBarrier s.ns = true → ∃ u, exec (.drainDeadline tk) s = .next u ∧ u.toldToLeave tk (.save (s.barrierWake tk))) ∧
      (s.allWait tk Wait.atBarrier s.ns = false → d ≤ s.ns → ∃ u, exec (.drainDeadline tk) s = .next u ∧ u.toldToLeave tk (.save .ready)) ∧
      (s.allWait tk Wait.atBarrier s.ns = false → s.ns < d → exec (.drainDeadline tk) s = .next s)) ∧
    ((s.team tk).life = .resident → (s.team tk).stopping = none → thr ≠ 0 → thr ≤ s.ns →
      (s.allWait tk Wait.atBarrier (s.ns - thr) = true → ∃ u, exec (.swapOut tk) s = .next u ∧ u.toldToLeave tk (.save (s.barrierWake tk))) ∧
      (s.allWait tk Wait.atBarrier (s.ns - thr) = false → s.allWait tk Wait.atChild (s.ns - thr) = true →
        ∃ u, exec (.swapOut tk) s = .next u ∧ u.toldToLeave tk (.save (s.childWake tk))) ∧
      (s.allWait tk Wait.atBarrier (s.ns - thr) = false → s.allWait tk Wait.atChild (s.ns - thr) = false → exec (.swapOut tk) s = .next s)) ∧
    (∀ clock, tget? (s.core core).slices ck = some clock →
      (x.tslice = 0 ∨ here = [] ∨ clock.now s.ns < x.tslice * 1000 → exec (.timeSliceExpiry core ck) s = .next s) ∧
      (x.tslice ≠ 0 → here ≠ [] → x.tslice * 1000 ≤ clock.now s.ns →
        let other : Prop := ∃ w ∈ s.dispatchOrder x.part, s.waitingCtx w ≠ ck ∧ s.mayReserve w = true ∧
          (s.asIfSaved here).fits core w.key? (s.waitingRec w) = true
        ∃ u, exec (.timeSliceExpiry core ck) s = .next u ∧
          (¬other → { u with cores := s.cores } = s ∧ tget? (u.core core).slices ck = some { since := some s.ns }) ∧
          (other → tget? (u.core core).slices ck = none ∧ ∀ t ∈ here, (s.team t).life = .resident → (s.team t).stopping = none → u.toldToLeave t (.save .ready))))

/-! ## Ladles and accesses from outside -/

/-- R156 to R158, R204 to R211, R367, R395, R397: a free ladle takes the card at HEAD of a chain that no waiting one exceeds in priority, or, when the
block is poisoned, the oldest waiting: HEAD becomes the card's link, or a block that this empties is cleared; the job bears the number that CHAPP gave the card, and has edges
from the earlier jobs it shares bytes with that have not ended and completed, or failed; the job of a card that a fenced ladle gave back keeps its
edges, and takes those from jobs accepted meanwhile that do not wait for it.  A job whose edges have ended and completed makes its accesses in
order, and ends with an earlier failure's STATUS, its card's, or that of its accesses, which its card then holds; in a stopped partition it goes no further.
DONE is the number up to which every job has ended and completed.  STATUS 5 of a card that stands twice, the oldest card of a poisoned block, and
the edges of a card given back are the model's reading (log entry 43). -/
def Obligations.LadleJobs : Prop :=
  ∀ (s : State), s.mem.wf = true →
    (∀ chain ladle c e s1, tget? s.chains chain = some c → s.blockLook c = some (e, s1) →
      let tag := (s.ctx c.ctx).part
      let pb := e.phys c.addr
      let head := s.headCard c
      let k := c.cardAt head
      let r := s1.readCard { id := k.job.getD s1.nextKey, ctx := c.ctx, chain := chain, card := head, seq := k.seq, ladle := ladle,
                             level := k.level }
      let first : Prop := ∀ x ∈ s.chains, s.waitingCard tag x.2 = true → s.chainPrio x.2 ≤ s.chainPrio c
      (s.waitingCard tag c = false ∨ ¬first ∨ s.ladleFree tag ladle = false ∨ (s.blockBad c = false ∧ r.1.stop ≠ none) →
        exec (.ladleAccept chain ladle) s = .next s) ∧
      (s.waitingCard tag c = true → first → s.ladleFree tag ladle = true → s.blockBad c = true ∨ r.1.stop = none →
        ∃ u j, exec (.ladleAccept chain ladle) s = .next u ∧ j ∈ u.jobs ∧ j.id = k.job.getD s1.nextKey ∧ j.back = false ∧ j.ctx = c.ctx ∧ j.chain = chain ∧
          j.card = head ∧ j.seq = k.seq ∧ j.ladle = ladle ∧ j.level = k.level ∧ j.status = none ∧
          (k.job = none → (∀ x ∈ s.jobs, x.id < s1.nextKey ∧ ∀ n ∈ x.deps, n < s1.nextKey) →
            (∀ x ∈ s.jobs, x.status = none ∨ s.ns < x.comp → edge x j = true → x.id ∈ j.deps) ∧
            ∀ n ∈ j.deps, ∃ x ∈ s.jobs, x.id = n ∧ edge x j = true ∧ (x.status = none ∨ s.ns < x.comp ∨ x.status ≠ some 0)) ∧
          (∀ q o, k.job = some q → s.jobs.find? (fun x => x.id == q) = some o → o.deps.all j.deps.contains = true ∧
            let waits := s.followers s.jobs.length [q]
            (∀ x ∈ s.jobs, x.id ∉ waits → x.status = none ∨ s.ns < x.comp → edge x j = true → x.id ∈ j.deps) ∧
            ∀ n ∈ j.deps, n ∈ o.deps ∨ n ∉ waits ∧ ∃ x ∈ s.jobs, x.id = n ∧ edge x j = true) ∧
          (k.twice = true ∨ (∃ x ∈ s.jobs, x.id ≠ j.id ∧ x.ctx = c.ctx ∧ x.card = head ∧ x.status = none) → j.invalid = some 5) ∧
          (∀ o, s.op? k.op = some o → o.kind.isChapp = true → o.gang = k.gang → u.ops = s.ops.filter fun x => !(x.id == o.id)) ∧
          (∃ cs, tget? u.chains chain = some { c with cards := cs } ∧
            cs.map (fun x => { x with twice := false }) = (c.cards.erase k).map fun x => { x with twice := false }) ∧
          (s.blockBad c = true → u.mem = s1.mem ∧ (j.invalid = some 1 ∨ j.invalid = some 5)) ∧
          (s.blockBad c = false → r.1.st.mem.word pb = r.1.st.mem.word (pb + 8) → u.mem.word pb = 0 ∧ u.mem.word (pb + 8) = 0) ∧
          (s.blockBad c = false → r.1.st.mem.word pb ≠ r.1.st.mem.word (pb + 8) → ∀ m bs,
            ({ st := r.1.st } : Mover).read c.ctx k.level head 8 = (m, bs) → m.stop = none → bs.length = 8 →
            (u.mem.word pb).toNat = wordOfBytes bs))) ∧
    (∀ job turn j, (s.jobs.find? fun j => j.id == job && j.status.isNone && !j.back) = some j →
      let deps := s.depsOf j
      let go := exec (.ladleJobEnd job turn) s
      let r := Mover.act j turn.peer (min turn.upto j.total - j.made) j.made { st := s, comp := j.comp }
      let j1 : Job := { j with made := r.2, started := true, comp := r.1.comp }
      (¬(∀ x ∈ deps, x.status.isSome = true ∧ x.comp ≤ s.ns) ∨ (s.part (s.ctx j.ctx).part).stopped = true → go = .next s) ∧
      (s.depsDone j = true → (s.part (s.ctx j.ctx).part).stopped = false →
        (∀ c, (deps.findSome? fun x => if x.status = some 0 then none else x.status) = some c → go = .next (s.endJob j c s.ns)) ∧
        ((∀ x ∈ deps, x.status = some 0) →
          (∀ c, j.invalid = some c → go = .next (s.endJob j c s.ns)) ∧
          (j.invalid = none → (∀ c a, r.1.stop = some (.fail c a) → go = .next (r.1.st.endJob j1 c r.1.comp)) ∧
            (r.1.stop = none ∨ r.1.stop = some .wait → go = .next (if r.2 = j.total then r.1.st.endJob j1 0 r.1.comp else r.1.st.setJob j1))))) ∧
      (j.kind = 1 → j.made = 0 → 0 < turn.upto → (regionOf j.reads 0).len = 8 → (regionOf j.writes 0).len = 8 → (regionOf j.reads 0) ∈ j.reads →
        (regionOf j.writes 0) ∈ j.writes → ∀ er ew, let ra := (regionOf j.reads 0).base; let wa := (regionOf j.writes 0).base
        ra % 8 = 0 → wa % 8 = 0 → s.ladleLook j.ctx j.level ra .read = .ok er → s.ladleLook j.ctx j.level wa .write = .ok ew →
        s.newOwner (s.ctx j.ctx).num (er.phys ra / 65536) er.shared = none → s.newOwner (s.ctx j.ctx).num (ew.phys wa / 65536) ew.shared = none →
        s.mem.poisoned (er.phys ra) 8 = false →
        r.1.stop = none ∧ r.2 = j.total ∧ r.1.st.mem.word (ew.phys wa) = s.mem.word (er.phys ra))) ∧
    (∀ (j : Job) (status comp : Nat), status < 2 ^ 32 →
      let u := s.endJob j status comp
      let m := ({ st := s } : Mover).write j.ctx j.level (j.card + 0x18) (bytesOfNat 4 status)
      (m.stop = some .wait ∨ (∃ c, tget? s.chains j.chain = some c ∧ m.st.blockWaits c = true) → u = s.setJob j) ∧
      (m.stop ≠ some .wait → (∀ c, tget? s.chains j.chain = some c → m.st.blockWaits c = false) →
        (∀ x ∈ u.jobs, x.id = j.id → x.status = some status ∧ comp ≤ x.comp) ∧
        (∀ c, tget? s.chains j.chain = some c → ∃ t, comp ≤ t ∧
          tget? u.chains j.chain = some { c with ended := if j.seq = 0 then c.ended else c.ended ++ [(j.seq, t)] }) ∧
        (∀ c e t, tget? s.chains j.chain = some c → m.st.blockLook c = some (e, t) → c.addr % 64 = 0 → 6 ≤ e.lg → status ≠ 0 → j.seq ≠ 0 →
          j.seq < 2 ^ 64 → t.mem.word (e.phys c.addr + 0x20) = 0 ∨ j.seq < (t.mem.word (e.phys c.addr + 0x20)).toNat →
          u.mem.word (e.phys c.addr + 0x20) = BitVec.ofNat 64 j.seq)) ∧
      (∀ e t, j.card % 8 = 0 → s.ladleLook j.ctx j.level (j.card + 0x18) .write = .ok e → s.ownNow j.ctx e (j.card + 0x18) = some t →
        tget? s.chains j.chain = none → u.mem.value (e.phys (j.card + 0x18)) 4 = status)) ∧
    (∀ chain c, tget? s.chains chain = some c → ∃ n, c.done ≤ n ∧
      (∀ k, c.done < k → k ≤ n → ∃ e ∈ c.ended, e.1 = k ∧ e.2 ≤ s.ns) ∧ (∀ e ∈ c.ended, e.1 = n + 1 → s.ns < e.2) ∧
      (n = c.done ∨ s.blockLook c = none → exec (.chainSequenceAdvance chain) s = .next s) ∧
      (n ≠ c.done → ∀ e t, s.blockLook c = some (e, t) → ∃ u, exec (.chainSequenceAdvance chain) s = .next u ∧
        tget? u.chains chain = some { c with done := n, ended := c.ended.filter fun e => n < e.1 } ∧
        u.mem.word (e.phys (c.addr + 0x18)) = BitVec.ofNat 64 n))

/-- R163, R430, R431, R436, R437: a peer's job for an identifier bound in the partition of the port it came on joins the accesses from outside, and any
other, and one whose range its context may not reach, is answered with STATUS 8, the tables its walks had to zero being zeroed (R367); such an access is performed at its banks when its flow and its frames are ready, and answered once its completion time
has come.  A device without its number, and a port that opens no flow, take no peer's job. -/
def Obligations.OutsideAccesses : Prop :=
  ∀ (s : State), s.mem.wf = true →
    (∀ p : PeerJob, let go := exec (.peerJobReceive p) s
      (s.dev.site.device = 0xFFFFF ∨ s.dev.stage < 4 ∨ s.portOpens p.port = false → go = .next s) ∧
      (s.dev.site.device ≠ 0xFFFFF → 4 ≤ s.dev.stage → s.portOpens p.port = true →
        ((∀ e ∈ s.ctxs, e.2.job = some p.job → p.job = 0 ∨ e.2.stopped = true ∨
            s.partOf p.port ≠ some (e.2.part, s.part e.2.part)) → go = .next (s.send (.peerAnswer p.port 8 []))) ∧
        (∀ ck, s.boundCtx p.port p.job = some ck →
          let f := p.fmt
          let look := s.outsideItems ck 1 (peerCut p f).2 (peerCut p f).1 fun a =>
            (p.data.drop (a - p.addr)).take (if p.kind = 9 then f.fmt.width / 8 else 8 - a % 8)
          (∀ l, peerOk p f = true → look = .ok l → ∃ e : Inbound, go = .next { s with nextKey := s.nextKey + 1, inbound := s.inbound ++ [e] } ∧
            e.id = s.nextKey ∧ e.ctx = ck ∧ e.part = (s.ctx ck).part ∧ e.peer = some p ∧ e.items = l ∧ e.performed = false ∧
            (e.ordered = true ↔ p.kind ≠ 8 ∧ p.kind ≠ 9)) ∧
          (peerOk p f = false → go = .next (s.send (.peerAnswer p.port 8 []))) ∧
          (∀ c, peerOk p f = true → look = .error c → go = .next ((s.zeroWalks ck (peerCut p f).1).send (.peerAnswer p.port 8 [])))))) ∧
    (∀ id e, (s.inbound.find? fun e => e.id == id) = some e →
      let go := exec (.inboundWrite id) s
      (e.performed = true → e.comp ≤ s.ns → ∃ u, go = .next u ∧ u.inbound = s.inbound.filter (fun x => x.id != id) ∧ u.mem = s.mem ∧
        (∀ n, e.sess = some n → u.out = s.out ++ [.reply n 1 0x0020 e.seq 0 []]) ∧
        (∀ p, e.sess = none → e.peer = some p → u.out = s.out ++ [.peerAnswer p.port e.status e.answer])) ∧
      (e.performed = true → s.ns < e.comp → go = .next s) ∧
      (e.performed = false → s.inboundReady e = false → go = .next s) ∧
      (e.performed = false → s.inboundReady e = true → ∃ u, go = .next u ∧ (∀ x ∈ u.inbound, x.id = id → x.performed = true) ∧
        ∀ i, e.items = [i] → e.peer = none → (∀ d ∈ i.dirt, d.leaf2 = none) →
          s.newOwner (s.ctx e.ctx).num (i.pa / 65536) i.shared = none →
          (∀ k p, i.pieces[k]? = some p → u.mem.byte (i.pa + k) = p.byte) ∧
          (let m := (s.ownLeaves e.ctx i.dirt).mem
          ∀ x, x < i.pa ∨ i.pa + i.pieces.length ≤ x →
            u.mem.byte x = if ∃ d ∈ i.dirt, d.leaf1 = some x then m.byte x ||| 0x40 else m.byte x) ∧
          ∀ x ∈ u.inbound, x.id = id → x.status = 0 ∧ x.comp = max (s.lineExpiry (s.ctx e.ctx).part i.pa) s.ns))

/-! ## The load promise -/

/-- R405, R407 to R410, R412: a step boundary moves each of the rail's cores towards its need, never past it: levels fall by at most the ramp's fall and
rise by at most its rise in all, the sum does not rise over the ceiling nor fall under the floor, and where neither bounds it every need is met.  The
step number goes on, a step that leaves a need unmet is counted, and nothing but the rail's levels, its marks and its partition's energies changes.
The boundaries that have come take place each in its turn, and none before its instant.

R411, R426: a power sample, one for each 10 µs interval, joins the window and the records of the module and of its partitions; at the end of a
millisecond of PTP time each rail whose unit power is known takes as floor and ceiling the units that its share of the samples' average, less and plus
the slew, stands for, the ceiling no lower than the MMAs in flight; another takes 0 and RAILCAP.  A window without a sample changes no limit (log entry 48). -/
def Obligations.BellowsAndPower : Prop :=
  (∀ (s : State) (rail : Nat),
      (12 ≤ rail ∨ s.stepNow ≤ (s.rail rail).step → exec (.bellowsStep rail) s = .next s) ∧
      (rail < 12 → (s.rail rail).step < s.stepNow → s.railSteady rail = false →
        exec (.bellowsStep rail) s = exec (.bellowsStep rail) (s.boundary rail)) ∧
      (rail < 12 → (s.rail rail).step + 1 = s.stepNow → s.railSteady rail = true →
        ∃ u, exec (.bellowsStep rail) s = .next u ∧ (u.rail rail) = { s.rail rail with step := s.stepNow } ∧
          (∀ r, r ≠ rail → u.rail r = s.rail r) ∧ { u with rails := s.rails, parts := s.parts } = s) ∧
      (rail < 12 → (s.rail rail).step + 1 = s.stepNow → s.railSteady rail = false → ∃ u, exec (.bellowsStep rail) s = .next u ∧
        let need (k : Nat) : Nat := s.need s.stepNow k
        let up := ((railCores rail).map fun k => need k - (s.core k).level).sum
        let down := ((railCores rail).map fun k => (s.core k).level - need k).sum
        (∀ k ∈ railCores rail, min (s.core k).level (need k) ≤ (u.core k).level ∧ (u.core k).level ≤ max (s.core k).level (need k)) ∧
        ((railCores rail).map fun k => (u.core k).level - (s.core k).level).sum ≤ s.dev.rise ∧
        ((railCores rail).map fun k => (s.core k).level - (u.core k).level).sum ≤ s.dev.fall ∧
        u.railSum rail ≤ max (s.railSum rail) (s.ceiling rail) ∧ min (s.railSum rail) (s.rail rail).floor ≤ u.railSum rail ∧
        (up ≤ s.dev.rise → s.railSum rail + up ≤ s.ceiling rail → ∀ k ∈ railCores rail, need k ≤ (u.core k).level) ∧
        (down ≤ s.dev.fall → (s.rail rail).floor + down ≤ s.railSum rail → ∀ k ∈ railCores rail, (u.core k).level ≤ need k) ∧
        (u.rail rail).step = s.stepNow ∧
        ((∀ k ∈ railCores rail, (u.core k).level = need k) → (u.rail rail).events = (s.rail rail).events) ∧
        ((∃ k ∈ railCores rail, (u.core k).level ≠ need k) → (u.rail rail).events = (s.rail rail).events + 1) ∧
        (∀ k, k ∉ railCores rail → u.core k = s.core k) ∧ (∀ r, r ≠ rail → u.rail r = s.rail r) ∧
        { u with cores := s.cores, rails := s.rails, parts := s.parts } = s)) ∧
  (∀ (s : State) (p : PowerReading) (energy : Nat) (shares : List Nat),
      (s.ns / 10000 ≤ s.dev.sampleAt → exec (.powerSample p) s = .next s) ∧
      (s.dev.sampleAt < s.ns / 10000 → ∃ u, exec (.powerSample p) s = .next u ∧ { u with dev := s.dev, parts := s.parts } = s ∧
        u.dev = { s.dev with sampleAt := s.ns / 10000, samples := s.dev.samples + 1, sampleSum := s.dev.sampleSum + p.watts,
                             pmin := (p.watts :: s.dev.pmin.toList).min?, pmax := (p.watts :: s.dev.pmax.toList).max? } ∧
        ∀ tag, (tget? s.parts tag = none → tget? u.parts tag = none) ∧
          ∀ q, tget? s.parts tag = some q →
            let own := (p.parts.filter fun e => e.1 == tag).map (·.2)
            u.part tag = { q with pmin := (q.pmin.toList ++ own).min?, pmax := (q.pmax.toList ++ own).max? }) ∧
      (s.ptp / 1000000 ≤ s.dev.windowAt → exec (.slowLimitWindow energy shares) s = .next s) ∧
      (s.dev.windowAt < s.ptp / 1000000 → ∃ u, exec (.slowLimitWindow energy shares) s = .next u ∧ { u with dev := s.dev, rails := s.rails } = s ∧
        u.dev = { s.dev with windowAt := s.ptp / 1000000, samples := 0, sampleSum := 0 } ∧ (s.dev.samples = 0 → u.rails = s.rails) ∧
        (0 < s.dev.samples → ∀ i, i < 12 →
          let average := s.dev.sampleSum / s.dev.samples
          let unit_ := s.dev.site.milliWattsPerUnit.getD i 0
          let known : Prop := unit_ ≠ 0 ∧ energy ≠ 0
          let units (w : Nat) : Nat := w * shares.getD i 0 * 1000 / energy / unit_
          let least := ((railCores i).map s.running).sum
          (known → (u.rail i).floor = units (average - s.dev.slew) ∧ (u.rail i).cap = max (units (average + s.dev.slew)) least) ∧
          (¬known → (u.rail i).floor = 0 ∧ (u.rail i).cap = s.dev.railCap) ∧
          { u.rail i with floor := (s.rail i).floor, cap := (s.rail i).cap } = s.rail i)))

/-- R418 to R421: at a coal interval's end, every 10 µs of the lease clock, each of the rail's clusters that ran raised gives up a permit, and one that stood idle gains one, up to 64;
of those with permits at most two levels are granted in all, none above its request; one without falls by a level.  A droop stretches a
cluster's clock and is counted, one within a stretch is part of it and counts nothing, which is the model's reading (log entry 50), and recovery ends it after 32 cycles; a pipe enters near-threshold mode when it was busy for less than an eighth of 4,096 cycles and no
context or site forbids it, and leaves it when it was busy for half of 256.

R422, R423: at 110 °C in any stack the device returns to stage 0; else a stack is warm from 85 °C and hot from 95 °C until 5 °C below, and the clusters
of a hot stack's slice stand at level 0.  A hot page of a warm stack goes, with its bytes, to the coolest other stack of its partition that is below
85 °C and has room; every entry that named it names the new place, and no TLB keeps a translation of the partition.  A stack's pages move once in a
millisecond. -/
def Obligations.ClocksAndTemperature : Prop :=
  (∀ (s : State) (n : Nat),
      (12 ≤ n ∨ s.ns / 10000 ≤ (s.rail n).coalAt → exec (.coalInterval n) s = .next s) ∧
      (n < 12 → s.ns / 10000 = (s.rail n).coalAt + 1 → ∃ u, exec (.coalInterval n) s = .next u ∧
        { u with clusters := s.clusters, rails := s.rails } = s ∧ u.rail n = { s.rail n with coalAt := s.ns / 10000 } ∧
        (∀ r, r ≠ n → u.rail r = s.rail r) ∧
        let ks := (List.range 8).map (8 * n + ·)
        let left (k : Nat) : Nat := let c := s.cluster k
          if 0 < c.level ∨ c.ranHigh = true then c.permits - 1 else if c.busy = true then c.permits else min 64 (c.permits + 1)
        let able := ks.filter fun k => decide (0 < left k)
        (∀ k, k ∉ ks → u.cluster k = s.cluster k) ∧
        (∀ k ∈ ks, (u.cluster k).permits = left k ∧ (u.cluster k).ranHigh = false ∧ (u.cluster k).busy = false ∧
          (left k = 0 → (u.cluster k).level = (s.cluster k).level - 1) ∧ (0 < left k → (u.cluster k).level ≤ s.clusterRequest k) ∧
          { u.cluster k with permits := (s.cluster k).permits, level := (s.cluster k).level, ranHigh := (s.cluster k).ranHigh,
                             busy := (s.cluster k).busy } = s.cluster k) ∧
        (able.map fun k => (u.cluster k).level).sum ≤ 2 ∧
        ((able.map s.clusterRequest).sum ≤ 2 → ∀ k ∈ able, (u.cluster k).level = s.clusterRequest k)) ∧
      ((s.cluster n).stretched = none →
        exec (.droop n) s = .next (s.setCluster n { s.cluster n with stretched := some s.cyc, droops := (s.cluster n).droops + 1 })) ∧
      ((s.cluster n).stretched.isSome = true → exec (.droop n) s = .next s) ∧
      (∀ t, (s.cluster n).stretched = some t → t + 32 ≤ s.cyc →
        exec (.droopRecovery n) s = .next (s.setCluster n { s.cluster n with stretched := none })) ∧
      (∀ t, (s.cluster n).stretched = some t → s.cyc < t + 32 → exec (.droopRecovery n) s = .next s) ∧
      (∀ pipe b4096 b256, pipe = 0 ∨ 4 ≤ pipe → exec (.nearThresholdTransition n pipe b4096 b256) s = .next s) ∧
      (∀ pipe b4096 b256, 1 ≤ pipe → pipe ≤ 3 → ∃ u, exec (.nearThresholdTransition n pipe b4096 b256) s = .next u ∧
        let on := (s.core n).pipes.toList.getD pipe false
        let allowed : Prop := s.dev.site.nearThreshold = true ∧ ∀ e ∈ s.residents n, (s.ctx e.2.ctx).featmask.getLsbD 8 = true
        ((u.core n).pipes.toList.getD pipe false = true ↔ if on = true then b256 < 128 else b4096 < 512 ∧ allowed) ∧
        (∀ j, j ≠ pipe → (u.core n).pipes.toList.getD j false = (s.core n).pipes.toList.getD j false) ∧
        u = s.setCore n { s.core n with pipes := (u.core n).pipes })) ∧
  (∀ (s : State) (temps : List Nat) (stack : Nat),
      ((∃ t ∈ temps, 110 ≤ t) → exec (.temperatureRead temps) s = .next s.toStage0) ∧
      ((∀ t ∈ temps, t < 110) → ∃ u, exec (.temperatureRead temps) s = .next u ∧
        { u with dev := s.dev, parts := s.parts, clusters := s.clusters } = s ∧
        { u.dev with therm := s.dev.therm } = s.dev ∧ (∀ i : Fin 12,
          let t := temps.getD i.val s.dev.therm.temps[i]
          u.dev.therm.temps[i] = t ∧ (u.dev.therm.warm[i] = true ↔ 85 ≤ t ∨ (s.dev.therm.warm[i] = true ∧ 80 < t)) ∧
          (u.dev.therm.hot[i] = true ↔ 95 ≤ t ∨ (s.dev.therm.hot[i] = true ∧ 90 < t))) ∧
        (∀ k, if u.dev.therm.hot.toList.getD (sliceOf k) false = true
          then (u.cluster k).level = 0 ∧ { u.cluster k with level := (s.cluster k).level, ranHigh := (s.cluster k).ranHigh } = s.cluster k
          else u.cluster k = s.cluster k) ∧
        ∀ tag p, tget? s.parts tag = some p → { u.part tag with shareEvent := p.shareEvent } = p) ∧
      let rested : Prop := ∀ t, tget? s.dev.hotAt stack = some t → t + 1000000 ≤ s.ns
      (s.dev.therm.warm.toList.getD stack false = false ∨ s.partOf stack = none ∨ ¬rested →
        ∀ pages, exec (.hotPageMigration stack pages) s = .next s) ∧
      (∀ tag p pages, s.partOf stack = some (tag, p) → s.dev.therm.warm.toList.getD stack false = true → rested →
        ∃ u, exec (.hotPageMigration stack pages) s = .next u ∧ u.dev = { s.dev with hotAt := tput s.dev.hotAt stack s.ns } ∧
          { u with dev := s.dev, mem := s.mem, owners := s.owners, lineG := s.lineG, bankMark := s.bankMark, cores := s.cores, clusters := s.clusters,
                   ctxs := s.ctxs } = s ∧
          ∀ f base n dst a, pages = [f] → f * 65536 / 2 ^ 36 = stack → pageAt (s.leafPages tag) (f * 65536) = some (base, n) →
            s.coolest tag stack n = some dst → s.tensorAt tag (s.leafPages tag) (base, n) = none →
            s.placePages tag (stackSpaces dst) (fun _ => true) [(base, n)] (s.inUseBy tag) = some [((base, n), a)] →
            s.pageBusy (base, n) = false → s.mem.wf = true → base + n ≤ a ∨ a + n ≤ base → a + n ≤ 2 ^ 44 →
            let tables := (s.ctxsOf tag).flatMap fun e => s.entriesUnder 4 e.2.root
            (∀ e ∈ tables, (e.1 + 8 ≤ base ∨ base + n ≤ e.1) ∧ (e.1 + 8 ≤ a ∨ a + n ≤ e.1)) →
            (∀ x, x < n → u.mem.byte (a + x) = s.mem.byte (base + x)) ∧
            (∀ e ∈ tables, u.mem.value e.1 8 = if base ≤ entryAddr e.2 ∧ entryAddr e.2 < base + n
              then e.2 - entryAddr e.2 + (entryAddr e.2 - base + a) else e.2) ∧
            ∀ e ∈ u.cores, ∀ x ∈ e.2.tlb, (s.ctx x.ctx).part ≠ tag))

/-- R214, R424: a stack's shares stand when they sum to at most 100 percent and the partition holds the stack, and the record of the interval keeps
the share flag that the shares before have earned it; a shortage demotes registered tensors of
DRAM, lowest priority first and the oldest first among equals, until as many bytes have moved as are short, leaving out one that CXL has no room for.
That it waits for one whose pages are in accesses is the model's reading (log entry 50).

R377, R395, R396: once in 100 µs of the lease clock a cluster's energy goes to the contexts by the cycles their gangs held its slots, the
remainder to the one that held most and among equals to the lowest context number, and to the idle account when none did; that the share of a context
that is no more goes there too is the model's reading (log entry 48).  A scrub poisons the words it could not correct, leaves every byte, counts all its events, and fences the stack when its
corrected events in a second exceed the site's threshold.

R425 to R427, R442: nothing before an interval's end; there the slices' energies join the module's account and what the record counts is cleared,
and the next boundary is a multiple of the interval; with a collector, the module's record and then each partition's, of 64 bytes, with its tag and
sequence number, go from the management port to the collector. -/
def Obligations.SharesEnergyAndRecords : Prop :=
  (∀ (s : State) (tag stack : Nat) (shares : List (Nat × Nat)) (bytes : Nat),
      let t : Tbl Nat := shares.foldl (fun t e => tput t e.1 e.2) []
      let fit : Prop := (t.map (·.2)).sum ≤ 100 ∧ (tget? s.parts tag).isSome = true ∧ (s.part tag).owns stack = true
      let mine (e : ResEntry) : Prop := s.outside e 1 ≠ [] ∧ e.moving = false ∧ (s.ctx e.ctx).featmask.getLsbD 5 = true
      (fit → exec (.guaranteedShareSet tag stack shares) s =
        .next (s.setPart tag
          { s.part tag with
            shares := tput (s.part tag).shares stack t
            shareEvent := (s.part tag).shareEvent ||
              (s.part tag).shares.any fun e => !e.2.isEmpty && s.dev.therm.warm.toList.getD e.1 false })) ∧
      (¬fit → exec (.guaranteedShareSet tag stack shares) s = .next s) ∧
      exec (.dramShortageDemotion tag 0) s = .next s ∧
      let before (x y : Nat × ResEntry) : Prop := x.2.prio < y.2.prio ∨ (x.2.prio = y.2.prio ∧ x.2.order < y.2.order)
      let one (a : State × Nat) (x : Nat × ResEntry) : Option (State × Nat) := match a.1.tierPlan x.2 1 with
        | none => some a
        | some q => (a.1.moveTensor tag x.1 1).map fun w => (w, a.2 + (q.map fun e => e.1.2).sum)
      (∀ xs x a, (s.part tag).resid.Nodup → (xs ++ [x]).Pairwise before → (∀ y ∈ xs ++ [x], y ∈ (s.part tag).resid ∧ mine y.2) →
        (∀ y ∈ (s.part tag).resid, mine y.2 → y ∈ xs ++ [x] ∨ before x y) → xs.foldlM one (s, 0) = some a → a.2 < bytes →
        (∀ b, one a x = some b → bytes ≤ b.2 → exec (.dramShortageDemotion tag bytes) s = .next b.1) ∧
        (one a x = none → exec (.dramShortageDemotion tag bytes) s = .next a.1))) ∧
  (∀ (s : State) (k nj : Nat),
      let due : Prop := max (s.cluster k).acctAt (s.dev.stage0At / 100000) < s.ns / 100000
      let idle (u : State) : Prop := ∀ tag p, s.partOf (sliceOf k) = some (tag, p) → u.part tag = { p with idleEnergy := p.idleEnergy + nj }
      (¬due → exec (.energyAccounting k nj) s = .next s) ∧
      (due → ∃ u, exec (.energyAccounting k nj) s = .next u ∧ u.mem = s.mem ∧
        u.cluster k = { s.cluster k with occ := [], acctCyc := s.cyc, acctAt := s.ns / 100000 } ∧ (∀ j, j ≠ k → u.cluster j = s.cluster j) ∧
        (s.slotCycles k = [] → u.ctxs = s.ctxs ∧ idle u) ∧
        (∀ a n, s.slotCycles k = [(a, n)] → 0 < n → (tget? s.ctxs a = none → u.ctxs = s.ctxs ∧ idle u) ∧
          (tget? s.ctxs a ≠ none → u.ctx a = { s.ctx a with energy := (s.ctx a).energy + BitVec.ofNat 64 nj } ∧ (∀ j, j ≠ a → u.ctx j = s.ctx j) ∧
            u.parts = s.parts)) ∧
        (∀ a b n m, s.slotCycles k = [(a, n), (b, m)] → a ≠ b → tget? s.ctxs a ≠ none → tget? s.ctxs b ≠ none →
          m < n ∨ (m = n ∧ 0 < n ∧ (s.ctx a).num < (s.ctx b).num) →
          (u.ctx b).energy = (s.ctx b).energy + BitVec.ofNat 64 (nj * m / (n + m)) ∧
          (u.ctx a).energy = (s.ctx a).energy + BitVec.ofNat 64 (nj - nj * m / (n + m)) ∧ ∀ j, j ≠ a → j ≠ b → u.ctx j = s.ctx j)) ∧
      (∀ stack corrected bad, ∃ u,
        let unit_ := unitWord 4 stack
        let words := bad.filter fun i => i * 8 / 2 ^ 36 == stack
        let recent := ((tget s.dev.softRecent unit_ []).filter fun e => decide (s.ns < e.1 + 1000000000)).map (·.2)
        exec (.dramScrub stack corrected { bad := bad }) s =
          .next (if s.dev.site.softLimit < recent.sum + corrected then u.hearthFence unit_ else u) ∧
        (∀ i ∈ words, i ∈ u.mem.poison) ∧ (∀ x, u.mem.byte x = s.mem.byte x) ∧
        (tget u.dev.softUnits unit_ (Vector.replicate 4 0))[0] =
          (tget s.dev.softUnits unit_ (Vector.replicate 4 0))[0] + corrected + words.length ∧
        { u with mem := s.mem, dev := s.dev, parts := s.parts } = s ∧
        { u.dev with softUnits := s.dev.softUnits, softRecent := s.dev.softRecent } = s.dev)) ∧
  (∀ (s : State) (use : EnergyUse),
      (s.ptp < s.dev.hallNext → exec (.hallmarkInterval use) s = .next s) ∧
      (s.dev.hallNext ≤ s.ptp → (s.parts.map (·.1)).Nodup → ∃ u, exec (.hallmarkInterval use) s = .next u ∧
      u.mem = s.mem ∧ u.gangs = s.gangs ∧ u.dev.energy = s.dev.energy + use.slices.sum ∧ u.dev.hallSeq = (s.dev.hallSeq + 1) % 2 ^ 32 ∧
      (0 < s.dev.site.interval → s.ptp < u.dev.hallNext ∧ u.dev.hallNext ≤ s.ptp + s.dev.site.interval ∧ s.dev.site.interval ∣ u.dev.hallNext) ∧
      u.dev.pmin = none ∧ u.dev.pmax = none ∧ u.dev.endedEvent = false ∧ (∀ e ∈ u.rails, e.2.events = 0) ∧ (∀ e ∈ u.clusters, e.2.droops = 0) ∧
      (∀ tag p, tget? s.parts tag = some p → (u.part tag).hallSeq = (p.hallSeq + 1) % 2 ^ 32 ∧
        (u.part tag).energy = p.energy + (p.slices.map fun i => use.slices.getD i 0).sum + tget use.shared tag 0 ∧
        (u.part tag).pmin = none ∧ (u.part tag).pmax = none ∧ (u.part tag).endedEvent = false ∧ (u.part tag).shareEvent = false) ∧
      (s.dev.site.collector = none → u.out = s.out) ∧
      (∀ c, s.dev.site.collector = some c → ∃ sent, u.out = s.out ++ sent ∧ sent.length = s.parts.length + 1 ∧
        ∀ i o, sent[i]? = some o → ∃ tag seq body,
          o = .hallmark tag (portAddress s.dev.site s.dev.mgmt, 47801) (some (c, s.dev.site.collectorPort)) body ∧ body.length = 64 ∧
          (body.take 2 = bytesOfNat 1 1 ++ bytesOfNat 1 tag) ∧ (body.drop 4).take 4 = bytesOfNat 4 seq ∧
          (i = 0 → tag = 0 ∧ seq = s.dev.hallSeq) ∧
          (∀ e, 0 < i → s.parts[i - 1]? = some e → tag = e.1 ∧ seq = e.2.hallSeq))))

/-! ## Bring-up, fences and the endpoint -/

/-- R398, R400, R407, R416, R430, R443, R444: power brings stage 0 with the strap's management port; there, once the coolant has been in range for as
long as it must and the wait has ended, an image with the fused key, a counter no lower than the fused one and passed checks brings stage 1 with the
site's ramp, and another doubles the wait, up to 64 s; trained stacks, zeroed, bring stage 2; slices bring stage 3 and form the stored layout, each
partition with a context 0; and stage 4 follows.  Units that fail are fenced, and an image that fails a later check is discarded in stage 0.  The wait is timed by
the lease clock, and a device number beyond 20 bits is cut to them (log entries 52 and 71); a layout entry out of range forms no partition (log
entry 71).

R139, R427, R440, R441, R443: coolant out of range, from stage 1 on, holds every cluster at level 0 until it is back; after two seconds of it the
device returns to stage 0.  A time message on the port that the site names locks the time base, which the first steps, and a later one only when it is
more than a microsecond off; one on another port does nothing; holdover unlocks it.  The lease clock is never stepped. -/
def Obligations.BringUpAndTime : Prop :=
  (∀ (s : State),
      let discards (i : Instr) : Prop := ∃ u, exec i s = .next u ∧ u.dev.stage = 0 ∧ u.parts = [] ∧ u.ctxs = [] ∧ u.gangs = [] ∧ u.mem = {} ∧
        u.dev.fw.held = none ∧ u.dev.fw.backoff = min 64 (2 * s.dev.fw.backoff) ∧ u.dev.fw.retryAt = s.ns + s.dev.fw.backoff * 1000000000
      (∀ flow inlet strap, ∃ u, exec (.powerGood flow inlet strap) s = .next u ∧ u.dev.stage = 0 ∧ u.parts = [] ∧ u.ctxs = [] ∧ u.sessions = [] ∧
        u.teams = [] ∧ u.gangs = [] ∧ u.ops = [] ∧ u.mem = {} ∧ u.dev.fenced = [] ∧ u.dev.site.device = 0xFFFFF ∧ u.ptp = 0 ∧ u.ns = s.ns ∧
        u.dev.mgmt = (if strap < 12 then strap else 0) ∧ (u.dev.coolantBad = false ↔ 3500 ≤ flow ∧ 17 ≤ inlet ∧ inlet ≤ 40) ∧
        u.dev.rise = 2 ∧ u.dev.fall = 2 ∧ u.dev.railCap = 128 ∧ u.dev.slew = 50) ∧
      (∀ key counter ok site, s.dev.stage = 0 →
        let ready : Prop := s.dev.coolantBad = false ∧ (s.dev.coolantHold = true → s.dev.coolantSince + 5000000000 ≤ s.ns) ∧ s.dev.fw.retryAt ≤ s.ns
        let good : Prop := key = s.dev.fw.fusedKey ∧ s.dev.fw.fusedCounter ≤ counter ∧ ok = true
        ∃ u, exec (.firmwareFetch key counter ok site) s = .next u ∧ { u with dev := s.dev } = s ∧
          u.dev.site.device = site.device % 2 ^ 20 ∧ u.dev.site.allow = site.allow ∧ u.dev.site.layout = site.layout ∧ u.dev.site.windows = site.windows ∧
          (1 ≤ site.rise → site.rise ≤ 64 → u.dev.site.rise = site.rise) ∧ (1 ≤ site.fall → site.fall ≤ 64 → u.dev.site.fall = site.fall) ∧
          (64 ≤ site.railCap → site.railCap ≤ 2048 → u.dev.site.railCap = site.railCap) ∧
          (10 ≤ site.slew → site.slew ≤ 2000 → u.dev.site.slew = site.slew) ∧
          (ready → good → u.dev.stage = 1 ∧ u.dev.rise = u.dev.site.rise ∧ u.dev.fall = u.dev.site.fall ∧ u.dev.railCap = u.dev.site.railCap ∧
            u.dev.slew = u.dev.site.slew ∧ u.dev.fw.held = some counter) ∧
          (¬ready → u.dev.stage = 0 ∧ u.dev.fw = s.dev.fw) ∧
          (ready → ¬good → u.dev.stage = 0 ∧ u.dev.fw.held = none ∧ u.dev.fw.backoff = min 64 (2 * s.dev.fw.backoff) ∧
            u.dev.fw.retryAt = s.ns + s.dev.fw.backoff * 1000000000)) ∧
      (∀ failed, (s.dev.stage = 1 → ∃ u, exec (.dramReady { failed := failed }) s = .next u ∧ u.dev.stage = 2 ∧ u.mem = {} ∧ u.owners = [] ∧ u.lineG = [] ∧
          (∀ i ∈ failed, i < 12 → unitWord 4 i ∈ u.dev.fenced) ∧ (∀ x ∈ s.dev.fenced, x ∈ u.dev.fenced) ∧ u.parts = s.parts) ∧
        (s.dev.stage = 1 → discards (.dramReady { passes := false, failed := failed })) ∧
        (s.dev.stage ≠ 1 → ∀ c, exec (.dramReady c) s = .next s)) ∧
      (∀ failed sound, (s.dev.stage = 2 → ∃ u, exec (.slicesReady { failed := failed, sound := sound }) s = .next u ∧ u.dev.stage = 3 ∧
          u.dev.fw = { s.dev.fw with sound := sound } ∧ (∀ x ∈ failed, x ∈ u.dev.fenced) ∧
          u.mem = s.mem ∧ ∀ l, s.parts = [] → s.dev.site.layout = [l] →
            let runs : Prop := l.size ∈ [1, 2, 3, 4, 6, 12] ∧ l.first % l.size = 0 ∧ l.first + l.size ≤ 12 ∧ 1 ≤ l.tag ∧ l.tag ≤ 12 ∧
              (∀ i ∈ l.ladles, i < 48) ∧ l.ladles.Nodup
            let usable : Prop := ∃ i c, l.first ≤ i ∧ i < l.first + l.size ∧ c < 32 ∧ unitWord 0 (32 * i + c) ∉ u.dev.fenced
            (runs → usable → (u.part l.tag).first = l.first ∧ (u.part l.tag).size = l.size ∧ (u.part l.tag).ladles = l.ladles ∧
              (u.part l.tag).rho = 0 ∧ (64 ≤ l.ageCap → l.ageCap ≤ 4096 → (u.part l.tag).ageCap = l.ageCap) ∧
              (l.tokens ≤ 32 → (u.part l.tag).tokens = l.tokens) ∧ (tget? u.ctxs (ctxKey l.tag 0)).isSome = true ∧
              (u.ctx (ctxKey l.tag 0)).num = 0 ∧ (u.ctx (ctxKey l.tag 0)).part = l.tag) ∧
            (¬(runs ∧ usable) → u.parts = [])) ∧
        (s.dev.stage = 2 → discards (.slicesReady { passes := false, failed := failed })) ∧
        (s.dev.stage ≠ 2 → ∀ c, exec (.slicesReady c) s = .next s)) ∧
      (s.dev.stage = 3 → s.dev.fw.sound = true → exec .fullFunction s =
        .next { s with dev := { s.dev with stage := 4, fw := { s.dev.fw with backoff := 1, retryAt := 0 } } }) ∧
      (s.dev.stage = 3 → s.dev.fw.sound = false → discards .fullFunction) ∧ (s.dev.stage ≠ 3 → exec .fullFunction s = .next s)) ∧
  (∀ (s : State),
      (∃ u, exec .coolantOutOfRange s = .next u ∧ u.dev.coolantBad = true ∧ u.dev.stage = s.dev.stage ∧ { u with dev := s.dev, clusters := s.clusters } = s ∧
        (s.dev.stage = 0 → u.dev.throttled = s.dev.throttled ∧ u.clusters = s.clusters ∧ u.dev.coolantHold = true ∧ u.dev.coolantSince = s.ns) ∧
        (s.dev.stage ≠ 0 → u.dev.throttled = true ∧ (∀ e ∈ u.clusters, e.2.level = 0) ∧
          u.dev.coolantSince = if s.dev.coolantBad then s.dev.coolantSince else s.ns)) ∧
      exec .coolantInRange s = .next
        { s with dev := { s.dev with coolantBad := false, throttled := false,
                                     coolantSince := if s.dev.coolantBad then s.ns else s.dev.coolantSince } } ∧
      (0 < s.dev.stage → s.dev.coolantBad = true → s.dev.coolantSince + 2000000000 ≤ s.ns →
        ∃ u, exec .coolantLossTimeout s = .next u ∧ u.dev.stage = 0 ∧ u.parts = [] ∧ u.gangs = [] ∧ u.mem = {} ∧ u.ns = s.ns) ∧
      (s.dev.stage = 0 ∨ s.dev.coolantBad = false ∨ s.ns < s.dev.coolantSince + 2000000000 → exec .coolantLossTimeout s = .next s) ∧
      (∀ port behind ahead, let off : ClockOffset := { behind := behind, ahead := ahead }
        (s.dev.site.ptpPort.getD s.dev.mgmt ≠ port → exec (.ptpMessage port off) s = .next s) ∧
        (s.dev.site.ptpPort.getD s.dev.mgmt = port → ∃ u, exec (.ptpMessage port off) s = .next u ∧ u.ns = s.ns ∧ u.dev.locked = true ∧
          u.dev.everLocked = true ∧ u.dev.holdover = false ∧ { u with ptp := s.ptp, dev := s.dev } = s ∧
          (s.dev.everLocked = false ∨ 1000 < behind ∨ 1000 < ahead → u.ptp = s.ptp + behind - ahead ∧
            (0 < s.dev.site.interval → u.ptp < u.dev.hallNext ∧ u.dev.hallNext ≤ u.ptp + s.dev.site.interval ∧ s.dev.site.interval ∣ u.dev.hallNext)) ∧
          (s.dev.everLocked = true → behind ≤ 1000 → ahead ≤ 1000 → u.ptp = s.ptp ∧ u.dev.hallNext = s.dev.hallNext))) ∧
      exec .ptpHoldover s = .next { s with dev := { s.dev with holdover := s.dev.everLocked, locked := false } })

/-- R373 to R376, R397, R426, R438: a unit of no partition is fenced at once, one of a partition by a reforge without it, after one under way; words that
can no longer be read become poison, and so do the bytes behind a failed CXL port.  A reforge ticks once its teams have left and its pages are at rest:
the layout's version goes on, the rotation is 0, its fenced unit is fenced and the window opens; its end closes the window, zeroes the slices that have
left, whose rails keep their limits and their cores' levels, is reported to its session, and begins a fence that has waited for it.  The fence of a unit of no partition, fences queued behind a reforge, and TLBs
emptied at the tick are the model's reading (log entry 53), and so is what a rail keeps when its slice leaves (log entry 48).

R23, R372, R378: stopping a context takes its teams off their cores and closes its tenants' sessions, and once nothing of it is in flight its image stands, with the feature vector;
restoring an image of an equal feature vector, in stage 4, makes a context of its own number when that is free (the model's reading, log entry 54), with its
grids, teams and gangs as they were saved. -/
def Obligations.FenceReforgeAndMovement : Prop :=
  (∀ (s : State) (tag unit_ : Nat),
      let p := s.part tag
      (∀ lost, unitOk unit_ = false ∨ unit_ ∈ s.dev.fenced → exec (.unitFence { unit := unit_, lost := lost }) s = .next s) ∧
      (∀ lost, unitOk unit_ = true → unit_ ∉ s.dev.fenced → ∃ t, exec (.unitFence { unit := unit_, lost := lost }) s = exec (.unitFence { unit := unit_ }) t ∧
        { t with mem := s.mem, dev := s.dev, parts := s.parts } = s ∧ (∀ x, t.mem.byte x = s.mem.byte x) ∧
        ∀ w ∈ lost, s.inUnit unit_ w = true → w ∈ t.mem.poison) ∧
      (unitOk unit_ = true → unit_ ∉ s.dev.fenced → s.unitParts unit_ = [] → ∃ u, exec (.unitFence { unit := unit_ }) s = .next u ∧
        (∀ x, x ∈ u.dev.fenced ↔ x = unit_ ∨ x ∈ s.dev.fenced) ∧ u.dev.endedEvent = true ∧ { u with dev := s.dev } = s) ∧
      (unitOk unit_ = true → unit_ ∉ s.dev.fenced → s.unitParts unit_ = [tag] → p.reforge = none → ∃ u r, exec (.unitFence { unit := unit_ }) s = .next u ∧
        (u.part tag).reforge = some r ∧ r.fenceUnit = some unit_ ∧ r.size = p.size ∧ r.first = p.first ∧ r.ticked = false ∧
        (unit_ % 256 ≠ 2 → u.mem = s.mem) ∧
        (∀ e ∈ s.teams, e.2.part = tag → (s.team e.1) = e.2 → e.2.life = .resident → unit_ = unitWord 0 e.2.core → e.2.stopping = none →
          u.toldToLeave e.1 (.save .reforge))) ∧
      (∀ r, unitOk unit_ = true → unit_ ∉ s.dev.fenced → s.unitParts unit_ = [tag] → p.reforge = some r → r.fenceUnit ≠ some unit_ →
        unit_ ∉ p.fenceQueue → exec (.unitFence { unit := unit_ }) s = .next (s.setPart tag { p with fenceQueue := p.fenceQueue ++ [unit_] })) ∧
      (∀ port, s.dev.stage < 3 ∨ 4 ≤ port → exec (.cxlLinkFail port) s = .next s) ∧
      (∀ port, 3 ≤ s.dev.stage → port < 4 → ∃ u, exec (.cxlLinkFail port) s = .next u ∧
        (∀ x, u.mem.byte x = s.mem.byte x) ∧ (s.unitParts (unitWord 5 port) = [] → unitWord 5 port ∈ u.dev.fenced) ∧
        ∀ w ∈ s.dev.windows, w.base % 4096 = 0 → ∀ k, k < w.size / 4096 → w.ports[k % w.ports.length]? = some port →
          ∀ j, j < 512 → u.mem.poisoned (w.base + 4096 * k + 8 * j) 8 = true) ∧
      (p.reforge = none → exec (.reforgeTick tag) s = .next s ∧ exec (.reforgeSettleEnd tag) s = .next s) ∧
      (∀ r, p.reforge = some r → (r.ticked = true ∨ s.quiesced tag r ((s.reforgePlan tag r).getD []) = false → exec (.reforgeTick tag) s = .next s) ∧
        (r.ticked = false → s.quiesced tag r ((s.reforgePlan tag r).getD []) = true → ∃ u r', exec (.reforgeTick tag) s = .next u ∧
          (u.part tag).first = r.first ∧ (u.part tag).size = r.size ∧ (u.part tag).version = p.version + 1 ∧ (u.part tag).rho = 0 ∧
          (u.part tag).window = true ∧ (u.part tag).reforge = some r' ∧ r'.ticked = true ∧ (∀ x, r.fenceUnit = some x → x ∈ u.dev.fenced) ∧
          (∀ e ∈ u.cores, ∀ x ∈ e.2.tlb, (s.ctx x.ctx).part ≠ tag) ∧
          (s.reforgePlan tag r = some [] → u.mem = s.mem) ∧ u.gangs = s.gangs ∧ u.ops = s.ops) ∧
        (r.ticked = false → exec (.reforgeSettleEnd tag) s = .next s) ∧
        (∀ x rest, r.ticked = true → p.fenceQueue = x :: rest → ∃ u r', exec (.reforgeSettleEnd tag) s = .next u ∧ (u.part tag).fenceQueue = rest ∧
          (u.part tag).reforge = some r' ∧ r'.fenceUnit = some x ∧ (u.part tag).window = false ∧ (u.part tag).endedEvent = true) ∧
        (r.ticked = true → p.fenceQueue = [] → ∃ u, exec (.reforgeSettleEnd tag) s = .next u ∧ (u.part tag).window = false ∧
          (u.part tag).reforge = none ∧ (u.part tag).oldHome = none ∧ u.dev.endedEvent = true ∧ (u.part tag).endedEvent = true ∧
          (∀ i, i < 12 → r.was.1 ≤ i → i < r.was.1 + r.was.2 → p.owns i = false → ∀ a, i * 2 ^ 36 ≤ a → a < (i + 1) * 2 ^ 36 → u.mem.byte a = 0) ∧
          (r.stop = false → (s.cores.map (·.1)).Nodup → u.rails = s.rails ∧ ∀ c, (u.core c).level = (s.core c).level) ∧
          (r.stop = true → (u.part tag).stopped = true ∧ ∀ e ∈ u.ctxs, e.2.part = tag → e.2.failed = true) ∧
          (∀ n x, r.sess = some n → tget? s.sessions n = some x → x.isOpen = true →
            u.out = s.out ++ [.event n 1 0x8003 (x.events + 1) (bytesOfNat 1 (if r.fenceUnit.isSome then 1 else 0) ++
              bytesOfNat 1 (if r.stop then 1 else 0) ++ bytesOfNat 2 0 ++ bytesOfNat 4 (r.fenceUnit.getD 0))])))) ∧
  (∀ (s : State) (ck tag image : Nat),
      let c := s.ctx ck
      (tget? s.ctxs ck = none ∨ c.deleting = true → exec (.contextStop ck) s = .next s) ∧
      ((tget? s.ctxs ck).isSome = true → c.deleting = false → ∃ u, exec (.contextStop ck) s = .next u ∧ (u.ctx ck).stopped = true ∧
        (∀ e ∈ s.teams, s.team e.1 = e.2 → e.2.ctx = ck → e.2.life = .resident → e.2.stopping = none → u.toldToLeave e.1 (.save .ready)) ∧
        (∀ n x, tget? u.sessions n = some x → x.role = 2 → x.tag = c.part → x.ctx = c.num → x.isOpen = false) ∧
        (u.ctxStill ck = true → ∃ im, tget? u.images ck = some im ∧ im.feature = 0x011A000000003FFF ∧ im.ctx.num = c.num ∧ im.ctx.ft = c.ft ∧
          im.ctx.stopped = false ∧ 
          im.teams = (u.teams.filter fun e => e.2.ctx == ck).map (fun e => (e.1, { e.2 with token := false })) ∧ im.gangs = u.gangs.filter fun e => e.2.ctx == ck) ∧
        (u.ctxStill ck = false → u.images = s.images)) ∧
      (tget? s.images image = none ∨ tget? s.parts tag = none → exec (.contextRestore tag image) s = .next s) ∧
      (∀ im p, tget? s.images image = some im → tget? s.parts tag = some p →
        (im.feature ≠ 0x011A000000003FFF ∨ s.dev.stage ≠ 4 ∨ p.stopped = true → exec (.contextRestore tag image) s = .next s) ∧
        (im.feature = 0x011A000000003FFF → s.dev.stage = 4 → p.stopped = false → 0 < im.ctx.num → tget? s.ctxs (ctxKey tag im.ctx.num) = none →
          ∃ u, exec (.contextRestore tag image) s = .next u ∧ u.ctx (ctxKey tag im.ctx.num) = { im.ctx with part := tag } ∧ u.mem = s.mem ∧
            (im.gangs.Pairwise (fun a b => a.1 < b.1) → ∀ e ∈ im.gangs, u.gang (e.1 + s.nextKey) =
              { e.2 with team := e.2.team + s.nextKey, grid := e.2.grid + s.nextKey, ctx := ctxKey tag im.ctx.num, part := tag }) ∧
            (∀ e ∈ im.gangs, e.1 + s.nextKey < u.nextKey) ∧ ∀ e ∈ s.gangs, e.1 < s.nextKey → tget? u.gangs e.1 = tget? s.gangs e.1)))

/-- R399, R432 to R434: on a port that does not answer a message changes nothing.  On an open session a command of another version is answered with STATUS 4
and closes the session; else the first that fails of role, stage and form gives STATUS 3, STATUS 1 with the stage, and STATUS 5, and none has an
effect; any other OP is answered with STATUS 5.  That form is checked after role and stage, and that a
later message of another version closes its session with STATUS 4, is the model's reading (log entry 55).

R399, R432 to R434: HELLO opens a session, and answers with the feature vector, the stage and the device number, when the source may have the role: an
address of the site's list for the operator and, for a partition that stands, the hypervisor, and the admission value for a context that is not stopped.  Otherwise it is answered with STATUS 3 and
nothing is open; the version range without 1 gives STATUS 4, and a malformed one STATUS 5.

R396, R398, R400, R434: HEALTH answers with the stage, the coolant, the temperatures, the error counts and the fence list, or a unit's counts; RESET
answers before the device returns to stage 0; IMAGE stores a part, and the image once every byte of its length has come, or refuses one that does
not fit. -/
def Obligations.SessionsAndOperator : Prop :=
  (∀ (s : State) (m : Msg) (x : Session), tget? s.sessions m.sess = some x → x.isOpen = true →
      (∀ row ∈ commandRows,
        let go := exec (row.instr m) s
        (s.portAnswers m.port = false → (∀ q ∈ x.deferred, q.2 ≠ m) → go = .next s) ∧
        (s.portAnswers m.port = true → (m.ver ≠ 1 → ∃ u, go = .next u ∧ u.out = s.out ++ [.reply m.sess 0x0101 m.op m.seq 4 []] ∧
            (∃ y, tget? u.sessions m.sess = some y ∧ y.isOpen = false) ∧ { u with out := s.out, sessions := s.sessions } = s) ∧
          (m.ver = 1 → x.role ∉ row.roles → go = .next (replied s m 3 0 [])) ∧
          (m.ver = 1 → x.role ∈ row.roles → s.dev.stage < row.stage → go = .next (replied s m 1 s.dev.stage [])) ∧
          (m.ver = 1 → x.role ∈ row.roles → row.stage ≤ s.dev.stage →
            m.status ≠ 0 ∨ m.reserved ≠ 0 ∨ m.len ≠ m.body.length ∨ 65600 < m.len ∨ m.op ≠ row.op → go = .next (replied s m 5 0 [])))) ∧
      (s.portAnswers m.port = true → m.ver = 1 → x.role < 3 → exec (.malformedCommand m) s = .next (replied s m 5 0 []))) ∧
  (∀ (s : State) (m : Msg), tget? s.sessions m.sess = none →
      (s.portOpens m.port = false → exec (.hello m) s = .next s) ∧ (s.portOpens m.port = true →
      let role := fieldAt m.body 0 1
      let tag := fieldAt m.body 1 1
      let num := fieldAt m.body 2 1
      let ranged : Prop := m.op = 1 ∧ m.ver % 256 ≤ 1 ∧ 1 ≤ m.ver / 256
      let sound : Prop := m.status = 0 ∧ m.reserved = 0 ∧ m.len = 16 ∧ m.body.length = 16 ∧ role ≤ 2 ∧ fieldAt m.body 3 5 = 0 ∧
        (role ≠ 2 → fieldAt m.body 8 8 = 0 ∧ num = 0) ∧ (role = 0 → tag = 0)
      let granted : Prop := if role = 0 then m.src ∈ s.dev.site.allow
        else (tget? s.parts tag).isSome = true ∧ (if role = 1 then m.src ∈ s.dev.site.allow
          else 1 ≤ num ∧ num ≤ 63 ∧ ∃ c, tget? s.ctxs (ctxKey tag num) = some c ∧ c.stopped = false ∧ c.admission = BitVec.ofNat 64 (fieldAt m.body 8 8))
      let go := exec (.hello m) s
      (¬ranged → ∃ u, go = .next u ∧ u.out = s.out ++ [.reply m.sess 0x0101 m.op m.seq 4 []] ∧
        ∃ y, tget? u.sessions m.sess = some y ∧ y.isOpen = false) ∧
      (ranged → ¬sound → go = .next (replied s m 5 0 [])) ∧
      (ranged → sound → granted → ∃ y : Session, y.isOpen = true ∧ y.src = m.src ∧ y.role = role ∧ y.tag = tag ∧ y.ctx = num ∧ y.events = 0 ∧
        y.deferred = [] ∧ go = .next (replied { s with sessions := tput s.sessions m.sess y } m 0 0
          (bytesOfNat 8 (s.capvec 0xFFFFFFFF) ++ bytesOfNat 4 s.dev.stage ++ bytesOfNat 4 s.dev.site.device))) ∧
      (ranged → sound → ¬granted → ∃ y : Session, y.isOpen = false ∧ go = .next (replied { s with sessions := tput s.sessions m.sess y } m 3 0 [])))) ∧
  (∀ (s : State) (m : Msg) (x : Session),
      (s.hears m x 0x0002 [0, 1, 2] 0 → m.body = [] → ∃ list : List Nat, exec (.health m) s = .next (replied s m 0 0
          (bytesOfNat 1 s.dev.stage ++ bytesOfNat 1 s.dev.coolantBad.toNat ++ bytesOfNat 2 list.length ++
            (s.dev.therm.temps.toList.flatMap fun t => bytesOfNat 1 (min t 255)) ++
            ((List.finRange 4).flatMap fun i => bytesOfNat 8 (s.dev.softUnits.map fun e => e.2[i]).sum) ++ list.flatMap fun u => bytesOfNat 4 u)) ∧
        ∀ u, u ∈ list ↔ u ∈ s.dev.fenced ∧ u % 256 < 6) ∧
      (s.hears m x 0x0002 [0, 1, 2] 0 → m.body.length = 4 → unitOk (fieldAt m.body 0 4) = true → exec (.health m) s =
        .next (replied s m 0 0 ((tget s.dev.softUnits (fieldAt m.body 0 4) (Vector.replicate 4 0)).toList.flatMap fun n => bytesOfNat 8 n))) ∧
      (s.hears m x 0x0003 [0] 0 → m.body = [] → ∃ u, exec (.reset m) s = .next u ∧ u.out = (replied s m 0 0 []).out ∧ u.dev.stage = 0 ∧
        u.parts = [] ∧ u.ctxs = [] ∧ u.sessions = [] ∧ u.gangs = [] ∧ u.mem = {} ∧ u.ns = s.ns) ∧
      (s.hears m x 0x0004 [0] 4 → 17 ≤ m.body.length → m.body.length ≤ 65552 →
        let off := fieldAt m.body 0 8
        let total := fieldAt m.body 8 8
        let bs := m.body.drop 16
        let fits_ : Prop := off + bs.length ≤ total ∧ ∀ t, s.dev.fw.total = some t → t = total
        (¬fits_ → exec (.image m) s = .next (replied s m 2 1 [])) ∧
        (fits_ → ∃ fw : Firmware, exec (.image m) s = .next (replied { s with dev := { s.dev with fw := fw } } m 0 0 []) ∧ fw.total = some total ∧
          (∀ k, k < bs.length → tget? fw.parts (off + k) = bs[k]?) ∧
          (∀ a, a < off ∨ off + bs.length ≤ a → tget? fw.parts a = tget? s.dev.fw.parts a) ∧ (fw.stored = true ↔ fw.parts.length = total) ∧
          fw.fusedKey = s.dev.fw.fusedKey ∧ fw.fusedCounter = s.dev.fw.fusedCounter ∧ fw.held = s.dev.fw.held)))

/-- R356, R373, R374, R389, R397, R431, R434, R436: REFORGE begins one, or is refused with the first of R373's reasons, a run that another partition's reforge is to take or has yet to
zero being held as its own; FENCE begins one of its unit, waits for one
under way, or is refused; CTXNEW makes the context asked for, or the lowest free one; CTXDEL stops a context and, when nothing of it is left,
removes it; BIND gives a context its job identifier, which no other may have; RELEASE frees the team that a ticket names.  That FENCE waits behind a
reforge under way, and that a run of a reforge under way is held, is the model's reading (log entries 53 and 56).

R321, R344, R345, R357, R367, R434, R436: WRITE, its pages checked, becomes an access from outside, which is answered when it has been performed; READ answers
with the bytes at the banks, or waits until its frames are ready; LAUNCH, after the session's earlier writes, checks its record and queues a root
grid.  A failed check is refused with its code, the tables that the walks had to zero being zeroed. -/
def Obligations.HypervisorAndContext : Prop :=
  (∀ (s : State) (m : Msg) (x : Session),
      let f (off n : Nat) : Nat := fieldAt m.body off n
      let key (n : Nat) : Nat := ctxKey x.tag n
      let p := s.part x.tag
      let q := s.takeDeferred m
      (s.hears m x 0x0010 [1] 4 → m.body.length = 2 →
        let size := f 0 1
        let first := f 1 1
        let meets (a n : Nat) : Prop := first < a + n ∧ a < first + size
        let held (y : Part) : Prop := meets y.first y.size ∨
          ∃ z, y.reforge = some z ∧ if z.ticked = true then meets z.was.1 z.was.2 else meets z.first z.size
        let r : ReforgeState := { size := size, first := first, sess := some m.sess }
        let legal : Prop := size ∈ [1, 2, 3, 4, 6, 12] ∧ first % size = 0 ∧ first + size ≤ 12
        let go := exec (.reforge m) s
        (¬legal → go = .next (replied s m 2 1 [])) ∧ (legal → ¬meets p.first p.size → go = .next (replied s m 2 2 [])) ∧
        (legal → meets p.first p.size →
          ((∃ e ∈ s.parts, e.1 ≠ x.tag ∧ held e.2) → go = .next (replied s m 2 3 [])) ∧
          ((∀ e ∈ s.parts, e.1 ≠ x.tag → ¬held e.2) →
            (p.reforge.isSome = true → go = .next (replied s m 2 4 [])) ∧
            (p.reforge = none → s.reforgePlan x.tag r = none → go = .next (replied s m 2 5 [])) ∧
            (p.reforge = none → (s.reforgePlan x.tag r).isSome = true → ∃ u, go = .next u ∧ (u.part x.tag).reforge = some r ∧
              u.out = (replied s m 0 0 []).out ∧ u.mem = s.mem)))) ∧
      (s.hears m x 0x0011 [1] 4 → m.body.length = 4 → unitOk (f 0 4) = true →
        let u := f 0 4
        (u ∈ s.dev.fenced ∨ x.tag ∉ s.unitParts u → exec (.fenceCmd m) s = .next (replied q.1 m 2 1 [])) ∧
        (u ∉ s.dev.fenced → x.tag ∈ s.unitParts u → p.reforge.isSome = true → ∃ v y, exec (.fenceCmd m) s = .next v ∧ v.out = s.out ∧
          tget? v.sessions m.sess = some y ∧ (q.2, m) ∈ y.deferred) ∧
        (u ∉ s.dev.fenced → x.tag ∈ s.unitParts u → p.reforge = none → ∃ v r, exec (.fenceCmd m) s = .next v ∧
          (v.part x.tag).reforge = some r ∧ r.fenceUnit = some u ∧ r.sess = some m.sess ∧ r.size = p.size ∧ r.first = p.first ∧
          v.out = (replied s m 0 0 []).out)) ∧
      (s.hears m x 0x0012 [1] 4 → m.body.length = 16 → f 0 1 = 0 → f 2 6 = 0 → f 1 1 ≤ 63 → ∀ n,
        let made : State := s.setCtx (key n) { num := n, part := x.tag, admission := BitVec.ofNat 64 (f 8 8) }
        (f 1 1 ≠ 0 → tget? s.ctxs (key (f 1 1)) ≠ none → exec (.ctxnew m) s = .next (replied s m 2 1 [])) ∧
        (n = f 1 1 → n ≠ 0 → tget? s.ctxs (key n) = none → exec (.ctxnew m) s = .next (replied made m 0 0 (bytesOfNat 1 n))) ∧
        (f 1 1 = 0 → 1 ≤ n → n ≤ 63 → tget? s.ctxs (key n) = none → (∀ k, 1 ≤ k → k < n → tget? s.ctxs (key k) ≠ none) →
          exec (.ctxnew m) s = .next (replied made m 0 0 (bytesOfNat 1 n))) ∧
        (f 1 1 = 0 → (∀ k, 1 ≤ k → k ≤ 63 → tget? s.ctxs (key k) ≠ none) → exec (.ctxnew m) s = .next (replied s m 2 1 []))) ∧
      (s.hears m x 0x0012 [1] 4 → m.body.length = 16 → f 0 1 = 1 → f 2 6 = 0 → f 8 8 = 0 →
        let ck := key (f 1 1)
        (f 1 1 = 0 ∨ 63 < f 1 1 ∨ tget? s.ctxs ck = none → exec (.ctxdel m) s = .next (replied q.1 m 2 1 [])) ∧
        (f 1 1 ≠ 0 → f 1 1 ≤ 63 → tget? s.ctxs ck ≠ none → ∃ u, exec (.ctxdel m) s = .next u ∧
          (s.ctxEmpty ck = true → (s.ctx ck).part = x.tag → (s.ctx ck).num = f 1 1 →
            tget? u.ctxs ck = none ∧ (∀ k, k ≠ ck → tget? u.ctxs k = tget? s.ctxs k) ∧ (∀ e ∈ u.grids, e.2.ctx ≠ ck) ∧
            (∀ e ∈ (u.part x.tag).resid, e.2.ctx ≠ ck) ∧ u.mem = s.mem ∧ u.out = (replied s m 0 0 (bytesOfNat 1 (f 1 1))).out) ∧
          ((∃ j ∈ s.jobs, j.ctx = ck ∧ j.status = none ∧ j.back = false) → u.out = s.out ∧ (u.ctx ck).stopped = true ∧ (u.ctx ck).deleting = true ∧
            ∃ y, tget? u.sessions m.sess = some y ∧ (q.2, m) ∈ y.deferred))) ∧
      (s.hears m x 0x0013 [1] 4 → m.body.length = 8 → f 1 3 = 0 → f 4 4 < 2 ^ 24 →
        let ck := key (f 0 1)
        let taken : Prop := f 4 4 ≠ 0 ∧ ∃ e ∈ s.ctxs, e.1 ≠ ck ∧ e.2.job = some (f 4 4)
        (63 < f 0 1 ∨ tget? s.ctxs ck = none → exec (.bind m) s = .next (replied s m 2 2 [])) ∧
        (f 0 1 ≤ 63 → tget? s.ctxs ck ≠ none → taken → exec (.bind m) s = .next (replied s m 2 1 [])) ∧
        (f 0 1 ≤ 63 → tget? s.ctxs ck ≠ none → ¬taken → exec (.bind m) s =
          .next (replied (s.setCtx ck { s.ctx ck with job := if f 4 4 = 0 then none else some (f 4 4) }) m 0 0 []))) ∧
      (s.hears m x 0x0014 [1] 4 → m.body.length = 5 → f 4 1 ≤ 1 →
        (s.ticketTeam x.tag (f 0 4) = none → exec (.release m) s = .next (replied s m 2 1 [])) ∧
        (∀ tk, s.ticketTeam x.tag (f 0 4) = some tk → ∃ u, exec (.release m) s = .next u ∧ u.out = (replied s m 0 0 []).out ∧ u.mem = s.mem ∧
          (u.team tk).wake = .ready ∧ ((s.team tk).stopping = none → (u.team tk).stopping = none) ∧
          ((s.team tk).stopping.isSome = true → (u.team tk).stopping = some (.save .ready)) ∧
          (∀ e ∈ s.gangs, e.2.team ≠ tk → e ∈ u.gangs) ∧
          ∀ e ∈ s.gangs, e.2.team = tk → ∀ t, e.2.resumeTrap = some t →
            (e.1, { e.2 with resumeTrap := none, wait := if f 4 1 = 0 then e.2.wait else .trap t }) ∈ u.gangs))) ∧
  (∀ (s : State) (m : Msg) (x : Session),
      let f (off n : Nat) : Nat := fieldAt m.body off n
      let ck := ctxKey x.tag (if x.role = 2 then x.ctx else 0)
      let level := if x.role = 2 then 1 else 2
      let code (c : Nat) : Nat := if c = 2 then 1 else 2
      let q := s.takeDeferred m
      (s.hears m x 0x0020 [1, 2] 4 → 9 ≤ m.body.length → m.body.length ≤ 65544 →
        let bs := m.body.drop 8
        let look := s.outsideItems ck level .write (words8 (f 0 8) bs.length) fun a => (bs.drop (a - f 0 8)).take (8 - a % 8)
        (∀ c, look = .error c → exec (.write m) s = .next (replied (s.zeroWalks ck (words8 (f 0 8) bs.length)) m 2 (code c) [])) ∧
        (∀ l, look = .ok l → ∃ e : Inbound, exec (.write m) s = .next { s with nextKey := s.nextKey + 1, inbound := s.inbound ++ [e] } ∧
          e.id = s.nextKey ∧ e.ctx = ck ∧ e.part = x.tag ∧ e.sess = some m.sess ∧ e.seq = m.seq ∧ e.items = l ∧ e.ordered = true ∧
          e.performed = false ∧ e.peer = none)) ∧
      (s.hears m x 0x0021 [1, 2] 4 → m.body.length = 12 → 1 ≤ f 8 4 → f 8 4 ≤ 65536 →
        let look := s.outsideItems ck level .read (words8 (f 0 8) (f 8 4)) fun _ => []
        let c := s.ctx ck
        (∀ k, look = .error k → exec (.read m) s = .next (replied (q.1.zeroWalks ck (words8 (f 0 8) (f 8 4))) m 2 (code k) [])) ∧
        (∀ l, look = .ok l → (∀ i ∈ l, s.newOwner c.num (i.pa / 65536) i.shared = none ∧ s.mem.poisoned i.pa i.w = false) →
          exec (.read m) s = .next (replied q.1 m 0 0 (l.flatMap fun i => s.mem.bytes i.pa i.w))) ∧
        (∀ l, look = .ok l → (∃ i ∈ l, s.ownReady c.part c.num (i.pa / 65536) i.shared = false) → ∃ u y, exec (.read m) s = .next u ∧
          u.out = s.out ∧ u.mem = s.mem ∧ tget? u.sessions m.sess = some y ∧ (q.2, m) ∈ y.deferred)) ∧
      (s.hears m x 0x0022 [1, 2] 4 → m.body.length = 64 →
        let held : Prop := ∃ e ∈ s.inbound, e.sess = some m.sess ∧ e.id < q.2
        let c := s.ctx ck
        let r := recordOf fun i => BitVec.ofNat 64 (f (8 * i) 8)
        let no := c.refusal r false false (decide (4096 ≤ (s.grids.filter fun e => e.2.part == x.tag && !e.2.retired).length))
        (held → ∃ u y, exec (.launchCmd m) s = .next u ∧ u.out = s.out ∧ u.grids = s.grids ∧ tget? u.sessions m.sess = some y ∧
          (q.2, m) ∈ y.deferred) ∧
        (¬held → no ≠ 0 → exec (.launchCmd m) s = .next (replied q.1 m 2 no [])) ∧
        (¬held → no = 0 → ∃ u g, exec (.launchCmd m) s = .next u ∧ tget? u.grids s.nextKey = some g ∧ g.record = r ∧ g.ctx = ck ∧ g.part = x.tag ∧
          g.depth = 0 ∧ g.level = (if r.sup then (if c.num = 0 then 2 else 1) else 0) ∧ g.since = s.ns ∧ g.age = 0 ∧ g.nextTeam = 0 ∧
          g.sess = some m.sess ∧ g.number = (s.part x.tag).grids + 1 ∧ (u.part x.tag).grids = (s.part x.tag).grids + 1 ∧
          u.out = (replied s m 0 0 (bytesOfNat 8 ((s.part x.tag).grids + 1))).out ∧ (∀ k, k ≠ s.nextKey → tget? u.grids k = tget? s.grids k) ∧
          u.mem = s.mem)))


end Statements
end

