-- ==== Sys2Proof/Laws/State.lean ====
section
/-! SUPPORT. Lemmas about tables, and what each update of the state leaves alone: one for each field and update. -/

namespace Sys2Proof.Machine

/-! ## Tables -/

/-- A key that has just been put is found. -/
theorem tget?_tput_self {α : Type} (t : Tbl α) (i : Nat) (v : α) : tget? (tput t i v) i = some v := by
  induction t with
  | nil => simp [tput, tget?]
  | cons e r ih =>
    obtain ⟨k, x⟩ := e
    by_cases h1 : i < k
    · simp [tput, h1, tget?]
    · by_cases h2 : i = k
      · subst h2; simp [tput, tget?]
      · have h3 : k ≠ i := fun h => h2 h.symm
        simp [tput, h1, h2, tget?, h3, ih]

/-- Putting one key leaves every other alone. -/
theorem tget?_tput_ne {α : Type} (t : Tbl α) {i j : Nat} (v : α) (h : j ≠ i) : tget? (tput t i v) j = tget? t j := by
  have hij : i ≠ j := fun e => h e.symm
  induction t with
  | nil => simp [tput, tget?, hij]
  | cons e r ih =>
    obtain ⟨k, x⟩ := e
    by_cases h1 : i < k
    · simp [tput, h1, tget?, hij]
    · by_cases h2 : i = k
      · subst h2; simp [tput, tget?, hij]
      · simp [tput, h1, h2, tget?, ih]

/-- A key that has just been put is found. -/
@[simp] theorem tget_tput_self {α : Type} (t : Tbl α) (i : Nat) (v d : α) : tget (tput t i v) i d = v := by
  simp [tget, tget?_tput_self]

/-- Putting one key leaves every other alone. -/
theorem tget_tput_ne {α : Type} (t : Tbl α) {i j : Nat} (v d : α) (h : j ≠ i) : tget (tput t i v) j d = tget t j d := by
  simp [tget, tget?_tput_ne t v h]

/-- A map over the entries that keeps keys maps what is found. -/
theorem tget?_map {α β : Type} (t : Tbl α) (f : Nat → α → β) (i : Nat) :
    tget? (t.map fun e => (e.1, f e.1 e.2)) i = (tget? t i).map (f i) := by
  induction t with
  | nil => rfl
  | cons e r ih =>
    obtain ⟨k, x⟩ := e
    by_cases h : k = i
    · subst h; simp [tget?]
    · simp [tget?, h]; exact ih

/-! ## Records of the state -/

@[simp] theorem State.gang_setGang_self (s : State) (k : Nat) (g : Gang) : (s.setGang k g).gang k = g := by
  simp [State.gang, State.setGang]
theorem State.gang_setGang_ne (s : State) {k j : Nat} (g : Gang) (h : j ≠ k) : (s.setGang k g).gang j = s.gang j := by
  simp [State.gang, State.setGang, tget_tput_ne _ _ _ h]
@[simp] theorem State.team_setTeam_self (s : State) (k : Nat) (t : Team) : (s.setTeam k t).team k = t := by
  simp [State.team, State.setTeam]
theorem State.team_setTeam_ne (s : State) {k j : Nat} (t : Team) (h : j ≠ k) : (s.setTeam k t).team j = s.team j := by
  simp [State.team, State.setTeam, tget_tput_ne _ _ _ h]
@[simp] theorem State.grid_setGrid_self (s : State) (k : Nat) (g : Grid) : (s.setGrid k g).grid k = g := by
  simp [State.grid, State.setGrid]
@[simp] theorem State.ctx_setCtx_self (s : State) (k : Nat) (c : Ctx) : (s.setCtx k c).ctx k = c := by
  simp [State.ctx, State.setCtx]
theorem State.ctx_setCtx_ne (s : State) {k j : Nat} (c : Ctx) (h : j ≠ k) : (s.setCtx k c).ctx j = s.ctx j := by
  simp [State.ctx, State.setCtx, tget_tput_ne _ _ _ h]
@[simp] theorem State.part_setPart_self (s : State) (k : Nat) (p : Part) : (s.setPart k p).part k = p := by
  simp [State.part, State.setPart]
@[simp] theorem State.core_setCore_self (s : State) (k : Nat) (c : Core) : (s.setCore k c).core k = c := by
  simp [State.core, State.setCore]
theorem State.core_setCore_ne (s : State) {k j : Nat} (c : Core) (h : j ≠ k) : (s.setCore k c).core j = s.core j := by
  simp [State.core, State.setCore, tget_tput_ne _ _ _ h]
@[simp] theorem State.cluster_setCluster_self (s : State) (k : Nat) (c : Cluster) : (s.setCluster k c).cluster k = c := by
  simp [State.cluster, State.setCluster]
theorem State.cluster_setCluster_ne (s : State) {k j : Nat} (c : Cluster) (h : j ≠ k) :
    (s.setCluster k c).cluster j = s.cluster j := by
  simp [State.cluster, State.setCluster, tget_tput_ne _ _ _ h]
@[simp] theorem State.rail_setRail_self (s : State) (k : Nat) (r : Rail) : (s.setRail k r).rail k = r := by
  simp [State.rail, State.setRail]

@[simp] theorem State.g_setG (s : State) (g : Gang) : (s.setG g).g = g := State.gang_setGang_self s s.cur g

/-! ### The records that an update leaves alone -/

@[simp] theorem State.setGang_team (s : State) (k : Nat) (g : Gang) (j : Nat) : (s.setGang k g).team j = s.team j := rfl
@[simp] theorem State.setGang_grid (s : State) (k : Nat) (g : Gang) (j : Nat) : (s.setGang k g).grid j = s.grid j := rfl
@[simp] theorem State.setGang_ctx (s : State) (k : Nat) (g : Gang) (j : Nat) : (s.setGang k g).ctx j = s.ctx j := rfl
@[simp] theorem State.setGang_part (s : State) (k : Nat) (g : Gang) (j : Nat) : (s.setGang k g).part j = s.part j := rfl
@[simp] theorem State.setGang_core (s : State) (k : Nat) (g : Gang) (j : Nat) : (s.setGang k g).core j = s.core j := rfl
@[simp] theorem State.setGang_cluster (s : State) (k : Nat) (g : Gang) (j : Nat) : (s.setGang k g).cluster j = s.cluster j := rfl
@[simp] theorem State.setGang_rail (s : State) (k : Nat) (g : Gang) (j : Nat) : (s.setGang k g).rail j = s.rail j := rfl

@[simp] theorem State.setTeam_gang (s : State) (k : Nat) (t : Team) (j : Nat) : (s.setTeam k t).gang j = s.gang j := rfl
@[simp] theorem State.setTeam_grid (s : State) (k : Nat) (t : Team) (j : Nat) : (s.setTeam k t).grid j = s.grid j := rfl
@[simp] theorem State.setTeam_ctx (s : State) (k : Nat) (t : Team) (j : Nat) : (s.setTeam k t).ctx j = s.ctx j := rfl
@[simp] theorem State.setTeam_part (s : State) (k : Nat) (t : Team) (j : Nat) : (s.setTeam k t).part j = s.part j := rfl
@[simp] theorem State.setTeam_core (s : State) (k : Nat) (t : Team) (j : Nat) : (s.setTeam k t).core j = s.core j := rfl
@[simp] theorem State.setTeam_cluster (s : State) (k : Nat) (t : Team) (j : Nat) : (s.setTeam k t).cluster j = s.cluster j := rfl
@[simp] theorem State.setTeam_rail (s : State) (k : Nat) (t : Team) (j : Nat) : (s.setTeam k t).rail j = s.rail j := rfl
@[simp] theorem State.setTeam_g (s : State) (k : Nat) (t : Team) : (s.setTeam k t).g = s.g := rfl

@[simp] theorem State.setGrid_gang (s : State) (k : Nat) (g : Grid) (j : Nat) : (s.setGrid k g).gang j = s.gang j := rfl
@[simp] theorem State.setGrid_team (s : State) (k : Nat) (g : Grid) (j : Nat) : (s.setGrid k g).team j = s.team j := rfl
@[simp] theorem State.setGrid_ctx (s : State) (k : Nat) (g : Grid) (j : Nat) : (s.setGrid k g).ctx j = s.ctx j := rfl
@[simp] theorem State.setGrid_part (s : State) (k : Nat) (g : Grid) (j : Nat) : (s.setGrid k g).part j = s.part j := rfl
@[simp] theorem State.setGrid_core (s : State) (k : Nat) (g : Grid) (j : Nat) : (s.setGrid k g).core j = s.core j := rfl
@[simp] theorem State.setGrid_cluster (s : State) (k : Nat) (g : Grid) (j : Nat) : (s.setGrid k g).cluster j = s.cluster j := rfl
@[simp] theorem State.setGrid_rail (s : State) (k : Nat) (g : Grid) (j : Nat) : (s.setGrid k g).rail j = s.rail j := rfl
@[simp] theorem State.setGrid_g (s : State) (k : Nat) (g : Grid) : (s.setGrid k g).g = s.g := rfl

@[simp] theorem State.setCtx_gang (s : State) (k : Nat) (c : Ctx) (j : Nat) : (s.setCtx k c).gang j = s.gang j := rfl
@[simp] theorem State.setCtx_team (s : State) (k : Nat) (c : Ctx) (j : Nat) : (s.setCtx k c).team j = s.team j := rfl
@[simp] theorem State.setCtx_grid (s : State) (k : Nat) (c : Ctx) (j : Nat) : (s.setCtx k c).grid j = s.grid j := rfl
@[simp] theorem State.setCtx_part (s : State) (k : Nat) (c : Ctx) (j : Nat) : (s.setCtx k c).part j = s.part j := rfl
@[simp] theorem State.setCtx_core (s : State) (k : Nat) (c : Ctx) (j : Nat) : (s.setCtx k c).core j = s.core j := rfl
@[simp] theorem State.setCtx_cluster (s : State) (k : Nat) (c : Ctx) (j : Nat) : (s.setCtx k c).cluster j = s.cluster j := rfl
@[simp] theorem State.setCtx_rail (s : State) (k : Nat) (c : Ctx) (j : Nat) : (s.setCtx k c).rail j = s.rail j := rfl
@[simp] theorem State.setCtx_g (s : State) (k : Nat) (c : Ctx) : (s.setCtx k c).g = s.g := rfl

@[simp] theorem State.setPart_gang (s : State) (k : Nat) (p : Part) (j : Nat) : (s.setPart k p).gang j = s.gang j := rfl
@[simp] theorem State.setPart_team (s : State) (k : Nat) (p : Part) (j : Nat) : (s.setPart k p).team j = s.team j := rfl
@[simp] theorem State.setPart_grid (s : State) (k : Nat) (p : Part) (j : Nat) : (s.setPart k p).grid j = s.grid j := rfl
@[simp] theorem State.setPart_ctx (s : State) (k : Nat) (p : Part) (j : Nat) : (s.setPart k p).ctx j = s.ctx j := rfl
@[simp] theorem State.setPart_core (s : State) (k : Nat) (p : Part) (j : Nat) : (s.setPart k p).core j = s.core j := rfl
@[simp] theorem State.setPart_cluster (s : State) (k : Nat) (p : Part) (j : Nat) : (s.setPart k p).cluster j = s.cluster j := rfl
@[simp] theorem State.setPart_rail (s : State) (k : Nat) (p : Part) (j : Nat) : (s.setPart k p).rail j = s.rail j := rfl
@[simp] theorem State.setPart_g (s : State) (k : Nat) (p : Part) : (s.setPart k p).g = s.g := rfl

@[simp] theorem State.setCore_gang (s : State) (k : Nat) (c : Core) (j : Nat) : (s.setCore k c).gang j = s.gang j := rfl
@[simp] theorem State.setCore_team (s : State) (k : Nat) (c : Core) (j : Nat) : (s.setCore k c).team j = s.team j := rfl
@[simp] theorem State.setCore_grid (s : State) (k : Nat) (c : Core) (j : Nat) : (s.setCore k c).grid j = s.grid j := rfl
@[simp] theorem State.setCore_ctx (s : State) (k : Nat) (c : Core) (j : Nat) : (s.setCore k c).ctx j = s.ctx j := rfl
@[simp] theorem State.setCore_part (s : State) (k : Nat) (c : Core) (j : Nat) : (s.setCore k c).part j = s.part j := rfl
@[simp] theorem State.setCore_cluster (s : State) (k : Nat) (c : Core) (j : Nat) : (s.setCore k c).cluster j = s.cluster j := rfl
@[simp] theorem State.setCore_rail (s : State) (k : Nat) (c : Core) (j : Nat) : (s.setCore k c).rail j = s.rail j := rfl
@[simp] theorem State.setCore_g (s : State) (k : Nat) (c : Core) : (s.setCore k c).g = s.g := rfl

@[simp] theorem State.setCluster_gang (s : State) (k : Nat) (c : Cluster) (j : Nat) : (s.setCluster k c).gang j = s.gang j := rfl
@[simp] theorem State.setCluster_team (s : State) (k : Nat) (c : Cluster) (j : Nat) : (s.setCluster k c).team j = s.team j := rfl
@[simp] theorem State.setCluster_grid (s : State) (k : Nat) (c : Cluster) (j : Nat) : (s.setCluster k c).grid j = s.grid j := rfl
@[simp] theorem State.setCluster_ctx (s : State) (k : Nat) (c : Cluster) (j : Nat) : (s.setCluster k c).ctx j = s.ctx j := rfl
@[simp] theorem State.setCluster_part (s : State) (k : Nat) (c : Cluster) (j : Nat) : (s.setCluster k c).part j = s.part j := rfl
@[simp] theorem State.setCluster_core (s : State) (k : Nat) (c : Cluster) (j : Nat) : (s.setCluster k c).core j = s.core j := rfl
@[simp] theorem State.setCluster_rail (s : State) (k : Nat) (c : Cluster) (j : Nat) : (s.setCluster k c).rail j = s.rail j := rfl
@[simp] theorem State.setCluster_g (s : State) (k : Nat) (c : Cluster) : (s.setCluster k c).g = s.g := rfl

@[simp] theorem State.setRail_gang (s : State) (k : Nat) (r : Rail) (j : Nat) : (s.setRail k r).gang j = s.gang j := rfl
@[simp] theorem State.setRail_team (s : State) (k : Nat) (r : Rail) (j : Nat) : (s.setRail k r).team j = s.team j := rfl
@[simp] theorem State.setRail_grid (s : State) (k : Nat) (r : Rail) (j : Nat) : (s.setRail k r).grid j = s.grid j := rfl
@[simp] theorem State.setRail_ctx (s : State) (k : Nat) (r : Rail) (j : Nat) : (s.setRail k r).ctx j = s.ctx j := rfl
@[simp] theorem State.setRail_part (s : State) (k : Nat) (r : Rail) (j : Nat) : (s.setRail k r).part j = s.part j := rfl
@[simp] theorem State.setRail_core (s : State) (k : Nat) (r : Rail) (j : Nat) : (s.setRail k r).core j = s.core j := rfl
@[simp] theorem State.setRail_cluster (s : State) (k : Nat) (r : Rail) (j : Nat) : (s.setRail k r).cluster j = s.cluster j := rfl
@[simp] theorem State.setRail_g (s : State) (k : Nat) (r : Rail) : (s.setRail k r).g = s.g := rfl

@[simp] theorem State.send_gang (s : State) (o : Out) (j : Nat) : (s.send o).gang j = s.gang j := rfl
@[simp] theorem State.send_team (s : State) (o : Out) (j : Nat) : (s.send o).team j = s.team j := rfl
@[simp] theorem State.send_grid (s : State) (o : Out) (j : Nat) : (s.send o).grid j = s.grid j := rfl
@[simp] theorem State.send_ctx (s : State) (o : Out) (j : Nat) : (s.send o).ctx j = s.ctx j := rfl
@[simp] theorem State.send_part (s : State) (o : Out) (j : Nat) : (s.send o).part j = s.part j := rfl
@[simp] theorem State.send_core (s : State) (o : Out) (j : Nat) : (s.send o).core j = s.core j := rfl
@[simp] theorem State.send_cluster (s : State) (o : Out) (j : Nat) : (s.send o).cluster j = s.cluster j := rfl
@[simp] theorem State.send_rail (s : State) (o : Out) (j : Nat) : (s.send o).rail j = s.rail j := rfl
@[simp] theorem State.send_g (s : State) (o : Out) : (s.send o).g = s.g := rfl

@[simp] theorem State.setOp_gang (s : State) (o : Op) (j : Nat) : (s.setOp o).gang j = s.gang j := rfl
@[simp] theorem State.setOp_team (s : State) (o : Op) (j : Nat) : (s.setOp o).team j = s.team j := rfl
@[simp] theorem State.setOp_grid (s : State) (o : Op) (j : Nat) : (s.setOp o).grid j = s.grid j := rfl
@[simp] theorem State.setOp_ctx (s : State) (o : Op) (j : Nat) : (s.setOp o).ctx j = s.ctx j := rfl
@[simp] theorem State.setOp_part (s : State) (o : Op) (j : Nat) : (s.setOp o).part j = s.part j := rfl
@[simp] theorem State.setOp_core (s : State) (o : Op) (j : Nat) : (s.setOp o).core j = s.core j := rfl
@[simp] theorem State.setOp_cluster (s : State) (o : Op) (j : Nat) : (s.setOp o).cluster j = s.cluster j := rfl
@[simp] theorem State.setOp_rail (s : State) (o : Op) (j : Nat) : (s.setOp o).rail j = s.rail j := rfl
@[simp] theorem State.setOp_g (s : State) (o : Op) : (s.setOp o).g = s.g := rfl

@[simp] theorem State.dropOp_gang (s : State) (id : Nat) (j : Nat) : (s.dropOp id).gang j = s.gang j := rfl
@[simp] theorem State.dropOp_team (s : State) (id : Nat) (j : Nat) : (s.dropOp id).team j = s.team j := rfl
@[simp] theorem State.dropOp_grid (s : State) (id : Nat) (j : Nat) : (s.dropOp id).grid j = s.grid j := rfl
@[simp] theorem State.dropOp_ctx (s : State) (id : Nat) (j : Nat) : (s.dropOp id).ctx j = s.ctx j := rfl
@[simp] theorem State.dropOp_part (s : State) (id : Nat) (j : Nat) : (s.dropOp id).part j = s.part j := rfl
@[simp] theorem State.dropOp_core (s : State) (id : Nat) (j : Nat) : (s.dropOp id).core j = s.core j := rfl
@[simp] theorem State.dropOp_cluster (s : State) (id : Nat) (j : Nat) : (s.dropOp id).cluster j = s.cluster j := rfl
@[simp] theorem State.dropOp_rail (s : State) (id : Nat) (j : Nat) : (s.dropOp id).rail j = s.rail j := rfl
@[simp] theorem State.dropOp_g (s : State) (id : Nat) : (s.dropOp id).g = s.g := rfl

/-! ### setGang: every field but gangs stays -/

@[simp] theorem State.setGang_agenda (s : State) (k : Nat) (g : Gang) : (s.setGang k g).agenda = s.agenda := rfl
@[simp] theorem State.setGang_phase (s : State) (k : Nat) (g : Gang) : (s.setGang k g).phase = s.phase := rfl
@[simp] theorem State.setGang_cur (s : State) (k : Nat) (g : Gang) : (s.setGang k g).cur = s.cur := rfl
@[simp] theorem State.setGang_pace (s : State) (k : Nat) (g : Gang) : (s.setGang k g).pace = s.pace := rfl
@[simp] theorem State.setGang_ns (s : State) (k : Nat) (g : Gang) : (s.setGang k g).ns = s.ns := rfl
@[simp] theorem State.setGang_cyc (s : State) (k : Nat) (g : Gang) : (s.setGang k g).cyc = s.cyc := rfl
@[simp] theorem State.setGang_ptp (s : State) (k : Nat) (g : Gang) : (s.setGang k g).ptp = s.ptp := rfl
@[simp] theorem State.setGang_freeCtr (s : State) (k : Nat) (g : Gang) : (s.setGang k g).freeCtr = s.freeCtr := rfl
@[simp] theorem State.setGang_nextKey (s : State) (k : Nat) (g : Gang) : (s.setGang k g).nextKey = s.nextKey := rfl
@[simp] theorem State.setGang_nextOp (s : State) (k : Nat) (g : Gang) : (s.setGang k g).nextOp = s.nextOp := rfl
@[simp] theorem State.setGang_nextOrder (s : State) (k : Nat) (g : Gang) : (s.setGang k g).nextOrder = s.nextOrder := rfl
@[simp] theorem State.setGang_dev (s : State) (k : Nat) (g : Gang) : (s.setGang k g).dev = s.dev := rfl
@[simp] theorem State.setGang_mem (s : State) (k : Nat) (g : Gang) : (s.setGang k g).mem = s.mem := rfl
@[simp] theorem State.setGang_owners (s : State) (k : Nat) (g : Gang) : (s.setGang k g).owners = s.owners := rfl
@[simp] theorem State.setGang_lineG (s : State) (k : Nat) (g : Gang) : (s.setGang k g).lineG = s.lineG := rfl
@[simp] theorem State.setGang_bankMark (s : State) (k : Nat) (g : Gang) : (s.setGang k g).bankMark = s.bankMark := rfl
@[simp] theorem State.setGang_parts (s : State) (k : Nat) (g : Gang) : (s.setGang k g).parts = s.parts := rfl
@[simp] theorem State.setGang_ctxs (s : State) (k : Nat) (g : Gang) : (s.setGang k g).ctxs = s.ctxs := rfl
@[simp] theorem State.setGang_grids (s : State) (k : Nat) (g : Gang) : (s.setGang k g).grids = s.grids := rfl
@[simp] theorem State.setGang_teams (s : State) (k : Nat) (g : Gang) : (s.setGang k g).teams = s.teams := rfl
@[simp] theorem State.setGang_cores (s : State) (k : Nat) (g : Gang) : (s.setGang k g).cores = s.cores := rfl
@[simp] theorem State.setGang_clusters (s : State) (k : Nat) (g : Gang) : (s.setGang k g).clusters = s.clusters := rfl
@[simp] theorem State.setGang_rails (s : State) (k : Nat) (g : Gang) : (s.setGang k g).rails = s.rails := rfl
@[simp] theorem State.setGang_ops (s : State) (k : Nat) (g : Gang) : (s.setGang k g).ops = s.ops := rfl
@[simp] theorem State.setGang_jobs (s : State) (k : Nat) (g : Gang) : (s.setGang k g).jobs = s.jobs := rfl
@[simp] theorem State.setGang_chains (s : State) (k : Nat) (g : Gang) : (s.setGang k g).chains = s.chains := rfl
@[simp] theorem State.setGang_inbound (s : State) (k : Nat) (g : Gang) : (s.setGang k g).inbound = s.inbound := rfl
@[simp] theorem State.setGang_sessions (s : State) (k : Nat) (g : Gang) : (s.setGang k g).sessions = s.sessions := rfl
@[simp] theorem State.setGang_images (s : State) (k : Nat) (g : Gang) : (s.setGang k g).images = s.images := rfl
@[simp] theorem State.setGang_out (s : State) (k : Nat) (g : Gang) : (s.setGang k g).out = s.out := rfl

/-! ### setTeam: every field but teams stays -/

@[simp] theorem State.setTeam_agenda (s : State) (k : Nat) (t : Team) : (s.setTeam k t).agenda = s.agenda := rfl
@[simp] theorem State.setTeam_phase (s : State) (k : Nat) (t : Team) : (s.setTeam k t).phase = s.phase := rfl
@[simp] theorem State.setTeam_cur (s : State) (k : Nat) (t : Team) : (s.setTeam k t).cur = s.cur := rfl
@[simp] theorem State.setTeam_pace (s : State) (k : Nat) (t : Team) : (s.setTeam k t).pace = s.pace := rfl
@[simp] theorem State.setTeam_ns (s : State) (k : Nat) (t : Team) : (s.setTeam k t).ns = s.ns := rfl
@[simp] theorem State.setTeam_cyc (s : State) (k : Nat) (t : Team) : (s.setTeam k t).cyc = s.cyc := rfl
@[simp] theorem State.setTeam_ptp (s : State) (k : Nat) (t : Team) : (s.setTeam k t).ptp = s.ptp := rfl
@[simp] theorem State.setTeam_freeCtr (s : State) (k : Nat) (t : Team) : (s.setTeam k t).freeCtr = s.freeCtr := rfl
@[simp] theorem State.setTeam_nextKey (s : State) (k : Nat) (t : Team) : (s.setTeam k t).nextKey = s.nextKey := rfl
@[simp] theorem State.setTeam_nextOp (s : State) (k : Nat) (t : Team) : (s.setTeam k t).nextOp = s.nextOp := rfl
@[simp] theorem State.setTeam_nextOrder (s : State) (k : Nat) (t : Team) : (s.setTeam k t).nextOrder = s.nextOrder := rfl
@[simp] theorem State.setTeam_dev (s : State) (k : Nat) (t : Team) : (s.setTeam k t).dev = s.dev := rfl
@[simp] theorem State.setTeam_mem (s : State) (k : Nat) (t : Team) : (s.setTeam k t).mem = s.mem := rfl
@[simp] theorem State.setTeam_owners (s : State) (k : Nat) (t : Team) : (s.setTeam k t).owners = s.owners := rfl
@[simp] theorem State.setTeam_lineG (s : State) (k : Nat) (t : Team) : (s.setTeam k t).lineG = s.lineG := rfl
@[simp] theorem State.setTeam_bankMark (s : State) (k : Nat) (t : Team) : (s.setTeam k t).bankMark = s.bankMark := rfl
@[simp] theorem State.setTeam_parts (s : State) (k : Nat) (t : Team) : (s.setTeam k t).parts = s.parts := rfl
@[simp] theorem State.setTeam_ctxs (s : State) (k : Nat) (t : Team) : (s.setTeam k t).ctxs = s.ctxs := rfl
@[simp] theorem State.setTeam_grids (s : State) (k : Nat) (t : Team) : (s.setTeam k t).grids = s.grids := rfl
@[simp] theorem State.setTeam_gangs (s : State) (k : Nat) (t : Team) : (s.setTeam k t).gangs = s.gangs := rfl
@[simp] theorem State.setTeam_cores (s : State) (k : Nat) (t : Team) : (s.setTeam k t).cores = s.cores := rfl
@[simp] theorem State.setTeam_clusters (s : State) (k : Nat) (t : Team) : (s.setTeam k t).clusters = s.clusters := rfl
@[simp] theorem State.setTeam_rails (s : State) (k : Nat) (t : Team) : (s.setTeam k t).rails = s.rails := rfl
@[simp] theorem State.setTeam_ops (s : State) (k : Nat) (t : Team) : (s.setTeam k t).ops = s.ops := rfl
@[simp] theorem State.setTeam_jobs (s : State) (k : Nat) (t : Team) : (s.setTeam k t).jobs = s.jobs := rfl
@[simp] theorem State.setTeam_chains (s : State) (k : Nat) (t : Team) : (s.setTeam k t).chains = s.chains := rfl
@[simp] theorem State.setTeam_inbound (s : State) (k : Nat) (t : Team) : (s.setTeam k t).inbound = s.inbound := rfl
@[simp] theorem State.setTeam_sessions (s : State) (k : Nat) (t : Team) : (s.setTeam k t).sessions = s.sessions := rfl
@[simp] theorem State.setTeam_images (s : State) (k : Nat) (t : Team) : (s.setTeam k t).images = s.images := rfl
@[simp] theorem State.setTeam_out (s : State) (k : Nat) (t : Team) : (s.setTeam k t).out = s.out := rfl

/-! ### setGrid: every field but grids stays -/

@[simp] theorem State.setGrid_agenda (s : State) (k : Nat) (g : Grid) : (s.setGrid k g).agenda = s.agenda := rfl
@[simp] theorem State.setGrid_phase (s : State) (k : Nat) (g : Grid) : (s.setGrid k g).phase = s.phase := rfl
@[simp] theorem State.setGrid_cur (s : State) (k : Nat) (g : Grid) : (s.setGrid k g).cur = s.cur := rfl
@[simp] theorem State.setGrid_pace (s : State) (k : Nat) (g : Grid) : (s.setGrid k g).pace = s.pace := rfl
@[simp] theorem State.setGrid_ns (s : State) (k : Nat) (g : Grid) : (s.setGrid k g).ns = s.ns := rfl
@[simp] theorem State.setGrid_cyc (s : State) (k : Nat) (g : Grid) : (s.setGrid k g).cyc = s.cyc := rfl
@[simp] theorem State.setGrid_ptp (s : State) (k : Nat) (g : Grid) : (s.setGrid k g).ptp = s.ptp := rfl
@[simp] theorem State.setGrid_freeCtr (s : State) (k : Nat) (g : Grid) : (s.setGrid k g).freeCtr = s.freeCtr := rfl
@[simp] theorem State.setGrid_nextKey (s : State) (k : Nat) (g : Grid) : (s.setGrid k g).nextKey = s.nextKey := rfl
@[simp] theorem State.setGrid_nextOp (s : State) (k : Nat) (g : Grid) : (s.setGrid k g).nextOp = s.nextOp := rfl
@[simp] theorem State.setGrid_nextOrder (s : State) (k : Nat) (g : Grid) : (s.setGrid k g).nextOrder = s.nextOrder := rfl
@[simp] theorem State.setGrid_dev (s : State) (k : Nat) (g : Grid) : (s.setGrid k g).dev = s.dev := rfl
@[simp] theorem State.setGrid_mem (s : State) (k : Nat) (g : Grid) : (s.setGrid k g).mem = s.mem := rfl
@[simp] theorem State.setGrid_owners (s : State) (k : Nat) (g : Grid) : (s.setGrid k g).owners = s.owners := rfl
@[simp] theorem State.setGrid_lineG (s : State) (k : Nat) (g : Grid) : (s.setGrid k g).lineG = s.lineG := rfl
@[simp] theorem State.setGrid_bankMark (s : State) (k : Nat) (g : Grid) : (s.setGrid k g).bankMark = s.bankMark := rfl
@[simp] theorem State.setGrid_parts (s : State) (k : Nat) (g : Grid) : (s.setGrid k g).parts = s.parts := rfl
@[simp] theorem State.setGrid_ctxs (s : State) (k : Nat) (g : Grid) : (s.setGrid k g).ctxs = s.ctxs := rfl
@[simp] theorem State.setGrid_teams (s : State) (k : Nat) (g : Grid) : (s.setGrid k g).teams = s.teams := rfl
@[simp] theorem State.setGrid_gangs (s : State) (k : Nat) (g : Grid) : (s.setGrid k g).gangs = s.gangs := rfl
@[simp] theorem State.setGrid_cores (s : State) (k : Nat) (g : Grid) : (s.setGrid k g).cores = s.cores := rfl
@[simp] theorem State.setGrid_clusters (s : State) (k : Nat) (g : Grid) : (s.setGrid k g).clusters = s.clusters := rfl
@[simp] theorem State.setGrid_rails (s : State) (k : Nat) (g : Grid) : (s.setGrid k g).rails = s.rails := rfl
@[simp] theorem State.setGrid_ops (s : State) (k : Nat) (g : Grid) : (s.setGrid k g).ops = s.ops := rfl
@[simp] theorem State.setGrid_jobs (s : State) (k : Nat) (g : Grid) : (s.setGrid k g).jobs = s.jobs := rfl
@[simp] theorem State.setGrid_chains (s : State) (k : Nat) (g : Grid) : (s.setGrid k g).chains = s.chains := rfl
@[simp] theorem State.setGrid_inbound (s : State) (k : Nat) (g : Grid) : (s.setGrid k g).inbound = s.inbound := rfl
@[simp] theorem State.setGrid_sessions (s : State) (k : Nat) (g : Grid) : (s.setGrid k g).sessions = s.sessions := rfl
@[simp] theorem State.setGrid_images (s : State) (k : Nat) (g : Grid) : (s.setGrid k g).images = s.images := rfl
@[simp] theorem State.setGrid_out (s : State) (k : Nat) (g : Grid) : (s.setGrid k g).out = s.out := rfl

/-! ### setCtx: every field but ctxs stays -/

@[simp] theorem State.setCtx_agenda (s : State) (k : Nat) (c : Ctx) : (s.setCtx k c).agenda = s.agenda := rfl
@[simp] theorem State.setCtx_phase (s : State) (k : Nat) (c : Ctx) : (s.setCtx k c).phase = s.phase := rfl
@[simp] theorem State.setCtx_cur (s : State) (k : Nat) (c : Ctx) : (s.setCtx k c).cur = s.cur := rfl
@[simp] theorem State.setCtx_pace (s : State) (k : Nat) (c : Ctx) : (s.setCtx k c).pace = s.pace := rfl
@[simp] theorem State.setCtx_ns (s : State) (k : Nat) (c : Ctx) : (s.setCtx k c).ns = s.ns := rfl
@[simp] theorem State.setCtx_cyc (s : State) (k : Nat) (c : Ctx) : (s.setCtx k c).cyc = s.cyc := rfl
@[simp] theorem State.setCtx_ptp (s : State) (k : Nat) (c : Ctx) : (s.setCtx k c).ptp = s.ptp := rfl
@[simp] theorem State.setCtx_freeCtr (s : State) (k : Nat) (c : Ctx) : (s.setCtx k c).freeCtr = s.freeCtr := rfl
@[simp] theorem State.setCtx_nextKey (s : State) (k : Nat) (c : Ctx) : (s.setCtx k c).nextKey = s.nextKey := rfl
@[simp] theorem State.setCtx_nextOp (s : State) (k : Nat) (c : Ctx) : (s.setCtx k c).nextOp = s.nextOp := rfl
@[simp] theorem State.setCtx_nextOrder (s : State) (k : Nat) (c : Ctx) : (s.setCtx k c).nextOrder = s.nextOrder := rfl
@[simp] theorem State.setCtx_dev (s : State) (k : Nat) (c : Ctx) : (s.setCtx k c).dev = s.dev := rfl
@[simp] theorem State.setCtx_mem (s : State) (k : Nat) (c : Ctx) : (s.setCtx k c).mem = s.mem := rfl
@[simp] theorem State.setCtx_owners (s : State) (k : Nat) (c : Ctx) : (s.setCtx k c).owners = s.owners := rfl
@[simp] theorem State.setCtx_lineG (s : State) (k : Nat) (c : Ctx) : (s.setCtx k c).lineG = s.lineG := rfl
@[simp] theorem State.setCtx_bankMark (s : State) (k : Nat) (c : Ctx) : (s.setCtx k c).bankMark = s.bankMark := rfl
@[simp] theorem State.setCtx_parts (s : State) (k : Nat) (c : Ctx) : (s.setCtx k c).parts = s.parts := rfl
@[simp] theorem State.setCtx_grids (s : State) (k : Nat) (c : Ctx) : (s.setCtx k c).grids = s.grids := rfl
@[simp] theorem State.setCtx_teams (s : State) (k : Nat) (c : Ctx) : (s.setCtx k c).teams = s.teams := rfl
@[simp] theorem State.setCtx_gangs (s : State) (k : Nat) (c : Ctx) : (s.setCtx k c).gangs = s.gangs := rfl
@[simp] theorem State.setCtx_cores (s : State) (k : Nat) (c : Ctx) : (s.setCtx k c).cores = s.cores := rfl
@[simp] theorem State.setCtx_clusters (s : State) (k : Nat) (c : Ctx) : (s.setCtx k c).clusters = s.clusters := rfl
@[simp] theorem State.setCtx_rails (s : State) (k : Nat) (c : Ctx) : (s.setCtx k c).rails = s.rails := rfl
@[simp] theorem State.setCtx_ops (s : State) (k : Nat) (c : Ctx) : (s.setCtx k c).ops = s.ops := rfl
@[simp] theorem State.setCtx_jobs (s : State) (k : Nat) (c : Ctx) : (s.setCtx k c).jobs = s.jobs := rfl
@[simp] theorem State.setCtx_chains (s : State) (k : Nat) (c : Ctx) : (s.setCtx k c).chains = s.chains := rfl
@[simp] theorem State.setCtx_inbound (s : State) (k : Nat) (c : Ctx) : (s.setCtx k c).inbound = s.inbound := rfl
@[simp] theorem State.setCtx_sessions (s : State) (k : Nat) (c : Ctx) : (s.setCtx k c).sessions = s.sessions := rfl
@[simp] theorem State.setCtx_images (s : State) (k : Nat) (c : Ctx) : (s.setCtx k c).images = s.images := rfl
@[simp] theorem State.setCtx_out (s : State) (k : Nat) (c : Ctx) : (s.setCtx k c).out = s.out := rfl

/-! ### setPart: every field but parts stays -/

@[simp] theorem State.setPart_agenda (s : State) (k : Nat) (p : Part) : (s.setPart k p).agenda = s.agenda := rfl
@[simp] theorem State.setPart_phase (s : State) (k : Nat) (p : Part) : (s.setPart k p).phase = s.phase := rfl
@[simp] theorem State.setPart_cur (s : State) (k : Nat) (p : Part) : (s.setPart k p).cur = s.cur := rfl
@[simp] theorem State.setPart_pace (s : State) (k : Nat) (p : Part) : (s.setPart k p).pace = s.pace := rfl
@[simp] theorem State.setPart_ns (s : State) (k : Nat) (p : Part) : (s.setPart k p).ns = s.ns := rfl
@[simp] theorem State.setPart_cyc (s : State) (k : Nat) (p : Part) : (s.setPart k p).cyc = s.cyc := rfl
@[simp] theorem State.setPart_ptp (s : State) (k : Nat) (p : Part) : (s.setPart k p).ptp = s.ptp := rfl
@[simp] theorem State.setPart_freeCtr (s : State) (k : Nat) (p : Part) : (s.setPart k p).freeCtr = s.freeCtr := rfl
@[simp] theorem State.setPart_nextKey (s : State) (k : Nat) (p : Part) : (s.setPart k p).nextKey = s.nextKey := rfl
@[simp] theorem State.setPart_nextOp (s : State) (k : Nat) (p : Part) : (s.setPart k p).nextOp = s.nextOp := rfl
@[simp] theorem State.setPart_nextOrder (s : State) (k : Nat) (p : Part) : (s.setPart k p).nextOrder = s.nextOrder := rfl
@[simp] theorem State.setPart_dev (s : State) (k : Nat) (p : Part) : (s.setPart k p).dev = s.dev := rfl
@[simp] theorem State.setPart_mem (s : State) (k : Nat) (p : Part) : (s.setPart k p).mem = s.mem := rfl
@[simp] theorem State.setPart_owners (s : State) (k : Nat) (p : Part) : (s.setPart k p).owners = s.owners := rfl
@[simp] theorem State.setPart_lineG (s : State) (k : Nat) (p : Part) : (s.setPart k p).lineG = s.lineG := rfl
@[simp] theorem State.setPart_bankMark (s : State) (k : Nat) (p : Part) : (s.setPart k p).bankMark = s.bankMark := rfl
@[simp] theorem State.setPart_ctxs (s : State) (k : Nat) (p : Part) : (s.setPart k p).ctxs = s.ctxs := rfl
@[simp] theorem State.setPart_grids (s : State) (k : Nat) (p : Part) : (s.setPart k p).grids = s.grids := rfl
@[simp] theorem State.setPart_teams (s : State) (k : Nat) (p : Part) : (s.setPart k p).teams = s.teams := rfl
@[simp] theorem State.setPart_gangs (s : State) (k : Nat) (p : Part) : (s.setPart k p).gangs = s.gangs := rfl
@[simp] theorem State.setPart_cores (s : State) (k : Nat) (p : Part) : (s.setPart k p).cores = s.cores := rfl
@[simp] theorem State.setPart_clusters (s : State) (k : Nat) (p : Part) : (s.setPart k p).clusters = s.clusters := rfl
@[simp] theorem State.setPart_rails (s : State) (k : Nat) (p : Part) : (s.setPart k p).rails = s.rails := rfl
@[simp] theorem State.setPart_ops (s : State) (k : Nat) (p : Part) : (s.setPart k p).ops = s.ops := rfl
@[simp] theorem State.setPart_jobs (s : State) (k : Nat) (p : Part) : (s.setPart k p).jobs = s.jobs := rfl
@[simp] theorem State.setPart_chains (s : State) (k : Nat) (p : Part) : (s.setPart k p).chains = s.chains := rfl
@[simp] theorem State.setPart_inbound (s : State) (k : Nat) (p : Part) : (s.setPart k p).inbound = s.inbound := rfl
@[simp] theorem State.setPart_sessions (s : State) (k : Nat) (p : Part) : (s.setPart k p).sessions = s.sessions := rfl
@[simp] theorem State.setPart_images (s : State) (k : Nat) (p : Part) : (s.setPart k p).images = s.images := rfl
@[simp] theorem State.setPart_out (s : State) (k : Nat) (p : Part) : (s.setPart k p).out = s.out := rfl

/-! ### setCore: every field but cores stays -/

@[simp] theorem State.setCore_agenda (s : State) (k : Nat) (c : Core) : (s.setCore k c).agenda = s.agenda := rfl
@[simp] theorem State.setCore_phase (s : State) (k : Nat) (c : Core) : (s.setCore k c).phase = s.phase := rfl
@[simp] theorem State.setCore_cur (s : State) (k : Nat) (c : Core) : (s.setCore k c).cur = s.cur := rfl
@[simp] theorem State.setCore_pace (s : State) (k : Nat) (c : Core) : (s.setCore k c).pace = s.pace := rfl
@[simp] theorem State.setCore_ns (s : State) (k : Nat) (c : Core) : (s.setCore k c).ns = s.ns := rfl
@[simp] theorem State.setCore_cyc (s : State) (k : Nat) (c : Core) : (s.setCore k c).cyc = s.cyc := rfl
@[simp] theorem State.setCore_ptp (s : State) (k : Nat) (c : Core) : (s.setCore k c).ptp = s.ptp := rfl
@[simp] theorem State.setCore_freeCtr (s : State) (k : Nat) (c : Core) : (s.setCore k c).freeCtr = s.freeCtr := rfl
@[simp] theorem State.setCore_nextKey (s : State) (k : Nat) (c : Core) : (s.setCore k c).nextKey = s.nextKey := rfl
@[simp] theorem State.setCore_nextOp (s : State) (k : Nat) (c : Core) : (s.setCore k c).nextOp = s.nextOp := rfl
@[simp] theorem State.setCore_nextOrder (s : State) (k : Nat) (c : Core) : (s.setCore k c).nextOrder = s.nextOrder := rfl
@[simp] theorem State.setCore_dev (s : State) (k : Nat) (c : Core) : (s.setCore k c).dev = s.dev := rfl
@[simp] theorem State.setCore_mem (s : State) (k : Nat) (c : Core) : (s.setCore k c).mem = s.mem := rfl
@[simp] theorem State.setCore_owners (s : State) (k : Nat) (c : Core) : (s.setCore k c).owners = s.owners := rfl
@[simp] theorem State.setCore_lineG (s : State) (k : Nat) (c : Core) : (s.setCore k c).lineG = s.lineG := rfl
@[simp] theorem State.setCore_bankMark (s : State) (k : Nat) (c : Core) : (s.setCore k c).bankMark = s.bankMark := rfl
@[simp] theorem State.setCore_parts (s : State) (k : Nat) (c : Core) : (s.setCore k c).parts = s.parts := rfl
@[simp] theorem State.setCore_ctxs (s : State) (k : Nat) (c : Core) : (s.setCore k c).ctxs = s.ctxs := rfl
@[simp] theorem State.setCore_grids (s : State) (k : Nat) (c : Core) : (s.setCore k c).grids = s.grids := rfl
@[simp] theorem State.setCore_teams (s : State) (k : Nat) (c : Core) : (s.setCore k c).teams = s.teams := rfl
@[simp] theorem State.setCore_gangs (s : State) (k : Nat) (c : Core) : (s.setCore k c).gangs = s.gangs := rfl
@[simp] theorem State.setCore_clusters (s : State) (k : Nat) (c : Core) : (s.setCore k c).clusters = s.clusters := rfl
@[simp] theorem State.setCore_rails (s : State) (k : Nat) (c : Core) : (s.setCore k c).rails = s.rails := rfl
@[simp] theorem State.setCore_ops (s : State) (k : Nat) (c : Core) : (s.setCore k c).ops = s.ops := rfl
@[simp] theorem State.setCore_jobs (s : State) (k : Nat) (c : Core) : (s.setCore k c).jobs = s.jobs := rfl
@[simp] theorem State.setCore_chains (s : State) (k : Nat) (c : Core) : (s.setCore k c).chains = s.chains := rfl
@[simp] theorem State.setCore_inbound (s : State) (k : Nat) (c : Core) : (s.setCore k c).inbound = s.inbound := rfl
@[simp] theorem State.setCore_sessions (s : State) (k : Nat) (c : Core) : (s.setCore k c).sessions = s.sessions := rfl
@[simp] theorem State.setCore_images (s : State) (k : Nat) (c : Core) : (s.setCore k c).images = s.images := rfl
@[simp] theorem State.setCore_out (s : State) (k : Nat) (c : Core) : (s.setCore k c).out = s.out := rfl

/-! ### setCluster: every field but clusters stays -/

@[simp] theorem State.setCluster_agenda (s : State) (k : Nat) (c : Cluster) : (s.setCluster k c).agenda = s.agenda := rfl
@[simp] theorem State.setCluster_phase (s : State) (k : Nat) (c : Cluster) : (s.setCluster k c).phase = s.phase := rfl
@[simp] theorem State.setCluster_cur (s : State) (k : Nat) (c : Cluster) : (s.setCluster k c).cur = s.cur := rfl
@[simp] theorem State.setCluster_pace (s : State) (k : Nat) (c : Cluster) : (s.setCluster k c).pace = s.pace := rfl
@[simp] theorem State.setCluster_ns (s : State) (k : Nat) (c : Cluster) : (s.setCluster k c).ns = s.ns := rfl
@[simp] theorem State.setCluster_cyc (s : State) (k : Nat) (c : Cluster) : (s.setCluster k c).cyc = s.cyc := rfl
@[simp] theorem State.setCluster_ptp (s : State) (k : Nat) (c : Cluster) : (s.setCluster k c).ptp = s.ptp := rfl
@[simp] theorem State.setCluster_freeCtr (s : State) (k : Nat) (c : Cluster) : (s.setCluster k c).freeCtr = s.freeCtr := rfl
@[simp] theorem State.setCluster_nextKey (s : State) (k : Nat) (c : Cluster) : (s.setCluster k c).nextKey = s.nextKey := rfl
@[simp] theorem State.setCluster_nextOp (s : State) (k : Nat) (c : Cluster) : (s.setCluster k c).nextOp = s.nextOp := rfl
@[simp] theorem State.setCluster_nextOrder (s : State) (k : Nat) (c : Cluster) : (s.setCluster k c).nextOrder = s.nextOrder := rfl
@[simp] theorem State.setCluster_dev (s : State) (k : Nat) (c : Cluster) : (s.setCluster k c).dev = s.dev := rfl
@[simp] theorem State.setCluster_mem (s : State) (k : Nat) (c : Cluster) : (s.setCluster k c).mem = s.mem := rfl
@[simp] theorem State.setCluster_owners (s : State) (k : Nat) (c : Cluster) : (s.setCluster k c).owners = s.owners := rfl
@[simp] theorem State.setCluster_lineG (s : State) (k : Nat) (c : Cluster) : (s.setCluster k c).lineG = s.lineG := rfl
@[simp] theorem State.setCluster_bankMark (s : State) (k : Nat) (c : Cluster) : (s.setCluster k c).bankMark = s.bankMark := rfl
@[simp] theorem State.setCluster_parts (s : State) (k : Nat) (c : Cluster) : (s.setCluster k c).parts = s.parts := rfl
@[simp] theorem State.setCluster_ctxs (s : State) (k : Nat) (c : Cluster) : (s.setCluster k c).ctxs = s.ctxs := rfl
@[simp] theorem State.setCluster_grids (s : State) (k : Nat) (c : Cluster) : (s.setCluster k c).grids = s.grids := rfl
@[simp] theorem State.setCluster_teams (s : State) (k : Nat) (c : Cluster) : (s.setCluster k c).teams = s.teams := rfl
@[simp] theorem State.setCluster_gangs (s : State) (k : Nat) (c : Cluster) : (s.setCluster k c).gangs = s.gangs := rfl
@[simp] theorem State.setCluster_cores (s : State) (k : Nat) (c : Cluster) : (s.setCluster k c).cores = s.cores := rfl
@[simp] theorem State.setCluster_rails (s : State) (k : Nat) (c : Cluster) : (s.setCluster k c).rails = s.rails := rfl
@[simp] theorem State.setCluster_ops (s : State) (k : Nat) (c : Cluster) : (s.setCluster k c).ops = s.ops := rfl
@[simp] theorem State.setCluster_jobs (s : State) (k : Nat) (c : Cluster) : (s.setCluster k c).jobs = s.jobs := rfl
@[simp] theorem State.setCluster_chains (s : State) (k : Nat) (c : Cluster) : (s.setCluster k c).chains = s.chains := rfl
@[simp] theorem State.setCluster_inbound (s : State) (k : Nat) (c : Cluster) : (s.setCluster k c).inbound = s.inbound := rfl
@[simp] theorem State.setCluster_sessions (s : State) (k : Nat) (c : Cluster) : (s.setCluster k c).sessions = s.sessions := rfl
@[simp] theorem State.setCluster_images (s : State) (k : Nat) (c : Cluster) : (s.setCluster k c).images = s.images := rfl
@[simp] theorem State.setCluster_out (s : State) (k : Nat) (c : Cluster) : (s.setCluster k c).out = s.out := rfl

/-! ### setRail: every field but rails stays -/

@[simp] theorem State.setRail_agenda (s : State) (k : Nat) (r : Rail) : (s.setRail k r).agenda = s.agenda := rfl
@[simp] theorem State.setRail_phase (s : State) (k : Nat) (r : Rail) : (s.setRail k r).phase = s.phase := rfl
@[simp] theorem State.setRail_cur (s : State) (k : Nat) (r : Rail) : (s.setRail k r).cur = s.cur := rfl
@[simp] theorem State.setRail_pace (s : State) (k : Nat) (r : Rail) : (s.setRail k r).pace = s.pace := rfl
@[simp] theorem State.setRail_ns (s : State) (k : Nat) (r : Rail) : (s.setRail k r).ns = s.ns := rfl
@[simp] theorem State.setRail_cyc (s : State) (k : Nat) (r : Rail) : (s.setRail k r).cyc = s.cyc := rfl
@[simp] theorem State.setRail_ptp (s : State) (k : Nat) (r : Rail) : (s.setRail k r).ptp = s.ptp := rfl
@[simp] theorem State.setRail_freeCtr (s : State) (k : Nat) (r : Rail) : (s.setRail k r).freeCtr = s.freeCtr := rfl
@[simp] theorem State.setRail_nextKey (s : State) (k : Nat) (r : Rail) : (s.setRail k r).nextKey = s.nextKey := rfl
@[simp] theorem State.setRail_nextOp (s : State) (k : Nat) (r : Rail) : (s.setRail k r).nextOp = s.nextOp := rfl
@[simp] theorem State.setRail_nextOrder (s : State) (k : Nat) (r : Rail) : (s.setRail k r).nextOrder = s.nextOrder := rfl
@[simp] theorem State.setRail_dev (s : State) (k : Nat) (r : Rail) : (s.setRail k r).dev = s.dev := rfl
@[simp] theorem State.setRail_mem (s : State) (k : Nat) (r : Rail) : (s.setRail k r).mem = s.mem := rfl
@[simp] theorem State.setRail_owners (s : State) (k : Nat) (r : Rail) : (s.setRail k r).owners = s.owners := rfl
@[simp] theorem State.setRail_lineG (s : State) (k : Nat) (r : Rail) : (s.setRail k r).lineG = s.lineG := rfl
@[simp] theorem State.setRail_bankMark (s : State) (k : Nat) (r : Rail) : (s.setRail k r).bankMark = s.bankMark := rfl
@[simp] theorem State.setRail_parts (s : State) (k : Nat) (r : Rail) : (s.setRail k r).parts = s.parts := rfl
@[simp] theorem State.setRail_ctxs (s : State) (k : Nat) (r : Rail) : (s.setRail k r).ctxs = s.ctxs := rfl
@[simp] theorem State.setRail_grids (s : State) (k : Nat) (r : Rail) : (s.setRail k r).grids = s.grids := rfl
@[simp] theorem State.setRail_teams (s : State) (k : Nat) (r : Rail) : (s.setRail k r).teams = s.teams := rfl
@[simp] theorem State.setRail_gangs (s : State) (k : Nat) (r : Rail) : (s.setRail k r).gangs = s.gangs := rfl
@[simp] theorem State.setRail_cores (s : State) (k : Nat) (r : Rail) : (s.setRail k r).cores = s.cores := rfl
@[simp] theorem State.setRail_clusters (s : State) (k : Nat) (r : Rail) : (s.setRail k r).clusters = s.clusters := rfl
@[simp] theorem State.setRail_ops (s : State) (k : Nat) (r : Rail) : (s.setRail k r).ops = s.ops := rfl
@[simp] theorem State.setRail_jobs (s : State) (k : Nat) (r : Rail) : (s.setRail k r).jobs = s.jobs := rfl
@[simp] theorem State.setRail_chains (s : State) (k : Nat) (r : Rail) : (s.setRail k r).chains = s.chains := rfl
@[simp] theorem State.setRail_inbound (s : State) (k : Nat) (r : Rail) : (s.setRail k r).inbound = s.inbound := rfl
@[simp] theorem State.setRail_sessions (s : State) (k : Nat) (r : Rail) : (s.setRail k r).sessions = s.sessions := rfl
@[simp] theorem State.setRail_images (s : State) (k : Nat) (r : Rail) : (s.setRail k r).images = s.images := rfl
@[simp] theorem State.setRail_out (s : State) (k : Nat) (r : Rail) : (s.setRail k r).out = s.out := rfl

/-! ### send: every field but out stays -/

@[simp] theorem State.send_agenda (s : State) (o : Out) : (s.send o).agenda = s.agenda := rfl
@[simp] theorem State.send_phase (s : State) (o : Out) : (s.send o).phase = s.phase := rfl
@[simp] theorem State.send_cur (s : State) (o : Out) : (s.send o).cur = s.cur := rfl
@[simp] theorem State.send_pace (s : State) (o : Out) : (s.send o).pace = s.pace := rfl
@[simp] theorem State.send_ns (s : State) (o : Out) : (s.send o).ns = s.ns := rfl
@[simp] theorem State.send_cyc (s : State) (o : Out) : (s.send o).cyc = s.cyc := rfl
@[simp] theorem State.send_ptp (s : State) (o : Out) : (s.send o).ptp = s.ptp := rfl
@[simp] theorem State.send_freeCtr (s : State) (o : Out) : (s.send o).freeCtr = s.freeCtr := rfl
@[simp] theorem State.send_nextKey (s : State) (o : Out) : (s.send o).nextKey = s.nextKey := rfl
@[simp] theorem State.send_nextOp (s : State) (o : Out) : (s.send o).nextOp = s.nextOp := rfl
@[simp] theorem State.send_nextOrder (s : State) (o : Out) : (s.send o).nextOrder = s.nextOrder := rfl
@[simp] theorem State.send_dev (s : State) (o : Out) : (s.send o).dev = s.dev := rfl
@[simp] theorem State.send_mem (s : State) (o : Out) : (s.send o).mem = s.mem := rfl
@[simp] theorem State.send_owners (s : State) (o : Out) : (s.send o).owners = s.owners := rfl
@[simp] theorem State.send_lineG (s : State) (o : Out) : (s.send o).lineG = s.lineG := rfl
@[simp] theorem State.send_bankMark (s : State) (o : Out) : (s.send o).bankMark = s.bankMark := rfl
@[simp] theorem State.send_parts (s : State) (o : Out) : (s.send o).parts = s.parts := rfl
@[simp] theorem State.send_ctxs (s : State) (o : Out) : (s.send o).ctxs = s.ctxs := rfl
@[simp] theorem State.send_grids (s : State) (o : Out) : (s.send o).grids = s.grids := rfl
@[simp] theorem State.send_teams (s : State) (o : Out) : (s.send o).teams = s.teams := rfl
@[simp] theorem State.send_gangs (s : State) (o : Out) : (s.send o).gangs = s.gangs := rfl
@[simp] theorem State.send_cores (s : State) (o : Out) : (s.send o).cores = s.cores := rfl
@[simp] theorem State.send_clusters (s : State) (o : Out) : (s.send o).clusters = s.clusters := rfl
@[simp] theorem State.send_rails (s : State) (o : Out) : (s.send o).rails = s.rails := rfl
@[simp] theorem State.send_ops (s : State) (o : Out) : (s.send o).ops = s.ops := rfl
@[simp] theorem State.send_jobs (s : State) (o : Out) : (s.send o).jobs = s.jobs := rfl
@[simp] theorem State.send_chains (s : State) (o : Out) : (s.send o).chains = s.chains := rfl
@[simp] theorem State.send_inbound (s : State) (o : Out) : (s.send o).inbound = s.inbound := rfl
@[simp] theorem State.send_sessions (s : State) (o : Out) : (s.send o).sessions = s.sessions := rfl
@[simp] theorem State.send_images (s : State) (o : Out) : (s.send o).images = s.images := rfl

/-! ### setOp: every field but ops stays -/

@[simp] theorem State.setOp_agenda (s : State) (o : Op) : (s.setOp o).agenda = s.agenda := rfl
@[simp] theorem State.setOp_phase (s : State) (o : Op) : (s.setOp o).phase = s.phase := rfl
@[simp] theorem State.setOp_cur (s : State) (o : Op) : (s.setOp o).cur = s.cur := rfl
@[simp] theorem State.setOp_pace (s : State) (o : Op) : (s.setOp o).pace = s.pace := rfl
@[simp] theorem State.setOp_ns (s : State) (o : Op) : (s.setOp o).ns = s.ns := rfl
@[simp] theorem State.setOp_cyc (s : State) (o : Op) : (s.setOp o).cyc = s.cyc := rfl
@[simp] theorem State.setOp_ptp (s : State) (o : Op) : (s.setOp o).ptp = s.ptp := rfl
@[simp] theorem State.setOp_freeCtr (s : State) (o : Op) : (s.setOp o).freeCtr = s.freeCtr := rfl
@[simp] theorem State.setOp_nextKey (s : State) (o : Op) : (s.setOp o).nextKey = s.nextKey := rfl
@[simp] theorem State.setOp_nextOp (s : State) (o : Op) : (s.setOp o).nextOp = s.nextOp := rfl
@[simp] theorem State.setOp_nextOrder (s : State) (o : Op) : (s.setOp o).nextOrder = s.nextOrder := rfl
@[simp] theorem State.setOp_dev (s : State) (o : Op) : (s.setOp o).dev = s.dev := rfl
@[simp] theorem State.setOp_mem (s : State) (o : Op) : (s.setOp o).mem = s.mem := rfl
@[simp] theorem State.setOp_owners (s : State) (o : Op) : (s.setOp o).owners = s.owners := rfl
@[simp] theorem State.setOp_lineG (s : State) (o : Op) : (s.setOp o).lineG = s.lineG := rfl
@[simp] theorem State.setOp_bankMark (s : State) (o : Op) : (s.setOp o).bankMark = s.bankMark := rfl
@[simp] theorem State.setOp_parts (s : State) (o : Op) : (s.setOp o).parts = s.parts := rfl
@[simp] theorem State.setOp_ctxs (s : State) (o : Op) : (s.setOp o).ctxs = s.ctxs := rfl
@[simp] theorem State.setOp_grids (s : State) (o : Op) : (s.setOp o).grids = s.grids := rfl
@[simp] theorem State.setOp_teams (s : State) (o : Op) : (s.setOp o).teams = s.teams := rfl
@[simp] theorem State.setOp_gangs (s : State) (o : Op) : (s.setOp o).gangs = s.gangs := rfl
@[simp] theorem State.setOp_cores (s : State) (o : Op) : (s.setOp o).cores = s.cores := rfl
@[simp] theorem State.setOp_clusters (s : State) (o : Op) : (s.setOp o).clusters = s.clusters := rfl
@[simp] theorem State.setOp_rails (s : State) (o : Op) : (s.setOp o).rails = s.rails := rfl
@[simp] theorem State.setOp_jobs (s : State) (o : Op) : (s.setOp o).jobs = s.jobs := rfl
@[simp] theorem State.setOp_chains (s : State) (o : Op) : (s.setOp o).chains = s.chains := rfl
@[simp] theorem State.setOp_inbound (s : State) (o : Op) : (s.setOp o).inbound = s.inbound := rfl
@[simp] theorem State.setOp_sessions (s : State) (o : Op) : (s.setOp o).sessions = s.sessions := rfl
@[simp] theorem State.setOp_images (s : State) (o : Op) : (s.setOp o).images = s.images := rfl
@[simp] theorem State.setOp_out (s : State) (o : Op) : (s.setOp o).out = s.out := rfl

/-! ### dropOp: every field but ops stays -/

@[simp] theorem State.dropOp_agenda (s : State) (id : Nat) : (s.dropOp id).agenda = s.agenda := rfl
@[simp] theorem State.dropOp_phase (s : State) (id : Nat) : (s.dropOp id).phase = s.phase := rfl
@[simp] theorem State.dropOp_cur (s : State) (id : Nat) : (s.dropOp id).cur = s.cur := rfl
@[simp] theorem State.dropOp_pace (s : State) (id : Nat) : (s.dropOp id).pace = s.pace := rfl
@[simp] theorem State.dropOp_ns (s : State) (id : Nat) : (s.dropOp id).ns = s.ns := rfl
@[simp] theorem State.dropOp_cyc (s : State) (id : Nat) : (s.dropOp id).cyc = s.cyc := rfl
@[simp] theorem State.dropOp_ptp (s : State) (id : Nat) : (s.dropOp id).ptp = s.ptp := rfl
@[simp] theorem State.dropOp_freeCtr (s : State) (id : Nat) : (s.dropOp id).freeCtr = s.freeCtr := rfl
@[simp] theorem State.dropOp_nextKey (s : State) (id : Nat) : (s.dropOp id).nextKey = s.nextKey := rfl
@[simp] theorem State.dropOp_nextOp (s : State) (id : Nat) : (s.dropOp id).nextOp = s.nextOp := rfl
@[simp] theorem State.dropOp_nextOrder (s : State) (id : Nat) : (s.dropOp id).nextOrder = s.nextOrder := rfl
@[simp] theorem State.dropOp_dev (s : State) (id : Nat) : (s.dropOp id).dev = s.dev := rfl
@[simp] theorem State.dropOp_mem (s : State) (id : Nat) : (s.dropOp id).mem = s.mem := rfl
@[simp] theorem State.dropOp_owners (s : State) (id : Nat) : (s.dropOp id).owners = s.owners := rfl
@[simp] theorem State.dropOp_lineG (s : State) (id : Nat) : (s.dropOp id).lineG = s.lineG := rfl
@[simp] theorem State.dropOp_bankMark (s : State) (id : Nat) : (s.dropOp id).bankMark = s.bankMark := rfl
@[simp] theorem State.dropOp_parts (s : State) (id : Nat) : (s.dropOp id).parts = s.parts := rfl
@[simp] theorem State.dropOp_ctxs (s : State) (id : Nat) : (s.dropOp id).ctxs = s.ctxs := rfl
@[simp] theorem State.dropOp_grids (s : State) (id : Nat) : (s.dropOp id).grids = s.grids := rfl
@[simp] theorem State.dropOp_teams (s : State) (id : Nat) : (s.dropOp id).teams = s.teams := rfl
@[simp] theorem State.dropOp_gangs (s : State) (id : Nat) : (s.dropOp id).gangs = s.gangs := rfl
@[simp] theorem State.dropOp_cores (s : State) (id : Nat) : (s.dropOp id).cores = s.cores := rfl
@[simp] theorem State.dropOp_clusters (s : State) (id : Nat) : (s.dropOp id).clusters = s.clusters := rfl
@[simp] theorem State.dropOp_rails (s : State) (id : Nat) : (s.dropOp id).rails = s.rails := rfl
@[simp] theorem State.dropOp_jobs (s : State) (id : Nat) : (s.dropOp id).jobs = s.jobs := rfl
@[simp] theorem State.dropOp_chains (s : State) (id : Nat) : (s.dropOp id).chains = s.chains := rfl
@[simp] theorem State.dropOp_inbound (s : State) (id : Nat) : (s.dropOp id).inbound = s.inbound := rfl
@[simp] theorem State.dropOp_sessions (s : State) (id : Nat) : (s.dropOp id).sessions = s.sessions := rfl
@[simp] theorem State.dropOp_images (s : State) (id : Nat) : (s.dropOp id).images = s.images := rfl
@[simp] theorem State.dropOp_out (s : State) (id : Nat) : (s.dropOp id).out = s.out := rfl

/-! ### setG: the current gang's record -/

@[simp] theorem State.setG_cur (s : State) (g : Gang) : (s.setG g).cur = s.cur := rfl
@[simp] theorem State.setG_ops (s : State) (g : Gang) : (s.setG g).ops = s.ops := rfl
@[simp] theorem State.setG_mem (s : State) (g : Gang) : (s.setG g).mem = s.mem := rfl
@[simp] theorem State.setG_ns (s : State) (g : Gang) : (s.setG g).ns = s.ns := rfl
@[simp] theorem State.setG_nextOp (s : State) (g : Gang) : (s.setG g).nextOp = s.nextOp := rfl
@[simp] theorem State.setG_ctx (s : State) (g : Gang) (k : Nat) : (s.setG g).ctx k = s.ctx k := rfl
@[simp] theorem State.setG_team (s : State) (g : Gang) (k : Nat) : (s.setG g).team k = s.team k := rfl
@[simp] theorem State.setG_grid (s : State) (g : Gang) (k : Nat) : (s.setG g).grid k = s.grid k := rfl
@[simp] theorem State.setG_part (s : State) (g : Gang) (k : Nat) : (s.setG g).part k = s.part k := rfl
@[simp] theorem State.setG_core (s : State) (g : Gang) (k : Nat) : (s.setG g).core k = s.core k := rfl
@[simp] theorem State.setG_cluster (s : State) (g : Gang) (k : Nat) : (s.setG g).cluster k = s.cluster k := rfl
@[simp] theorem State.setG_apart (s : State) (g : Gang) : (s.setG g).apart = s.apart := rfl
theorem State.setG_gang_ne (s : State) (g : Gang) {k : Nat} (h : k ≠ s.cur) : (s.setG g).gang k = s.gang k :=
  State.gang_setGang_ne s g h
@[simp] theorem State.setG_setG (s : State) (g h : Gang) : ((s.setG g).setG h).g = h := by simp

end Sys2Proof.Machine
end

