-- ==== Sys2Proof/Laws/Issue.lean ====
section
/-! SUPPORT. What the end of a group does (`State.finish`), what a word that completes, traps or holds answers
(`State.conclude`), and how `Ends` composes with updates of the state. -/

namespace Sys2Proof.Machine

/-! ## Issuing -/

/-- A key that the table lists is looked up with its entry. -/
theorem tget?_of_tget_ne {α : Type} {t : Tbl α} {i : Nat} {d : α} (h : tget t i d ≠ d) : ∃ x, tget? t i = some x := by
  unfold tget at h
  split at h
  · exact ⟨_, by assumption⟩
  · exact absurd rfl h

/-- Issuing moves nothing of a gang but its place in the code and its turn. -/
@[simp] theorem Gang.issue_still (g : Gang) (n c : Nat) : (g.issue n c).still = g.still := rfl

/-- A slot taken is all that changes of a core. -/
@[simp] theorem Core.take_still (c : Core) (t : Turn) (gk gi : Nat) : (c.take t gk gi).still = c.still := by cases t <;> rfl

/-- A group that has issued takes a slot of its core, and moves nothing else. -/
@[simp] theorem State.useSlot_gangs (s : State) (k : Nat) : (s.useSlot k).gangs = s.gangs := rfl
@[simp] theorem State.useSlot_apart (s : State) (k : Nat) : (s.useSlot k).apart = s.apart := rfl
@[simp] theorem State.useSlot_clusters (s : State) (k : Nat) : (s.useSlot k).clusters = s.clusters := rfl
theorem State.useSlot_core (s : State) (j k : Nat) : ((s.useSlot j).core k).still = (s.core k).still := by
  unfold State.useSlot
  by_cases h : k = (s.gang j).core
  · subst h; rw [State.core_setCore_self, Core.take_still]
  · rw [State.core_setCore_ne _ _ h]

/-- The gangs after a group has issued. -/
theorem State.issued_gangs (s : State) :
    s.issued.gangs = s.gangs.map fun e => (e.1, if e.1 = s.cur then e.2.issue s.stepNow s.cyc else e.2) := by
  unfold State.issued
  apply List.map_congr_left
  intro e _
  obtain ⟨k, x⟩ := e
  show (if k = s.cur then _ else _) = _
  split <;> rfl

/-- Issuing marks the current gang, and leaves the rest of it. -/
theorem State.issued_g (s : State) (g : Gang) : ((s.setG g).issued).g = g.issue s.stepNow s.cyc := by
  have h : tget? (s.setG g).gangs s.cur = some g := tget?_tput_self _ _ _
  have hm := tget?_map (s.setG g).gangs (fun k x => if k = s.cur then x.issue s.stepNow s.cyc else x) s.cur
  show tget ((s.setG g).issued).gangs s.cur {} = _
  rw [State.issued_gangs]
  show tget ((s.setG g).gangs.map fun e => (e.1, if e.1 = s.cur then e.2.issue s.stepNow s.cyc else e.2)) s.cur {} = _
  unfold tget
  rw [hm, h]
  simp

/-- Issuing leaves every other gang. -/
theorem State.issued_gang_ne (s : State) {k : Nat} (h : k ≠ s.cur) : s.issued.gang k = s.gang k := by
  have hm := tget?_map s.gangs (fun j x => if j = s.cur then x.issue s.stepNow s.cyc else x) k
  show tget s.issued.gangs k {} = tget s.gangs k {}
  rw [State.issued_gangs]
  unfold tget
  rw [hm]
  cases tget? s.gangs k with
  | none => rfl
  | some x => simp only [Option.map_some, if_neg h]

/-- Issuing leaves the clusters but for the busy mark. -/
theorem State.issued_cluster (s : State) (k : Nat) :
    { s.issued.cluster k with busy := true } = { s.cluster k with busy := true } := by
  have hc (j : Nat) : (s.useSlot s.cur).cluster j = s.cluster j := by simp only [State.cluster, State.useSlot_clusters]
  by_cases h : k = clusterOf s.g.core
  · subst h
    show ({ ((s.useSlot s.cur).setCluster _ _).cluster _ with busy := true } : Cluster) = _
    rw [State.cluster_setCluster_self, hc]
  · show ({ ((s.useSlot s.cur).setCluster _ _).cluster k with busy := true } : Cluster) = _
    rw [State.cluster_setCluster_ne _ _ h, hc]

/-- Issuing leaves the cores but for the slots. -/
theorem State.issued_core (s : State) (k : Nat) : (s.issued.core k).still = (s.core k).still := State.useSlot_core s s.cur k

@[simp] theorem State.issued_cur (s : State) : s.issued.cur = s.cur := rfl
@[simp] theorem State.issued_apart (s : State) : s.issued.apart = s.apart := rfl
@[simp] theorem State.issued_mem (s : State) : s.issued.mem = s.mem := rfl

/-! ## The end of a group -/

/-- Where the end of a group leaves the gang: its prefix used up, and the next group at hand or the clause ended (R30, R81). -/
def Gang.groupEnd (g : Gang) : Gang :=
  let g1 : Gang := { g with latch := none, wait := .none }
  match g.cl with
  | none => g1
  | some c =>
    if c.len < c.next ∨ c.active = 0 then g1.endClause fun _ => BitVec.ofNat 64 c.after
    else { g1 with cl := some { c with first := c.next, words := [], prev := c.words } }

/-- The end of a group, in terms of the gang. -/
theorem State.finish_eq (s : State) : s.finish = (s.setG s.g.groupEnd).issued := by
  unfold State.finish Gang.groupEnd
  cases h : s.g.cl with
  | none => simp only [h]
  | some c => simp only [h]; split <;> rfl

/-- The end of a clause moves nothing but the gang's place in the code. -/
@[simp] theorem Gang.endClause_still (g : Gang) (f : Nat → Word) : (g.endClause f).still = g.still := by
  unfold Gang.endClause
  split
  · rfl
  · simp only [Gang.still]

/-- The end of a group moves nothing but the gang's place in the code. -/
@[simp] theorem Gang.groupEnd_still (g : Gang) : g.groupEnd.still = g.still := by
  unfold Gang.groupEnd
  cases h : g.cl with
  | none => rfl
  | some c =>
    dsimp only
    split
    · rw [Gang.endClause_still]; simp only [Gang.still]
    · simp only [Gang.still]

/-- The gang after a group. -/
theorem State.finish_g (s : State) : s.finish.g = s.g.groupEnd.issue s.stepNow s.cyc := by
  rw [State.finish_eq, State.issued_g]

/-- What a group leaves when it is complete. -/
theorem State.finish_ends (s : State) : Ends s s.finish where
  cur := by rw [State.finish_eq, State.issued_cur]; rfl
  gang := by
    rw [State.finish_g]
    exact Gang.groupEnd_still s.g
  others := fun k h => by
    rw [State.finish_eq, State.issued_gang_ne _ (by exact h), State.setG_gang_ne _ _ h]
  clusters := fun k => by
    rw [State.finish_eq, State.issued_cluster]; rfl
  cores := fun k => by rw [State.finish_eq, State.issued_core]; rfl
  rest := by rw [State.finish_eq, State.issued_apart]; rfl
  bytes := fun a => by rw [State.finish_eq, State.issued_mem]; rfl

/-! ## What a word answers -/

/-- A word that completes. -/
theorem State.conclude_ok {s : State} (h : s.inClause) (t : State) : s.conclude (.ok t) = .next t.finish := by
  have h := h.clause
  unfold State.conclude State.concludeKeep State.undone
  cases hc : s.g.cl with
  | none => simp [hc] at h
  | some c => rfl

/-- A word that completes answers a next state that `Ends` in the state its effect gives. -/
theorem State.conclude_ends {s : State} (h : s.inClause) {r : R State} {t : State} (hr : r = .ok t) :
    ∃ u, s.conclude r = .next u ∧ Ends t u :=
  ⟨t.finish, by rw [hr, State.conclude_ok h], State.finish_ends t⟩

/-- A word that traps. -/
theorem State.conclude_trap {s : State} (h : s.inClause) {r : R State} {t : TrapInfo} {ia : Nat} (hr : r = .error (.trap t ia)) :
    s.conclude r = .next (s.raiseTrap s.cur t ia).issued := by
  subst hr
  have h := h.clause
  unfold State.conclude State.concludeKeep State.undone
  cases hc : s.g.cl with
  | none => simp [hc] at h
  | some c => rfl

/-- Whatever becomes of a word of a gang in a clause, it answers a next state. -/
theorem State.concludeKeep_next {s : State} (h : s.inClause) (r : R State) : ∃ u, s.concludeKeep r = .next u := by
  have h := h.clause
  unfold State.concludeKeep
  cases hc : s.g.cl with
  | none => simp [hc] at h
  | some c =>
    match r with
    | .ok t => exact ⟨_, rfl⟩
    | .error (.trap t ia) => exact ⟨_, rfl⟩
    | .error (.walk fs t ia) => exact ⟨_, rfl⟩
    | .error (.report u t ia) => exact ⟨_, rfl⟩
    | .error (.hold t w) => exact ⟨_, rfl⟩

/-- Whatever becomes of a word of a gang in a clause, it answers a next state. -/
theorem State.conclude_next {s : State} (h : s.inClause) (r : R State) : ∃ u, s.conclude r = .next u :=
  State.concludeKeep_next h _

/-- `Ends` holds of a state as of any with the same parts. -/
theorem Ends.of_eq {w w' u : State} (h : Ends w u) (e : w = w') : Ends w' u := e ▸ h

/-- The gang registers that `Ends` carries over. -/
theorem Ends.v {w u : State} (h : Ends w u) : u.g.v = w.g.v := by have e := congrArg Gang.v h.gang; exact e
theorem Ends.s {w u : State} (h : Ends w u) : u.g.s = w.g.s := by have e := congrArg Gang.s h.gang; exact e
theorem Ends.m {w u : State} (h : Ends w u) : u.g.m = w.g.m := by have e := congrArg Gang.m h.gang; exact e
theorem Ends.bp {w u : State} (h : Ends w u) : u.g.bp = w.g.bp := by have e := congrArg Gang.bp h.gang; exact e
theorem Ends.pushes {w u : State} (h : Ends w u) : u.g.pushes = w.g.pushes := by have e := congrArg Gang.pushes h.gang; exact e
theorem Ends.xf {w u : State} (h : Ends w u) : u.g.xf = w.g.xf := by have e := congrArg Gang.xf h.gang; exact e
theorem Ends.live {w u : State} (h : Ends w u) : u.g.live = w.g.live := by have e := congrArg Gang.live h.gang; exact e
theorem Ends.mem {w u : State} (h : Ends w u) : u.mem = w.mem := by have e := congrArg State.mem h.rest; exact e
theorem Ends.ops {w u : State} (h : Ends w u) : u.ops = w.ops := by have e := congrArg State.ops h.rest; exact e
theorem Ends.ctxs {w u : State} (h : Ends w u) : u.ctxs = w.ctxs := by have e := congrArg State.ctxs h.rest; exact e
theorem Ends.teams {w u : State} (h : Ends w u) : u.teams = w.teams := by have e := congrArg State.teams h.rest; exact e
theorem Ends.vreg {w u : State} (h : Ends w u) (n : Nat) : u.g.vreg n = w.g.vreg n := by
  unfold Gang.vreg; rw [h.v]
theorem Ends.sreg {w u : State} (h : Ends w u) (n : Nat) : u.g.sreg n = w.g.sreg n := by
  unfold Gang.sreg; rw [h.s]

end Sys2Proof.Machine
end

