-- ==== Sys2Proof/Laws/Elem.lean ====
section
/-! SUPPORT. Elements of lane values (R50): what reading an element of a packed value gives. -/

namespace Sys2Proof.Machine

/-- The sum that packs `n` elements of `w` bits. -/
def packSum (w : Nat) (f : Nat → Nat) (n : Nat) : Nat :=
  (List.range n).foldl (fun x j => x + f j % 2 ^ w * 2 ^ (w * j)) 0

theorem packSum_succ (w : Nat) (f : Nat → Nat) (n : Nat) :
    packSum w f (n + 1) = packSum w f n + f n % 2 ^ w * 2 ^ (w * n) := by
  simp [packSum, List.range_succ, List.foldl_append]

theorem packSum_lt (w : Nat) (f : Nat → Nat) (n : Nat) : packSum w f n < 2 ^ (w * n) := by
  induction n with
  | zero => simp [packSum]
  | succ n ih =>
    rw [packSum_succ, Nat.mul_succ, Nat.pow_add]
    have h : f n % 2 ^ w < 2 ^ w := Nat.mod_lt _ (Nat.two_pow_pos w)
    have h2 : f n % 2 ^ w * 2 ^ (w * n) + 2 ^ (w * n) ≤ 2 ^ w * 2 ^ (w * n) := by
      rw [← Nat.succ_mul]; exact Nat.mul_le_mul_right _ h
    rw [Nat.mul_comm (2 ^ (w * n))]
    omega

theorem packSum_elem (w : Nat) (f : Nat → Nat) (n j : Nat) (hj : j < n) :
    packSum w f n / 2 ^ (w * j) % 2 ^ w = f j % 2 ^ w := by
  induction n with
  | zero => omega
  | succ n ih =>
    rw [packSum_succ]
    by_cases h : j < n
    · have hsplit : 2 ^ (w * n) = 2 ^ (w * j) * (2 ^ w * 2 ^ (w * (n - j - 1))) := by
        rw [← Nat.pow_add, ← Nat.pow_add]
        congr 1
        have h3 : n = j + (1 + (n - j - 1)) := by omega
        conv => lhs; rw [h3]
        rw [Nat.mul_add, Nat.mul_add, Nat.mul_one]
      rw [hsplit, Nat.mul_left_comm, Nat.add_mul_div_left _ _ (Nat.two_pow_pos _), Nat.mul_left_comm,
        Nat.add_mul_mod_self_left, ih h]
    · have hn : j = n := by omega
      subst hn
      rw [Nat.add_mul_div_right _ _ (Nat.two_pow_pos _), Nat.div_eq_of_lt (packSum_lt w f j), Nat.zero_add, Nat.mod_mod]

/-- An element of a packed value. -/
theorem elem_packElems {w j : Nat} (f : Nat → Nat) (hw : w * (64 / w) = 64) (hj : j < 64 / w) :
    elem w (packElems w f) j = f j % 2 ^ w := by
  have hlt : packSum w f (64 / w) < 2 ^ 64 := by
    have h := packSum_lt w f (64 / w)
    rwa [hw] at h
  unfold elem packElems
  rw [BitVec.toNat_ofNat]
  show packSum w f (64 / w) % 2 ^ 64 / _ % _ = _
  rw [Nat.mod_eq_of_lt hlt]
  exact packSum_elem w f (64 / w) j hj

/-- An element as a bit vector. -/
theorem toNat_extract (w : Nat) (x : Word) (j : Nat) : (x.extractLsb' (w * j) w).toNat = elem w x j := by
  rw [BitVec.extractLsb'_toNat, Nat.shiftRight_eq_div_pow]; rfl

/-- An element of a packed value, as a bit vector. -/
theorem extract_packElems {w j : Nat} (f : Nat → Nat) (hw : w * (64 / w) = 64) (hj : j < 64 / w) :
    (packElems w f).extractLsb' (w * j) w = BitVec.ofNat w (f j) := by
  apply BitVec.eq_of_toNat_eq
  rw [toNat_extract, elem_packElems f hw hj, BitVec.toNat_ofNat]

/-- The widths of the views divide a lane (R50). -/
theorem viewWidth_mul (t : Nat) : viewWidth t * (64 / viewWidth t) = 64 := by
  unfold viewWidth
  split <;> rfl

theorem viewWidth_pos (t : Nat) : 0 < viewWidth t := by
  unfold viewWidth
  split <;> decide

/-- The signed reading of an element is that of its bits. -/
theorem signedOf_elem (w : Nat) (hw : 0 < w) (x : Word) (j : Nat) :
    signedOf w (elem w x j) = (x.extractLsb' (w * j) w).toInt := by
  unfold signedOf
  rw [BitVec.toInt_eq_toNat_cond, toNat_extract]
  have hlt : elem w x j < 2 ^ w := by unfold elem; exact Nat.mod_lt _ (Nat.two_pow_pos w)
  have h2 : 2 ^ w = 2 * 2 ^ (w - 1) := by
    obtain ⟨k, rfl⟩ := Nat.exists_eq_add_of_lt hw
    simp [Nat.pow_succ, Nat.mul_comm]
  dsimp only
  rw [Nat.mod_eq_of_lt hlt]
  split <;> split <;> omega

end Sys2Proof.Machine
end

