-- ==== Sys2Proof/Laws/Operands.lean ====
section
/-! SUPPORT. What reading operands leaves alone (`State.sources`), and what putting a result into its destination does
(`State.result`). -/

namespace Sys2Proof.Machine

/-- A computation of a word that answers: its first part answers, and the rest from there. -/
theorem R.bind_ok {α β : Type} {x : R α} {f : α → R β} {r : β} (h : x >>= f = .ok r) : ∃ a, x = .ok a ∧ f a = .ok r := by
  cases x with
  | error e => cases h
  | ok a => exact ⟨a, rfl, h⟩

/-! ## Reading memory leaves the gangs alone -/

/-- Two states have the same gangs, and the same one current. -/
structure SameGangs (s t : State) : Prop where
  gangs : t.gangs = s.gangs
  cur : t.cur = s.cur

theorem SameGangs.refl (s : State) : SameGangs s s := ⟨rfl, rfl⟩
theorem SameGangs.trans {s t u : State} (h : SameGangs s t) (k : SameGangs t u) : SameGangs s u :=
  ⟨k.gangs.trans h.gangs, k.cur.trans h.cur⟩
theorem SameGangs.g {s t : State} (h : SameGangs s t) : t.g = s.g := by
  unfold State.g State.gang; rw [h.gangs, h.cur]

theorem own_sameGangs (s : State) (n f : Nat) (b : Bool) : SameGangs s (s.own n f b) := by
  unfold State.own
  split
  · exact .refl s
  · exact ⟨rfl, rfl⟩

theorem installTlb_sameGangs (s : State) (c : Nat) (e : TlbEntry) : SameGangs s (s.installTlb c e) := by
  unfold State.installTlb
  dsimp only
  split <;> split <;> exact ⟨rfl, rfl⟩

theorem useTlb_sameGangs (s : State) (es : List TlbEntry) : SameGangs s (s.useTlb es) := by
  unfold State.useTlb
  induction es generalizing s with
  | nil => exact .refl s
  | cons e r ih => exact (installTlb_sameGangs s _ e).trans (ih _)

theorem evictL2_sameGangs (s : State) (tag l : Nat) : SameGangs s (s.evictL2 tag l) := by
  unfold State.evictL2
  split
  · exact ⟨rfl, rfl⟩
  · exact .refl s

theorem foldl_sameGangs {α : Type} (f : State → α → State) (h : ∀ s x, SameGangs s (f s x)) (l : List α) (s : State) :
    SameGangs s (l.foldl f s) := by
  induction l generalizing s with
  | nil => exact .refl s
  | cons x r ih => exact (h s x).trans (ih _)

theorem trimL2_sameGangs (tag slice keep n : Nat) (s : State) : SameGangs s (State.trimL2 tag slice keep n s) := by
  induction n generalizing s with
  | zero => exact .refl s
  | succ n ih =>
    unfold State.trimL2
    dsimp only
    split
    · exact .refl s
    · split
      · exact (evictL2_sameGangs s tag _).trans (ih _)
      · exact .refl s

theorem grantLine_sameGangs (s : State) (tag pa exp : Nat) : SameGangs s (s.grantLine tag pa exp) := by
  have h : SameGangs s (if (tget? s.lineG (pa / 128)).isSome then s
      else State.trimL2 tag (s.home tag pa / 16) (Config.l2Lines - 1) (s.lineG.length - (Config.l2Lines - 1)) s) := by
    split
    · exact .refl s
    · exact trimL2_sameGangs ..
  exact ⟨h.gangs, h.cur⟩

/-- Serving a load at its bank leaves the gangs alone. -/
theorem serveLoad_sameGangs (s : State) (o : Op) (k : Nat) (i : Item) (e e2 : List Nat) :
    SameGangs s (s.serveLoad o k i e e2) := by
  unfold State.serveLoad
  split
  · dsimp only
    split <;> exact ⟨rfl, rfl⟩
  · have h1 := own_sameGangs s (s.ctx o.ctx).num (i.pa / 65536) i.shared
    have h2 := h1.trans (foldl_sameGangs (fun (st : State) l => st.evictL2 (s.ctx o.ctx).part l)
      (fun s x => evictL2_sameGangs s _ x) e2 _)
    refine h2.trans ?_
    dsimp only
    generalize List.foldl (fun (st : State) l => st.evictL2 (s.ctx o.ctx).part l) _ e2 = s2
    have h3 := grantLine_sameGangs s2 (s.ctx o.ctx).part i.pa (s2.ns + s2.lease o.ctx)
    generalize s2.grantLine (s.ctx o.ctx).part i.pa (s2.ns + s2.lease o.ctx) = s3 at h3 ⊢
    refine ⟨?_, ?_⟩
    · rw [State.setOp_gangs]
      split <;> exact h3.gangs
    · rw [State.setOp_cur]
      split <;> exact h3.cur

theorem withOps_sameGangs (s : State) (l : List Op) {t : State} (h : SameGangs { s with ops := l } t) : SameGangs s t :=
  ⟨h.gangs, h.cur⟩

theorem dropOp_sameGangs {s t : State} (h : SameGangs s t) (id : Nat) : SameGangs s (t.dropOp id) := ⟨h.gangs, h.cur⟩

/-- A load that a word makes on its own account leaves the gangs alone. -/
theorem loadNow_sameGangs (s : State) (gk : Nat) (sh : Bool) (va pa w : Nat) : SameGangs s (s.loadNow gk sh va pa w).1 := by
  unfold State.loadNow
  dsimp only
  split
  · exact .refl s
  · refine dropOp_sameGangs ?_ _
    exact withOps_sameGangs s _ (serveLoad_sameGangs _ _ _ _ _ _)

/-- A fold over a pair whose state part keeps the gangs. -/
theorem foldl_fst_sameGangs {α β : Type} (f : State × β → α → State × β) (h : ∀ p x, SameGangs p.1 (f p x).1) (l : List α)
    (p : State × β) : SameGangs p.1 (l.foldl f p).1 := by
  induction l generalizing p with
  | nil => exact .refl _
  | cons x r ih => exact (h p x).trans (ih _)

/-! ## The streams of a word advance, and nothing else of the gang changes -/

/-- Advancing streams changes the streams only. -/
theorem advance_fold (ns : List Nat) (n : Nat) (g : Gang) :
    ∃ st, ns.foldl (fun (g : Gang) k => { g with st := g.st.setIfInBounds k ((g.stream k).step n) }) g = { g with st := st } := by
  induction ns generalizing g with
  | nil => exact ⟨g.st, rfl⟩
  | cons k r ih =>
    obtain ⟨st, h⟩ := ih { g with st := g.st.setIfInBounds k ((g.stream k).step n) }
    exact ⟨st, h⟩

theorem advance_g (s : State) (ns : List Nat) : ∃ st, (s.advance ns).g = { s.g with st := st } := by
  unfold State.advance
  rw [State.g_setG]
  exact advance_fold ns _ s.g

theorem advance_cur (s : State) (ns : List Nat) : (s.advance ns).cur = s.cur := rfl

/-- Loading the elements of streams leaves the gangs alone. -/
theorem loadStreams_sameGangs (s : State) (ns : List Nat) (find : Nat → Nat → Option TlbEntry) :
    SameGangs s (s.loadStreams ns find).1 := by
  unfold State.loadStreams
  refine foldl_fst_sameGangs _ ?_ ns (s, [])
  intro p n
  refine foldl_fst_sameGangs _ ?_ (s.streamElems n) (p.1, (Vector.replicate 32 {} : Vector Slot 32))
  intro q e
  split
  · exact .refl _
  · dsimp only
    split
    · exact loadNow_sameGangs _ _ _ _ _ _
    · exact .refl _

/-- Reading streams changes the current gang's streams only. -/
theorem readStreams_g {s st : State} {ns : List Nat} {vs : List (Nat × Vector Slot 32)} (h : s.readStreams ns = .ok (st, vs)) :
    ∃ r, st.g = { s.g with st := r } ∧ st.cur = s.cur := by
  unfold State.readStreams at h
  dsimp only at h
  split at h
  · unfold State.failAccess at h; cases h
  · obtain ⟨es, _, h⟩ := R.bind_ok h
    obtain ⟨_, _, h⟩ := R.bind_ok h
    injection h with h
    have h1 := congrArg Prod.fst h
    dsimp only at h1
    rw [← h1]
    have hk := (useTlb_sameGangs s es).trans (loadStreams_sameGangs (s.useTlb es) ns fun _ a => s.look a)
    obtain ⟨r, hr⟩ := advance_g ((s.useTlb es).loadStreams ns fun _ a => s.look a).1 ns
    exact ⟨r, by rw [hr, hk.g], by rw [advance_cur, hk.cur]⟩

/-- Reading operands changes the current gang's streams only; with no stream among them, it changes nothing. -/
theorem sources_g {s st : State} {look : Lanes} {srcs : List (Src × Nat)} {xs : List VReg}
    (h : s.sources look srcs = .ok (st, xs)) : ∃ r, st.g = { s.g with st := r } ∧ st.cur = s.cur := by
  unfold State.sources at h
  split at h
  · cases h
  · obtain ⟨_, _, h⟩ := R.bind_ok h
    dsimp only at h
    split at h
    · obtain ⟨r, hr, h⟩ := R.bind_ok h
      split at h
      · cases h
      · injection h with h
        have h1 := congrArg Prod.fst h
        injection hr with hr
        dsimp only at h1
        rw [← h1, ← hr]
        exact ⟨s.g.st, rfl, rfl⟩
    · obtain ⟨r, hr, h⟩ := R.bind_ok h
      split at h
      · cases h
      · injection h with h
        have h1 := congrArg Prod.fst h
        dsimp only at h1
        rw [← h1]
        exact readStreams_g (vs := r.2) hr

/-- With no stream among the operands, reading them leaves the state as it is. -/
theorem sources_noStream {s st : State} {look : Lanes} {srcs : List (Src × Nat)} {xs : List VReg}
    (h : s.sources look srcs = .ok (st, xs)) (hn : streamsOf srcs = []) : st = s := by
  unfold State.sources at h
  split at h
  · cases h
  · obtain ⟨_, _, h⟩ := R.bind_ok h
    simp only [hn, List.isEmpty_nil, if_true] at h
    obtain ⟨r, hr, h⟩ := R.bind_ok h
    split at h
    · cases h
    · injection h with h
      have h1 := congrArg Prod.fst h
      injection hr with hr
      dsimp only at h1
      rw [← h1, ← hr]

/-- What of the gang decides its lanes, marks and prefix is the same after its operands are read. -/
theorem sources_keeps {s st : State} {look : Lanes} {srcs : List (Src × Nat)} {xs : List VReg}
    (h : s.sources look srcs = .ok (st, xs)) :
    st.exec_ = s.exec_ ∧ st.zeroed = s.zeroed ∧ st.pfx = s.pfx ∧ st.g.live = s.g.live ∧ st.g.v = s.g.v ∧ st.g.xf = s.g.xf ∧
      st.g.bp = s.g.bp ∧ st.g.cl = s.g.cl ∧ st.cur = s.cur := by
  obtain ⟨r, hg, hc⟩ := sources_g h
  have ha : st.act = s.act := by unfold State.act State.cl; rw [hg]
  have hp : st.pfx = s.pfx := by unfold State.pfx; rw [hg]
  have hm : ∀ k, st.mask k = s.mask k := fun k => by unfold State.mask; rw [ha, hg]
  have he : st.exec_ = s.exec_ := by unfold State.exec_; rw [ha, hp, hm]
  refine ⟨he, ?_, hp, ?_, ?_, ?_, ?_, ?_, hc⟩
  · unfold State.zeroed; rw [he, ha, hp]
  all_goals rw [hg]

end Sys2Proof.Machine
end

