-- ==== Sys2Proof/Laws/Lane.lean ====
section
/-! SUPPORT. What putting a result into its destination does (`State.result`), what raising flags does (`State.flags`), and
the law of the common frame of lane words (`State.laneWord`). -/

namespace Sys2Proof.Machine

/-! ## Writing twice -/

theorem tput_tput {α : Type} (t : Tbl α) (i : Nat) (v w : α) : tput (tput t i v) i w = tput t i w := by
  induction t with
  | nil => simp [tput]
  | cons e r ih =>
    obtain ⟨k, x⟩ := e
    by_cases h1 : i < k
    · simp [tput, h1]
    · by_cases h2 : i = k
      · subst h2; simp [tput]
      · simp [tput, h1, h2, ih]

@[simp] theorem State.setG_setG_eq (s : State) (g h : Gang) : (s.setG g).setG h = s.setG h := by
  unfold State.setG State.setGang
  dsimp only
  rw [tput_tput]

/-! ## Lane sets -/

theorem inSet_and (a b : Lanes) (l : Nat) : inSet (a &&& b) l = (inSet a l && inSet b l) := by simp [inSet]
theorem inSet_not (a : Lanes) (l : Nat) (h : l < 32) : inSet (~~~a) l = !inSet a l := by simp [inSet, h]
theorem inSet_zero (l : Nat) : inSet 0 l = false := by simp [inSet]
theorem inSet_ge (a : Lanes) {l : Nat} (h : 32 ≤ l) : inSet a l = false := by
  unfold inSet; exact BitVec.getLsbD_of_ge a l h

/-- A set that holds a lane is not empty. -/
theorem ne_zero_of_inSet {e : Lanes} {l : Nat} (h : inSet e l = true) : e ≠ 0 := by
  rintro rfl; simp [inSet] at h

/-- A lane is in a set built from a test exactly when it passes. -/
theorem inSet_setOf (p : Fin 32 → Bool) (l : Fin 32) : inSet (setOf p) l = p l := by
  have gen : ∀ (ls : List (Fin 32)) (e : Lanes), inSet (ls.foldl (fun e l => if p l then e ||| laneBit l else e) e) l =
      (inSet e l || (ls.contains l && p l)) := by
    intro ls
    induction ls with
    | nil => intro e; simp
    | cons k r ih =>
      intro e
      rw [List.foldl_cons, ih]
      by_cases hk : p k = true
      · have hb : inSet (e ||| laneBit k) l = (inSet e l || decide (k = l)) := by
          unfold inSet laneBit
          rw [BitVec.getLsbD_or, BitVec.getLsbD_ofNat]
          congr 1
          rw [Nat.testBit_two_pow]
          simp only [Fin.ext_iff, l.isLt, decide_true, Bool.true_and]
        simp only [hk, if_true, hb, List.contains_cons]
        by_cases hkl : k = l
        · subst hkl; simp [hk]
        · simp [hkl, show (l == k) = false from by simpa using fun h => hkl h.symm]
      · have hk' : p k = false := by simpa using hk
        simp only [hk', List.contains_cons]
        by_cases hkl : l = k
        · subst hkl; simp [hk']
        · have h3 : (l == k) = false := by simpa using hkl
          simp [h3]
  unfold setOf
  rw [gen]
  show (inSet 0#32 l || _) = _
  rw [show inSet 0#32 l = false from inSet_zero l]
  simp [allLanes]

/-- Two sets with the same lanes are equal. -/
theorem lanes_ext {a b : Lanes} (h : ∀ l : Fin 32, inSet a l = inSet b l) : a = b := by
  apply BitVec.eq_of_getLsbD_eq
  intro i hi
  exact h ⟨i, hi⟩

theorem setOf_eq_zero {p : Fin 32 → Bool} (h : ∀ l, p l = false) : setOf p = 0 := by
  apply lanes_ext
  intro l
  rw [inSet_setOf, h, inSet_zero]

/-! ## The write of R56 -/

/-- The lanes of a register built as P. -/
theorem lane_ofFn (f : Fin 32 → Slot) (l : Nat) (h : l < 32) : (VReg.p (Vector.ofFn f)).lane l = f ⟨l, h⟩ := by
  simp [VReg.lane, h]

/-- Executing lanes take the result. -/
theorem mergeReg_exec (old new : VReg) (live e z : Lanes) {l : Nat} (hl : l < 32) (h : inSet e l = true) :
    (mergeReg old new live e z).lane l = new.lane l := by
  unfold mergeReg
  cases new with
  | u x => dsimp only; split <;> simp [hl, h, VReg.lane]
  | a b st => dsimp only; split <;> simp [hl, h, VReg.lane]
  | p v => simp [lane_ofFn, hl, h]

theorem inSet_outside {live e : Lanes} {l : Nat} (hl : l < 32) (h1 : inSet live l = true) (h2 : inSet e l = false) :
    inSet (live &&& ~~~e) l = true := by
  rw [inSet_and, inSet_not _ _ hl, h1, h2]; rfl

/-- Zeroed lanes take 0. -/
theorem mergeReg_zeroed (old new : VReg) (live e z : Lanes) {l : Nat} (hl : l < 32) (h1 : inSet live l = true)
    (h2 : inSet e l = false) (h3 : inSet z l = true) : (mergeReg old new live e z).lane l = {} := by
  have hk : live &&& ~~~e ≠ 0 := ne_zero_of_inSet (inSet_outside hl h1 h2)
  have hz : z ≠ 0 := ne_zero_of_inSet h3
  unfold mergeReg
  cases new with
  | u x =>
    dsimp only
    split
    · rename_i h
      rcases h with h | ⟨_, h⟩
      · exact absurd h hk
      · rcases h with h | h
        · exact absurd h hz
        · simp [VReg.lane, h]
    · simp [lane_ofFn, hl, h2, h3]
  | a b st =>
    dsimp only
    split
    · rename_i h
      rcases h with h | h
      · exact absurd h hk
      · exact absurd h.1 hz
    · simp [lane_ofFn, hl, h2, h3]
  | p v => simp [lane_ofFn, hl, h2, h3]

/-- Other live lanes keep what they held. -/
theorem mergeReg_kept (old new : VReg) (live e z : Lanes) {l : Nat} (hl : l < 32) (h1 : inSet live l = true)
    (h2 : inSet e l = false) (h3 : inSet z l = false) : (mergeReg old new live e z).lane l = old.lane l := by
  have hk : live &&& ~~~e ≠ 0 := ne_zero_of_inSet (inSet_outside hl h1 h2)
  have hkz : live &&& ~~~e &&& ~~~z ≠ 0 := by
    apply ne_zero_of_inSet (l := l)
    rw [inSet_and, inSet_not _ _ hl, inSet_outside hl h1 h2, h3]; rfl
  unfold mergeReg
  cases new with
  | u x =>
    dsimp only
    split
    · rename_i h
      rcases h with h | ⟨h, _⟩
      · exact absurd h hk
      · rcases h with h | h
        · exact absurd h hkz
        · rw [h]
    · simp [lane_ofFn, hl, h2, h3]
  | a b st =>
    dsimp only
    split
    · rename_i h
      rcases h with h | h
      · exact absurd h hk
      · rw [h.2]
    · simp [lane_ofFn, hl, h2, h3]
  | p v => simp [lane_ofFn, hl, h2, h3]

/-- The bypass entry of a result, in an executing lane. -/
theorem bypassOf_exec (r : VReg) (e : Lanes) {l : Nat} (hl : l < 32) (h : inSet e l = true) : (bypassOf r e).lane l = r.lane l := by
  cases r with
  | u x => rfl
  | a b st => rfl
  | p v => simp [bypassOf, hl, h, VReg.lane]

/-! ## Putting a result -/

/-- The gang after a result has been put into its destination. -/
def State.putGang (s : State) (d : Nat) (r : VReg) : Gang :=
  { s.g with
    v := if d < 96 then s.g.v.setIfInBounds d (mergeReg (s.g.vreg d) r s.g.live s.exec_ s.zeroed) else s.g.v
    staged := if d < 96 then s.g.staged.filter fun n => !(n == d) else s.g.staged
    cl := if d < 96 then s.g.cl.map fun c => if c.len < c.next then { c with staging := c.staging.filter fun k => !(k == d) } else c
      else s.g.cl
    bp := (bypassOf r s.exec_ :: s.g.bp).take 3
    pushes := s.g.pushes + 1 }

/-- A result whose destination can be written is put there. -/
theorem State.result_ok {s : State} {d : Nat} (h : s.canPut d) (r : VReg) : s.result d r = .ok (s.setG (s.putGang d r)) := by
  unfold State.result State.putGang
  by_cases hd : d < 96
  · obtain ⟨hb, hs⟩ := h hd
    have hn : s.needSlab (s.g.vreg d) (mergeReg (s.g.vreg d) r s.g.live s.exec_ s.zeroed) = .ok () := by
      unfold State.needSlab
      rcases hs with hs | hs <;> simp [hs]
    simp only [hd, if_true]
    unfold State.vput State.ready
    simp only [hb, hn, bind, Except.bind, pure, Except.pure, Bool.false_eq_true, if_false]
    unfold State.push State.exec_ State.act State.cl State.mask State.pfx State.act State.cl
    simp only [State.g_setG, State.setG_setG_eq, Gang.setV]
  · simp only [hd, if_false]
    rfl

theorem Gang.vreg_set_self (g : Gang) {d : Nat} (h : d < 96) (r : VReg) : ({ g with v := g.v.setIfInBounds d r } : Gang).vreg d = r := by
  simp [Gang.vreg, h]
theorem Gang.vreg_set_ne (g : Gang) {d n : Nat} (h : n ≠ d) (r : VReg) :
    ({ g with v := g.v.setIfInBounds d r } : Gang).vreg n = g.vreg n := by
  unfold Gang.vreg
  split
  · simp [Ne.symm h]
  · rfl

/-! ## Slabs do not depend on what a record holds beside its registers -/

/-- A table that lists a key holds it in one place, where every value put under the key goes. -/
theorem tput_place {α : Type} {t : Tbl α} {i : Nat} {v : α} (h : tput t i v = t) :
    ∃ a b, t = a ++ (i, v) :: b ∧ ∀ w, tput t i w = a ++ (i, w) :: b := by
  induction t with
  | nil => simp [tput] at h
  | cons e r ih =>
    obtain ⟨k, x⟩ := e
    by_cases h1 : i < k
    · simp [tput, h1] at h
    · by_cases h2 : i = k
      · subst h2
        simp [tput] at h
        exact ⟨[], r, by simp [h], fun w => by simp [tput]⟩
      · simp only [tput, h1, h2, if_false, List.cons.injEq, true_and] at h
        obtain ⟨a, b, hr, hw⟩ := ih h
        exact ⟨(k, x) :: a, b, by rw [hr]; rfl, fun w => by simp only [tput, h1, h2, if_false, hw]; rfl⟩

/-- What a slab's taker looks at in a gang. -/
def Gang.slabView (g : Gang) : Life × Nat × Nat × Nat × Nat × Nat × Wait := (g.life, g.core, g.slabs, g.floor, g.team, g.slot, g.wait)

/-- A slab is free for the current gang whatever else its record holds. -/
theorem slabFree_setG {s : State} (hl : s.setG s.g = s) {g : Gang} (hg : g.slabView = s.g.slabView) :
    (s.setG g).slabFree s.cur = s.slabFree s.cur := by
  have hgangs : tput s.gangs s.cur s.g = s.gangs := congrArg State.gangs hl
  obtain ⟨a, b, ht, hw⟩ := tput_place hgangs
  have hgs : (s.setG g).gangs = a ++ (s.cur, g) :: b := hw g
  simp only [Gang.slabView, Prod.mk.injEq] at hg
  obtain ⟨e1, e2, e3, e4, e5, e6, e7⟩ := hg
  have hsum : ∀ c, (((a ++ (s.cur, g) :: b).filter fun e => e.2.life == .resident && e.2.core == c).map
        fun e => max e.2.slabs e.2.floor).sum =
      (((a ++ (s.cur, s.g) :: b).filter fun e => e.2.life == .resident && e.2.core == c).map
        fun e => max e.2.slabs e.2.floor).sum := by
    intro c
    simp only [List.filter_append, List.filter_cons, e1, e2, List.map_append, List.sum_append]
    split <;> simp [e3, e4]
  have hover : ∀ c, (s.setG g).overdraft c = s.overdraft c := by
    intro c
    unfold State.overdraft State.residents
    rw [hgs, ht, hsum c]
  have holder : ∀ x, (s.setG g).older x g = s.older x s.g := fun x => by
    unfold State.older; simp only [State.setG_team, e5, e6]
  have hga : (s.setG g).gang s.cur = g := State.g_setG s g
  have hgb : s.gang s.cur = s.g := rfl
  have hself' : ∀ x, s.owedFirst s.cur (s.cur, x) = false := fun x => by simp [State.owedFirst]
  have howed : (s.setG g).owedFirst s.cur = s.owedFirst s.cur := by
    funext e
    simp only [State.owedFirst, hga, hgb, holder, e7]
  have hahead : ∀ c, (((s.setG g).residents c).filter ((s.setG g).owedFirst s.cur)) =
      ((s.residents c).filter (s.owedFirst s.cur)) := by
    intro c
    unfold State.residents
    rw [hgs, ht, howed]
    simp only [List.filter_append, List.filter_cons, e1, e2]
    split <;> simp [hself']
  unfold State.slabFree
  simp only [hga, hgb, e3, e4, e2, hover, hahead]

/-! ## Raising flags -/

theorem raise_getElem (g : Gang) (f : Nat → Byte) (l : Fin 32) : (g.raise f).xf[l] = g.xf[l] ||| f l := by
  simp [Gang.raise]

/-- Flags that trap on nothing are raised, unless NF puts them aside. -/
theorem State.flags_ok {s : State} {f : Nat → Byte} (h : s.quietFlags f) :
    s.flags f = .ok (if s.pfx.nf = 1 then s else s.setG (s.g.raise fun l => if inSet s.exec_ l then f l else 0)) := by
  unfold State.flags
  by_cases hn : s.pfx.nf = 1
  · simp [hn]
  · simp only [hn, if_false]
    have hq : ∀ l : Fin 32, (inSet s.exec_ l && f l &&& (s.ctx s.g.ctx).xftrap != 0) = false := by
      intro l
      rcases h with h | h
      · exact absurd h hn
      · cases he : inSet s.exec_ l with
        | false => rfl
        | true =>
          have hz := h l l.isLt he
          rw [hz]; rfl
    simp only [setOf_eq_zero hq, ne_eq, not_true_eq_false, if_false]

/-- Raising flags keeps what decides the lanes of the word, and everything else that a result reads. -/
theorem exec_setG {s : State} {g : Gang} (hc : g.cl = s.g.cl) (hm : g.m = s.g.m) (hl : g.latch = s.g.latch) :
    (s.setG g).exec_ = s.exec_ ∧ (s.setG g).zeroed = s.zeroed ∧ (s.setG g).pfx = s.pfx := by
  have ha : (s.setG g).act = s.act := by unfold State.act State.cl; rw [State.g_setG, hc]
  have hp : (s.setG g).pfx = s.pfx := by unfold State.pfx; rw [State.g_setG, hl]
  have hk : ∀ k, (s.setG g).mask k = s.mask k := fun k => by unfold State.mask; rw [ha, State.g_setG, hm]
  have he : (s.setG g).exec_ = s.exec_ := by unfold State.exec_; rw [ha, hp, hk]
  exact ⟨he, by unfold State.zeroed; rw [he, ha, hp], hp⟩

/-- What the end of a group leaves of a state in which the gang's record was put. -/
theorem Ends.ofGang {s : State} {g g' : Gang} {u : State} (h : Ends (s.setG g) u) (e : g.still = g'.still) : Ends (s.setG g') u where
  cur := h.cur
  gang := by rw [h.gang, State.g_setG, State.g_setG, e]
  others := fun k hk => by
    have hk' : k ≠ s.cur := hk
    rw [h.others k hk, State.setG_gang_ne s g hk', State.setG_gang_ne s g' hk']
  clusters := h.clusters
  cores := h.cores
  rest := h.rest
  bytes := h.bytes

/-! ## The common frame of lane words -/

/-- Flags and then a result: the gang's record is put once. -/
theorem flags_result {st : State} (hl : st.setG st.g = st) {d : Nat} {f : Nat → Byte} (hf : st.quietFlags f) (hd : st.canPut d) (r : VReg) :
    ∃ xf : Vector Byte 32, (st.flags f >>= fun s2 => s2.result d r) = .ok (st.setG { st.putGang d r with xf := xf }) ∧
      ∀ l : Fin 32, xf[l] = st.g.xf[l] ||| (if st.pfx.nf ≠ 1 ∧ inSet st.exec_ l = true then f l else 0) := by
  rw [State.flags_ok hf]
  by_cases hn : st.pfx.nf = 1
  · refine ⟨st.g.xf, ?_, fun l => by simp [hn]⟩
    rw [if_pos hn]
    exact State.result_ok hd r
  · rw [if_neg hn]
    generalize hg : st.g.raise (fun l => if inSet st.exec_ l = true then f l else 0) = g1
    have hxf : ∀ l : Fin 32, g1.xf[l] = st.g.xf[l] ||| (if st.pfx.nf ≠ 1 ∧ inSet st.exec_ l = true then f l else 0) := by
      intro l; rw [← hg, raise_getElem]; simp [hn]
    have hrest : g1 = { st.g with xf := g1.xf } := by rw [← hg]; rfl
    refine ⟨g1.xf, ?_, hxf⟩
    obtain ⟨e1, e2, e3⟩ := exec_setG (s := st) (g := g1) (by rw [hrest]) (by rw [hrest]) (by rw [hrest])
    have hcan : (st.setG g1).canPut d := by
      intro hlt
      obtain ⟨hb, hs⟩ := hd hlt
      refine ⟨hb, ?_⟩
      rcases hs with hs | hs
      · left; rw [State.g_setG, hrest]; exact hs
      · right; rw [← hs]; exact slabFree_setG hl (by rw [hrest]; rfl)
    show (st.setG g1).result d r = _
    rw [State.result_ok hcan r, State.setG_setG_eq]
    congr 2
    unfold State.putGang
    rw [e1, e2, State.g_setG, hrest]
    rfl

/-- A vector register is read from the register file alone. -/
theorem Gang.vreg_congr {g h : Gang} (e : g.v = h.v) (n : Nat) : g.vreg n = h.vreg n := by
  unfold Gang.vreg; rw [e]

/-- The state a result is put into after its flags: what the word leaves, in terms of `LaneDone`. -/
theorem laneDone_of_put {s st u : State} {d : Nat} {r : VReg} {v : Nat → Word} {f : Nat → Byte} {xf : Vector Byte 32}
    (hk : st.exec_ = s.exec_ ∧ st.zeroed = s.zeroed ∧ st.pfx = s.pfx ∧ st.g.live = s.g.live ∧ st.g.v = s.g.v ∧
      st.g.xf = s.g.xf ∧ st.g.bp = s.g.bp ∧ st.g.pushes = s.g.pushes)
    (hr : ∀ l, l < 32 → inSet s.exec_ l = true → r.lane l = { val := v l })
    (hxf : ∀ l : Fin 32, xf[l] = st.g.xf[l] ||| (if st.pfx.nf ≠ 1 ∧ inSet st.exec_ l = true then f l else 0))
    (h : Ends (st.setG { st.putGang d r with xf := xf }) u) : LaneDone s st u d v f := by
  obtain ⟨h1, h2, h3, h4, h5, h6, h7, h8⟩ := hk
  have hv : u.g.v = (st.putGang d r).v := by rw [h.v, State.g_setG]
  have hbp : u.g.bp = (st.putGang d r).bp := by rw [h.bp, State.g_setG]
  have hp : u.g.pushes = (st.putGang d r).pushes := by rw [h.pushes, State.g_setG]
  have hx : u.g.xf = xf := by rw [h.xf, State.g_setG]
  have hvd : d < 96 → u.g.vreg d = mergeReg (s.g.vreg d) r s.g.live s.exec_ s.zeroed := by
    intro hd
    have e : u.g.vreg d = ({ st.g with v := st.g.v.setIfInBounds d (mergeReg (st.g.vreg d) r st.g.live st.exec_ st.zeroed) } :
        Gang).vreg d := by
      exact Gang.vreg_congr (by rw [hv]; unfold State.putGang; rw [if_pos hd]) d
    rw [e, Gang.vreg_set_self _ hd, h1, h2, h4]
    congr 1
    unfold Gang.vreg; rw [h5]
  have hvn : ∀ n, n ≠ d → u.g.vreg n = s.g.vreg n := by
    intro n hn
    by_cases hd : d < 96
    · have e : u.g.vreg n = ({ st.g with v := st.g.v.setIfInBounds d (mergeReg (st.g.vreg d) r st.g.live st.exec_ st.zeroed) } :
          Gang).vreg n := by
        exact Gang.vreg_congr (by rw [hv]; unfold State.putGang; rw [if_pos hd]) n
      rw [e, Gang.vreg_set_ne _ hn]
      unfold Gang.vreg; rw [h5]
    · have e : u.g.v = s.g.v := by rw [hv]; unfold State.putGang; simp only [hd, if_false]; exact h5
      unfold Gang.vreg; rw [e]
  exact
    { lanes := fun hd l hl he => by rw [hvd hd, mergeReg_exec _ _ _ _ _ hl he, hr l hl he]
      zeroed := fun hd l hl a b c => by rw [hvd hd, mergeReg_zeroed _ _ _ _ _ hl a b c]
      kept := fun hd l hl a b c => by rw [hvd hd, mergeReg_kept _ _ _ _ _ hl a b c]
      others := hvn
      pushed := fun l hl he => by
        have e : u.g.bp.getD 0 (.u 0) = bypassOf r st.exec_ := by rw [hbp]; rfl
        rw [e, h1, bypassOf_exec _ _ hl he, hr l hl he]
      older := ⟨by rw [hbp, ← h7]; rfl, by rw [hp, ← h8]; rfl⟩
      sticky := fun l => by rw [hx, hxf l, h6, h3, h1]
      frame := Ends.ofGang h (by rw [hv, hbp, hp, hx]; rfl) }

/-- A word that completes lacks nothing it needs. -/
theorem stallFirst_ok {α : Type} {need : Unit → R Unit} {r : R α} {x : α} (h : r = .ok x) : State.stallFirst need r = .ok x := by
  rw [h]; rfl

/-- The law of lane words: with its prefix fields accepted, some lane executing, its operands read, its destination writable and
no flag trapping, a word that computes the lanes `v` and the flags `f` leaves them. -/
theorem laneWord_done {s st : State} {k : Accept} {d : Nat} {srcs : List (Src × Nat)}
    {fn : State → List VReg → R (State × Computed)} {xs : List VReg} {c : Computed} {v : Nat → Word} {f : Nat → Byte}
    (hc : s.inClause) (ha : s.accept k = .ok ()) (he : s.exec_ ≠ 0)
    (hs : s.sources s.exec_ (if k.c then srcs ++ [(s.srcC, (srcs.getD 0 (s.srcC, 0)).2)] else srcs) = .ok (st, xs))
    (hl : st.setG st.g = st) (hfn : fn st xs = .ok (st, c)) (hcf : ∀ l, l < 32 → inSet s.exec_ l = true → c.2 l = f l)
    (hr : ∀ l, l < 32 → inSet s.exec_ l = true → c.1.lane l = { val := v l })
    (hq : st.quietFlags f) (hd : st.canPut d) :
    ∃ u, s.laneWord k d srcs fn = .next u ∧ LaneDone s st u d v f := by
  obtain ⟨k1, k2, k3, k4, k5, k6, k7, k8, k9⟩ := sources_keeps hs
  obtain ⟨rst, hg, _⟩ := sources_g hs
  have k8' : st.g.pushes = s.g.pushes := by rw [hg]
  have hq' : st.quietFlags c.2 := by
    rcases hq with h | h
    · exact .inl h
    · exact .inr fun l hl hx => by rw [hcf l hl (by rw [← k1]; exact hx)]; exact h l hl hx
  obtain ⟨xf, hput, hxf⟩ := flags_result hl hq' hd c.1
  have hall : (do
      s.accept k
      if s.exec_ = 0 then s.noLanes true
      else
        let all := if k.c then srcs ++ [(s.srcC, (srcs.getD 0 (s.srcC, 0)).2)] else srcs
        State.stallFirst (fun _ => s.destReady d (s.widens d (s.shown all) ((fn s (s.shown all)).map fun c => c.2.1))) (do
          let r ← s.sources s.exec_ all
          let c ← fn r.1 r.2
          let s2 ← c.1.flags c.2.2
          s2.result d c.2.1) : R State) = .ok (st.setG { st.putGang d c.1 with xf := xf }) := by
    rw [ha, if_neg he]
    simp only [bind, Except.bind] at hput ⊢
    refine stallFirst_ok ?_
    rw [hs]
    dsimp only
    rw [hfn]
    exact hput
  unfold State.laneWord
  obtain ⟨u, hu, hend⟩ := State.conclude_ends hc hall
  refine ⟨u, hu, laneDone_of_put ⟨k1, k2, k3, k4, k5, k6, k7, k8'⟩ hr ?_ hend⟩
  intro l
  rw [hxf l]
  congr 1
  by_cases hx : inSet st.exec_ l = true
  · simp only [hx, hcf l l.isLt (by rw [← k1]; exact hx)]
  · simp [hx]

end Sys2Proof.Machine
end

