-- ==== Sys2Proof/Laws/Memory.lean ====
section
/-! SUPPORT. Memory: every operation on it keeps its canonical form, and what a byte reads as after one. -/

namespace Sys2Proof.Machine

/-! ## The canonical form of a list of cells -/

/-- A list of cells is canonical above a bound: its first address lies above it, its first byte is not 0, and the rest is
canonical above that address. -/
theorem cellsWf_cons {lo : Option Nat} {k : Nat} {v : Byte} {r : List Host.Cell} :
    cellsWf lo ((k, v) :: r) = true ↔ (∀ x, lo = some x → x < k) ∧ v ≠ 0 ∧ cellsWf (some k) r = true := by
  cases lo <;> simp [cellsWf, and_assoc]

/-- Above a lower bound a list of cells is canonical, whatever smaller bound is asked for. -/
theorem cellsWf_weaken {lo : Option Nat} {k : Nat} {l : List Host.Cell} (h : cellsWf (some k) l = true) (hk : ∀ x, lo = some x → x < k) :
    cellsWf lo l = true := by
  cases l with
  | nil => rfl
  | cons c r =>
    obtain ⟨a, v⟩ := c
    rw [cellsWf_cons] at h ⊢
    exact ⟨fun x hx => by have := hk x hx; have := h.1 k rfl; omega, h.2⟩

/-- The keys of a canonical list lie above its bound. -/
theorem cellsWf_lower {k : Nat} {l : List Host.Cell} (h : cellsWf (some k) l = true) : ∀ c ∈ l, k < c.1 := by
  induction l generalizing k with
  | nil => simp
  | cons c r ih =>
    obtain ⟨a, v⟩ := c
    rw [cellsWf_cons] at h
    have h1 := h.1 k rfl
    intro c hc
    rcases List.mem_cons.mp hc with rfl | hc
    · exact h1
    · have := ih h.2.2 c hc; omega

/-- An address below every key of a list reads as an unlisted one. -/
theorem cellGet_below {a : Nat} {l : List Host.Cell} (h : ∀ c ∈ l, a < c.1) : cellGet l a = 0 := by
  induction l with
  | nil => rfl
  | cons c r ih =>
    obtain ⟨k, v⟩ := c
    have h1 : a < k := h (k, v) (by simp)
    have h2 : cellGet r a = 0 := ih fun c hc => h c (by simp [hc])
    simp only [cellGet]
    rw [if_neg (by omega), h2]

/-- Writing a byte keeps the canonical form. -/
theorem cellsWf_put {lo : Option Nat} {l : List Host.Cell} {a : Nat} (b : Byte) (h : cellsWf lo l = true) (ha : ∀ x, lo = some x → x < a) :
    cellsWf lo (cellPut l a b) = true := by
  induction l generalizing lo with
  | nil =>
    unfold cellPut
    split
    · rfl
    · rename_i hb; exact cellsWf_cons.mpr ⟨ha, hb, rfl⟩
  | cons c r ih =>
    obtain ⟨k, v⟩ := c
    have h' := h
    rw [cellsWf_cons] at h
    unfold cellPut
    split
    · rename_i hak
      split
      · exact h'
      · rename_i hb
        exact cellsWf_cons.mpr ⟨ha, hb, cellsWf_cons.mpr ⟨fun x hx => by cases hx; exact hak, h.2⟩⟩
    · split
      · rename_i hak
        subst hak
        split
        · exact cellsWf_weaken h.2.2 ha
        · rename_i hb
          exact cellsWf_cons.mpr ⟨ha, hb, h.2.2⟩
      · exact cellsWf_cons.mpr ⟨h.1, h.2.1, ih h.2.2 fun x hx => by cases hx; omega⟩

/-- Dropping cells keeps the canonical form. -/
theorem cellsWf_filter {lo : Option Nat} {l : List Host.Cell} (p : Host.Cell → Bool) (h : cellsWf lo l = true) :
    cellsWf lo (l.filter p) = true := by
  induction l generalizing lo with
  | nil => rfl
  | cons c r ih =>
    obtain ⟨k, v⟩ := c
    rw [cellsWf_cons] at h
    rw [List.filter_cons]
    split
    · exact cellsWf_cons.mpr ⟨h.1, h.2.1, ih h.2.2⟩
    · exact cellsWf_weaken (ih h.2.2) h.1

/-- A byte after a byte was written. -/
theorem cellGet_put {lo : Option Nat} {l : List Host.Cell} (h : cellsWf lo l = true) (a : Nat) (b : Byte) (x : Nat) :
    cellGet (cellPut l a b) x = if x = a then b else cellGet l x := by
  induction l generalizing lo with
  | nil =>
    unfold cellPut
    by_cases hb : b = 0
    · rw [if_pos hb]; split <;> simp [cellGet, hb]
    · rw [if_neg hb]; simp only [cellGet]
      by_cases hx : x = a
      · rw [if_pos hx.symm, if_pos hx]
      · rw [if_neg (Ne.symm hx), if_neg hx]
  | cons c r ih =>
    obtain ⟨k, v⟩ := c
    rw [cellsWf_cons] at h
    have hr : ∀ y, y ≤ k → cellGet r y = 0 := fun y hy =>
      cellGet_below fun c hc => by have := cellsWf_lower h.2.2 c hc; omega
    unfold cellPut
    by_cases hak : a < k
    · rw [if_pos hak]
      by_cases hb : b = 0
      · rw [if_pos hb]
        by_cases hx : x = a
        · subst hx; simp only [cellGet, if_true]; rw [if_neg (by omega), hr x (by omega), hb]
        · rw [if_neg hx]
      · rw [if_neg hb]
        by_cases hx : x = a
        · subst hx; simp [cellGet]
        · rw [if_neg hx]; simp only [cellGet]; rw [if_neg (Ne.symm hx)]
    · rw [if_neg hak]
      by_cases hk : a = k
      · subst hk
        rw [if_pos rfl]
        by_cases hb : b = 0
        · rw [if_pos hb]
          by_cases hx : x = a
          · subst hx; rw [if_pos rfl, hr x (Nat.le_refl _), hb]
          · rw [if_neg hx]; simp only [cellGet]; rw [if_neg (Ne.symm hx)]
        · rw [if_neg hb]
          by_cases hx : x = a
          · subst hx; simp [cellGet]
          · rw [if_neg hx]; simp only [cellGet]; rw [if_neg (Ne.symm hx), if_neg (Ne.symm hx)]
      · rw [if_neg hk]
        simp only [cellGet]
        by_cases hx : k = x
        · subst hx; rw [if_pos rfl, if_pos rfl, if_neg (fun e => hk e.symm)]
        · rw [if_neg hx, if_neg hx, ih h.2.2]

/-- A byte of the cells that were kept. -/
theorem cellGet_filter {lo : Option Nat} {l : List Host.Cell} (h : cellsWf lo l = true) (p : Nat → Bool) (x : Nat) :
    cellGet (l.filter fun c => p c.1) x = if p x then cellGet l x else 0 := by
  induction l generalizing lo with
  | nil => simp [cellGet]
  | cons c r ih =>
    obtain ⟨k, v⟩ := c
    have h3 := (cellsWf_cons.mp h).2.2
    have hz : cellGet r k = 0 := cellGet_below fun c hc => cellsWf_lower h3 c hc
    rw [List.filter_cons]
    simp only [cellGet]
    by_cases hk : k = x
    · subst hk
      by_cases hp : p k = true
      · simp [hp, cellGet]
      · simp [hp, ih h3]
    · rw [if_neg hk]
      split
      · simp only [cellGet]; rw [if_neg hk, ih h3]
      · exact ih h3

/-! ## The canonical form of the poisoned words -/

/-- A list rises above a bound: its first index lies above it, and the rest rises above that one. -/
theorem risingWf_cons {lo : Option Nat} {k : Nat} {r : List Nat} :
    risingWf lo (k :: r) = true ↔ (∀ x, lo = some x → x < k) ∧ risingWf (some k) r = true := by
  cases lo <;> simp [risingWf]

/-- Above a lower bound a list rises, whatever smaller bound is asked for. -/
theorem risingWf_weaken {lo : Option Nat} {k : Nat} {l : List Nat} (h : risingWf (some k) l = true) (hk : ∀ x, lo = some x → x < k) :
    risingWf lo l = true := by
  cases l with
  | nil => rfl
  | cons a r =>
    rw [risingWf_cons] at h ⊢
    exact ⟨fun x hx => by have := hk x hx; have := h.1 k rfl; omega, h.2⟩

/-- Poisoning a word keeps the list rising. -/
theorem risingWf_insert {lo : Option Nat} {l : List Nat} {a : Nat} (h : risingWf lo l = true) (ha : ∀ x, lo = some x → x < a) :
    risingWf lo (insertNat l a) = true := by
  induction l generalizing lo with
  | nil => exact risingWf_cons.mpr ⟨ha, rfl⟩
  | cons k r ih =>
    have h' := h
    rw [risingWf_cons] at h
    unfold insertNat
    split
    · rename_i hak
      exact risingWf_cons.mpr ⟨ha, risingWf_cons.mpr ⟨fun x hx => by cases hx; exact hak, h.2⟩⟩
    · split
      · exact h'
      · exact risingWf_cons.mpr ⟨h.1, ih h.2 fun x hx => by cases hx; omega⟩

/-- Clearing poison keeps the list rising. -/
theorem risingWf_filter {lo : Option Nat} {l : List Nat} (p : Nat → Bool) (h : risingWf lo l = true) : risingWf lo (l.filter p) = true := by
  induction l generalizing lo with
  | nil => rfl
  | cons k r ih =>
    rw [risingWf_cons] at h
    rw [List.filter_cons]
    split
    · exact risingWf_cons.mpr ⟨h.1, ih h.2⟩
    · exact risingWf_weaken (ih h.2) h.1

/-! ## Every operation keeps the canonical form -/

/-- The two halves of the canonical form. -/
theorem Memory.wf_iff {m : Memory} : m.wf = true ↔ cellsWf none m.cells = true ∧ risingWf none m.poison = true := by
  simp [Memory.wf]

/-- Writing one byte keeps the canonical form. -/
theorem Memory.wf_setByte {m : Memory} (h : m.wf = true) (a : Nat) (b : Byte) : (m.setByte a b).wf = true := by
  rw [Memory.wf_iff] at h ⊢
  exact ⟨cellsWf_put b h.1 (by simp), h.2⟩

/-- Writing bytes one by one keeps the canonical form. -/
theorem Memory.wf_fold {α : Type} (f : Memory → α → Nat) (g : Memory → α → Byte) :
    ∀ (l : List α) (m : Memory), m.wf = true → (l.foldl (fun m p => m.setByte (f m p) (g m p)) m).wf = true
  | [], _, h => h
  | _ :: r, _, h => Memory.wf_fold f g r _ (Memory.wf_setByte h _ _)

/-- Performing a store's pieces keeps the canonical form. -/
theorem Memory.wf_write {m : Memory} (h : m.wf = true) (ps : List Piece) : (m.write ps).wf = true := by
  have h1 := Memory.wf_fold (fun _ p => p.addr) (fun m (p : Piece) => p.apply (m.byte p.addr)) ps m h
  rw [Memory.wf_iff] at h1 ⊢
  exact ⟨h1.1, risingWf_filter _ h1.2⟩

/-- Inserting indices one by one keeps a list rising. -/
theorem risingWf_foldl {α : Type} (f : α → Nat) : ∀ (l : List α) (m : List Nat), risingWf none m = true →
    risingWf none (l.foldl (fun m x => insertNat m (f x)) m) = true
  | [], _, h => h
  | _ :: r, _, h => risingWf_foldl f r _ (risingWf_insert h (by simp))

/-- Writing cells one by one keeps them canonical. -/
theorem cellsWf_foldl {α : Type} (f : α → Nat) (g : α → Byte) : ∀ (l : List α) (m : List Host.Cell), cellsWf none m = true →
    cellsWf none (l.foldl (fun m x => cellPut m (f x) (g x)) m) = true
  | [], _, h => h
  | _ :: r, _, h => cellsWf_foldl f g r _ (cellsWf_put _ h (by simp))

/-- Poisoning a range keeps the canonical form. -/
theorem Memory.wf_poisonRange {m : Memory} (h : m.wf = true) (a n : Nat) : (m.poisonRange a n).wf = true := by
  unfold Memory.poisonRange
  split
  · exact h
  · rw [Memory.wf_iff] at h ⊢
    exact ⟨h.1, risingWf_foldl _ _ _ h.2⟩

/-- Zeroing a range keeps the canonical form. -/
theorem Memory.wf_zero {m : Memory} (h : m.wf = true) (a n : Nat) : (m.zero a n).wf = true := by
  rw [Memory.wf_iff] at h ⊢
  exact ⟨cellsWf_filter _ h.1, risingWf_filter _ h.2⟩

/-- A part of memory is in the canonical form. -/
theorem Memory.wf_extract {m : Memory} (h : m.wf = true) (a n : Nat) : (m.extract a n).wf = true := by
  rw [Memory.wf_iff] at h ⊢
  exact ⟨cellsWf_filter _ h.1, risingWf_foldl id _ _ (risingWf_filter _ h.2)⟩

/-- Laying memory over memory keeps the canonical form. -/
theorem Memory.wf_overlay {m : Memory} (h : m.wf = true) (src : Memory) (lo dst : Nat) : (m.overlay src lo dst).wf = true := by
  rw [Memory.wf_iff] at h ⊢
  exact ⟨cellsWf_foldl (fun c : Host.Cell => c.1 - lo + dst) (fun c => c.2) _ _ h.1,
    risingWf_foldl (fun i => (i * 8 - lo + dst) / 8) _ _ h.2⟩

/-- Moving a range keeps the canonical form. -/
theorem Memory.wf_move {m : Memory} (h : m.wf = true) (a b n : Nat) : (m.move a b n).wf = true :=
  Memory.wf_overlay (Memory.wf_zero h b n) _ _ _

/-- The memory after reset is in the canonical form. -/
theorem Memory.wf_reset : State.reset.mem.wf = true := rfl

/-! ## What a byte reads as -/

/-- A byte after one byte was written. -/
theorem Memory.byte_setByte {m : Memory} (h : m.wf = true) (a : Nat) (b : Byte) (x : Nat) :
    (m.setByte a b).byte x = if x = a then b else m.byte x :=
  cellGet_put (Memory.wf_iff.mp h).1 a b x

/-- A byte that no piece names is left alone. -/
theorem Memory.byte_write_ne {m : Memory} (h : m.wf = true) {ps : List Piece} {x : Nat} (hx : ∀ p ∈ ps, p.addr ≠ x) :
    (m.write ps).byte x = m.byte x := by
  show (ps.foldl (fun (m : Memory) (p : Piece) => m.setByte p.addr (p.apply (m.byte p.addr))) m).byte x = m.byte x
  induction ps generalizing m with
  | nil => rfl
  | cons p r ih =>
    rw [List.foldl_cons, ih (Memory.wf_setByte h _ _) fun q hq => hx q (by simp [hq]), Memory.byte_setByte h]
    rw [if_neg (fun e => hx p (by simp) e.symm)]

/-- The piece that names a byte, when no later one does, decides it. -/
theorem Memory.byte_write_at {m : Memory} (h : m.wf = true) {ps qs : List Piece} {p : Piece} (hq : ∀ q ∈ qs, q.addr ≠ p.addr)
    (hp : ∀ q ∈ ps, q.addr ≠ p.addr) : (m.write (ps ++ p :: qs)).byte p.addr = p.apply (m.byte p.addr) := by
  show ((ps ++ p :: qs).foldl (fun (m : Memory) (p : Piece) => m.setByte p.addr (p.apply (m.byte p.addr))) m).byte p.addr = _
  rw [List.foldl_append, List.foldl_cons]
  have h1 := Memory.wf_fold (fun _ (p : Piece) => p.addr) (fun m (p : Piece) => p.apply (m.byte p.addr)) ps m h
  have h2 := Memory.byte_write_ne h hp
  have h3 := Memory.byte_write_ne (m := Memory.setByte (ps.foldl (fun (m : Memory) (p : Piece) =>
    m.setByte p.addr (p.apply (m.byte p.addr))) m) p.addr (p.apply ((ps.foldl (fun (m : Memory) (p : Piece) =>
    m.setByte p.addr (p.apply (m.byte p.addr))) m).byte p.addr))) (Memory.wf_setByte h1 _ _) hq
  refine Eq.trans h3 ?_
  rw [Memory.byte_setByte h1, if_pos rfl]
  congr 1

/-- Poisoning changes no byte. -/
@[simp] theorem Memory.byte_poisonRange (m : Memory) (a n x : Nat) : (m.poisonRange a n).byte x = m.byte x := by
  unfold Memory.poisonRange; split <;> rfl

/-- A byte after a range was zeroed. -/
theorem Memory.byte_zero {m : Memory} (h : m.wf = true) (a n x : Nat) :
    (m.zero a n).byte x = if a ≤ x ∧ x < a + n then 0 else m.byte x := by
  have := cellGet_filter (Memory.wf_iff.mp h).1 (fun k => !(decide (a ≤ k) && decide (k < a + n))) x
  refine Eq.trans this ?_
  by_cases hx : a ≤ x ∧ x < a + n
  · simp [hx]
  · rw [if_neg hx, if_pos]
    · rfl
    · simp; omega

end Sys2Proof.Machine
end

