-- ==== Sys2Proof/Laws/Words.lean ====
section
/-! SUPPORT. The laws of lane words in the terms of Safety.lean: a word without flags, words that compute lane by lane, integer
and logic words by their elements, and R55's affine rows. -/

namespace Sys2Proof.Machine

/-- Advancing streams leaves the gang listed. -/
theorem advance_listed (s : State) (ns : List Nat) : (s.advance ns).setG (s.advance ns).g = s.advance ns := by
  unfold State.advance
  rw [State.setG_setG_eq, State.g_setG]

/-- Reading streams leaves the gang listed. -/
theorem readStreams_listed {s st : State} {ns : List Nat} {vs : List (Nat × Vector Slot 32)} (h : s.readStreams ns = .ok (st, vs)) :
    st.setG st.g = st := by
  unfold State.readStreams at h
  dsimp only at h
  split at h
  · simp [State.failAccess] at h
  · obtain ⟨es, _, h⟩ := R.bind_ok h
    obtain ⟨_, _, h⟩ := R.bind_ok h
    injection h with h
    injection h with h1 h2
    subst h1
    exact advance_listed _ _

/-- Reading operands leaves the gang listed. -/
theorem sources_listed {s st : State} {look : Lanes} {srcs : List (Src × Nat)} {xs : List VReg}
    (h : s.sources look srcs = .ok (st, xs)) (hs : s.setG s.g = s) : st.setG st.g = st := by
  unfold State.sources at h
  split at h
  · simp [State.trapR] at h
  · obtain ⟨_, _, h⟩ := R.bind_ok h
    by_cases hn : (streamsOf srcs).isEmpty = true
    · simp only [hn, if_true] at h
      dsimp only [bind, Except.bind, pure, Except.pure] at h
      split at h
      · simp [State.trapR] at h
      · injection h with h; injection h with h1 h2; subst h1; exact hs
    · simp only [hn] at h
      obtain ⟨r, hr, h⟩ := R.bind_ok h
      split at h
      · simp [State.trapR] at h
      · injection h with h; injection h with h1 h2; subst h1
        exact readStreams_listed hr

/-- No flag traps. -/
theorem quiet_zero (s : State) : s.quietFlags fun _ => 0 := .inr fun l _ _ => by simp

/-- A lane word whose computation has no flags. -/
theorem plain_done {s st : State} {k : Accept} {d : Nat} {srcs srcs' : List (Src × Nat)}
    {fn : State → List VReg → R (State × Computed)} {xs : List VReg} {c : VReg} {v : Nat → Word}
    (h : LaneRun s k s.exec_ srcs' st xs d) (e : (if k.c then srcs ++ [(s.srcC, (srcs.getD 0 (s.srcC, 0)).2)] else srcs) = srcs')
    (hfn : fn st xs = .ok (st, c, fun _ => 0))
    (hr : ∀ l, l < 32 → c.lane l = { val := v l }) : ∃ u, s.laneWord k d srcs fn = .next u ∧ LaneDone s st u d v fun _ => 0 :=
  laneWord_done h.here h.fields h.lane (by rw [e]; exact h.read) (sources_listed h.read h.here.listed) hfn (fun _ _ _ => rfl)
    (fun l hl _ => hr l hl) (quiet_zero st) h.dest

/-- U operands are the same in every lane. -/
theorem all_isU {xs : List VReg} (h : xs.all VReg.isU = true) (i l : Nat) : (opnd xs i).at l = (opnd xs i).at 0 := by
  have : ∀ x ∈ xs, ∃ w, x = .u w := by
    intro x hx
    have := List.all_eq_true.mp h x hx
    cases x <;> simp [VReg.isU] at this ⊢
  have hx : ∃ w, opnd xs i = .u w := by
    unfold opnd
    unfold List.getD
    cases hh : xs[i]? with
    | none => exact ⟨0, rfl⟩
    | some x => exact this x (List.mem_of_getElem? hh)
  obtain ⟨w, hw⟩ := hx
  rw [hw]; rfl

/-- A word of U operands is computed once. -/
theorem laneWise_u {xs : List VReg} {f : Nat → Word × Byte} (h : (xs.all VReg.isU) = true) :
    laneWise xs false f = (.u (f 0).1, fun _ => (f 0).2) := by simp [laneWise, h]
/-- Any other word is computed lane by lane. -/
theorem laneWise_p {xs : List VReg} {f : Nat → Word × Byte} (h : ¬ (xs.all VReg.isU) = true) :
    laneWise xs false f = (perLane fun l => (f l).1, fun l => (f l).2) := by simp [laneWise, h]

/-- A word that raises no flag in any lane raises none. -/
theorem laneWise_flags (xs : List VReg) (f : Nat → Word) : (laneWise xs false fun l => (f l, fNone)).2 = fun _ => 0 := by
  by_cases hu : xs.all VReg.isU = true
  · rw [laneWise_u hu]; rfl
  · rw [laneWise_p hu]; rfl

/-- A lane of a per-lane result. -/
theorem perLane_lane (f : Nat → Word) {l : Nat} (hl : l < 32) : (perLane f).lane l = { val := f l } := by
  simp [perLane, VReg.lane, hl]

/-- A lane of a word that is computed lane by lane, or once. -/
theorem laneWise_lane {xs : List VReg} (f : (Nat → Word) → Word × Byte) {l : Nat} (hl : l < 32) :
    (laneWise xs false fun l => f fun i => (opnd xs i).at l).1.lane l = { val := (f fun i => (opnd xs i).at l).1 } := by
  by_cases h : xs.all VReg.isU = true
  · rw [laneWise_u h]
    have : (fun i => (opnd xs i).at l) = fun i => (opnd xs i).at 0 := funext fun i => all_isU h i l
    rw [this]; rfl
  · rw [laneWise_p h]; exact perLane_lane (fun l => (f fun i => (opnd xs i).at l).1) hl

/-- The elements of a view. -/
theorem viewCount_eq (t : Nat) : viewCount t = 64 / viewWidth t := rfl

/-- Logic words raise no flag. -/
theorem bitWord_flags (t : Nat) (f : Nat → Nat → Nat → Nat) (xs : List VReg) : (bitWord t f xs).2 = fun _ => 0 :=
  laneWise_flags xs fun l => packElems (viewWidth t) fun j => f (viewWidth t) (elem (viewWidth t) ((opnd xs 0).at l) j)
    (elem (viewWidth t) ((opnd xs 1).at l) j)

/-- A lane of a word that computes each element as an unsigned number. -/
theorem bitWord_lane (t : Nat) (f : Nat → Nat → Nat → Nat) (xs : List VReg) {l : Nat} (hl : l < 32) :
    (bitWord t f xs).1.lane l = { val := (packElems (viewWidth t) fun j => f (viewWidth t) (elem (viewWidth t) ((opnd xs 0).at l) j)
      (elem (viewWidth t) ((opnd xs 1).at l) j)) } :=
  laneWise_lane (fun x => (packElems (viewWidth t) fun j => f (viewWidth t) (elem (viewWidth t) (x 0) j)
    (elem (viewWidth t) (x 1) j), fNone)) hl

/-- Its elements, when the number it computes is that of a bit vector. -/
theorem bitWord_each {t : Nat} {xs : List VReg} {f : Nat → Nat → Nat → Nat} (g : (w : Nat) → (Nat → BitVec w) → BitVec w)
    (h : ∀ w, 0 < w → ∀ x : Nat → BitVec w, BitVec.ofNat w (f w (x 0).toNat (x 1).toNat) = g w x) (s : State) {l : Nat} (hl : l < 32) :
    ∃ x, (bitWord t f xs).1.lane l = { val := x } ∧ each g s t l (fun i => (opnd xs i).at l) x := by
  refine ⟨_, bitWord_lane t f xs hl, ?_⟩
  intro j hj
  unfold el
  rw [extract_packElems _ (viewWidth_mul t) hj, ← h _ (viewWidth_pos t), toNat_extract, toNat_extract]

/-- A signed element. -/
theorem elemInt_true (w : Nat) (hw : 0 < w) (x : Word) (j : Nat) : elemInt true w x j = (el w x j).toInt := by
  unfold elemInt; simp [signedOf_elem w hw, el]
/-- An unsigned element. -/
theorem elemInt_false (w : Nat) (x : Word) (j : Nat) : elemInt false w x j = ((el w x j).toNat : Int) := by
  unfold elemInt el; rw [toNat_extract]; rfl

/-- A number reduced to `w` bits. -/
theorem ofNat_emod (w : Nat) (i : Int) : BitVec.ofNat w ((i % (2 ^ w : Nat)).toNat) = BitVec.ofInt w i := by
  apply BitVec.eq_of_toNat_eq
  rw [BitVec.toNat_ofNat, BitVec.toNat_ofInt]
  have h1 : 0 ≤ i % (2 ^ w : Nat) := Int.emod_nonneg _ (by have := Nat.two_pow_pos w; omega)
  have h2 : i % (2 ^ w : Nat) < (2 ^ w : Nat) := Int.emod_lt_of_pos _ (by have := Nat.two_pow_pos w; omega)
  apply Nat.mod_eq_of_lt
  omega

/-- Integer words without SAT raise no flag. -/
theorem intWord_flags {s : State} (hs : s.pfx.sat = 0) (t : Nat) (signed : Bool) (aff : List VReg → Option VReg)
    (f : Int → Int → Int → Int) (xs : List VReg) : (intWord s t signed aff f xs).2 = fun _ => 0 := by
  have hsat : (s.pfx.sat == 1) = false := by rw [hs]; rfl
  have e : (laneWise xs false fun l => intLane t signed false f ((opnd xs 0).at l) ((opnd xs 1).at l) ((opnd xs 2).at l)).2 = fun _ => 0 := by
    simp only [intLane, Bool.false_and, Bool.false_eq_true, if_false]; exact laneWise_flags _ _
  simp only [intWord, hsat]
  split
  · split
    · rfl
    · exact e
  · exact e

/-- The one element of the i64 view. -/
theorem el_zero (x : Word) : el (viewWidth 0) x 0 = x := BitVec.extractLsb'_eq_self

/-- The elements of an integer word without SAT. -/
theorem intWord_each {s : State} {t : Nat} {xs : List VReg} {signed : Bool} {aff : List VReg → Option VReg} {f : Int → Int → Int → Int}
    (g : (w : Nat) → (Nat → BitVec w) → BitVec w) (hs : s.pfx.sat = 0)
    (h : ∀ w, 0 < w → ∀ x : Nat → BitVec w, BitVec.ofInt w (if signed then f (x 0).toInt (x 1).toInt (x 2).toInt else
      f (x 0).toNat (x 1).toNat (x 2).toNat) = g w x)
    (ha : ∀ r, aff xs = some r → ∀ l, r.lane l = { val := g 64 fun i => (opnd xs i).at l }) (s' : State) {l : Nat} (hl : l < 32) :
    ∃ x, (intWord s t signed aff f xs).1.lane l = { val := x } ∧ each g s' t l (fun i => (opnd xs i).at l) x := by
  have hsat : (s.pfx.sat == 1) = false := by rw [hs]; rfl
  have lanes : ∃ x, (laneWise xs false fun l => intLane t signed false f ((opnd xs 0).at l) ((opnd xs 1).at l)
      ((opnd xs 2).at l)).1.lane l = { val := x } ∧ each g s' t l (fun i => (opnd xs i).at l) x := by
    refine ⟨_, laneWise_lane (fun x => intLane t signed false f (x 0) (x 1) (x 2)) hl, ?_⟩
    intro j hj
    unfold el intLane
    dsimp only
    rw [extract_packElems _ (viewWidth_mul t) hj, ← h _ (viewWidth_pos t)]
    simp only [Bool.false_eq_true, if_false]
    rw [ofNat_emod]
    cases signed with
    | true => simp only [elemInt_true _ (viewWidth_pos t), if_true, el]
    | false => simp only [elemInt_false, el, Bool.false_eq_true, if_false]
  simp only [intWord, hsat]
  split
  · rename_i h0
    split
    · rename_i r hr
      refine ⟨_, ha r hr l, ?_⟩
      intro j hj
      have ht : t = 0 := h0.1
      subst ht
      have hj0 : j = 0 := by simp [viewCount, viewWidth] at hj; exact hj
      subst hj0
      rw [el_zero]
      exact congrArg (g 64) (funext fun i => (el_zero _).symm)
    · exact lanes
  · exact lanes

/-- The law of lane words without flags. -/
theorem laneWord_plain {s st : State} {k : Accept} {d : Nat} {srcs srcs' : List (Src × Nat)} {P : Nat → Word → Prop}
    {fn : State → List VReg → R (State × Computed)} {xs : List VReg} {w : Computed}
    (h : LaneRun s k s.exec_ srcs' st xs d) (e : (if k.c then srcs ++ [(s.srcC, (srcs.getD 0 (s.srcC, 0)).2)] else srcs) = srcs')
    (hfn : fn st xs = .ok (st, w)) (hw : w.2 = fun _ => 0) (hv : ∀ l, l < 32 → ∃ x, w.1.lane l = { val := x } ∧ P l x) :
    ∃ (r : Nat → Word) (u : State), s.laneWord k d srcs fn = .next u ∧ (∀ l, l < 32 → inSet s.exec_ l = true → P l (r l)) ∧
      LaneDone s st u d r fun _ => 0 := by
  obtain ⟨c, f⟩ := w
  subst hw
  obtain ⟨u, hu, hd⟩ := plain_done h e hfn (v := fun l => (c.lane l).val) fun l hl => by obtain ⟨x, hx, _⟩ := hv l hl; rw [hx]
  exact ⟨_, u, hu, fun l hl _ => by obtain ⟨x, hx, hp⟩ := hv l hl; rw [hx]; exact hp, hd⟩


/-- IADD's affine rows give each lane its sum (R55). -/
theorem affAdd_lane {x y r : VReg} (h : affAdd x y = some r) (l : Nat) : r.lane l = { val := x.at l + y.at l } := by
  unfold affAdd at h
  split at h <;> simp at h <;> subst h <;> simp only [VReg.lane, VReg.at, BitVec.mul_add] <;> congr 1 <;> ac_rfl
/-- ISUB's affine rows give each lane its difference (R55). -/
theorem affSub_lane {x y r : VReg} (h : affSub x y = some r) (l : Nat) : r.lane l = { val := x.at l - y.at l } := by
  unfold affSub at h
  split at h <;> simp at h <;> subst h <;>
    simp only [VReg.lane, VReg.at, BitVec.sub_eq_add_neg, BitVec.neg_add, BitVec.mul_add, BitVec.mul_neg] <;> congr 1 <;> ac_rfl
/-- IMUL's affine rows give each lane its product (R55). -/
theorem affMul_lane {x y r : VReg} (h : affMul x y = some r) (l : Nat) : r.lane l = { val := x.at l * y.at l } := by
  unfold affMul at h
  split at h <;> simp at h <;> subst h <;> simp only [VReg.lane, VReg.at, BitVec.mul_add, BitVec.add_mul] <;> congr 1 <;> ac_rfl
/-- IMAD's affine row gives each lane its value (R55). -/
theorem affMad_lane {xs : List VReg} {r : VReg} (h : affMad xs = some r) (l : Nat) : r.lane l = { val := (opnd xs 0).at l * (opnd xs 1).at l + (opnd xs 2).at l } := by
  unfold affMad at h
  split at h
  · rename_i p hp
    rw [affAdd_lane h l]
    have := affMul_lane hp l
    show ({ val := (p.lane l).val + _ } : Slot) = _
    rw [this]
  · simp at h


/-- The count of one bits. -/
theorem popCount_eq (w : Nat) (x : BitVec w) : popCount w x.toNat = (List.range w).countP fun i => x.getLsbD i := by
  unfold popCount
  rw [List.countP_eq_length_filter]
  rfl

end Sys2Proof.Machine
end

