-- ==== Sys2Proof/Tests/Slice0.lean ====
section
/-! SUPPORT. Tests, each from the manual: words written out from the encoding tables decode to their instructions, a term for
each well-formedness check is refused, and for every statement with hypotheses a state and operands meet them. -/

namespace Sys2Proof.Tests

set_option Elab.async false

open Sys2Proof.Machine

/-! ## Well-formedness: a term for each check, refused -/

/-- Operand codes: 107 to 111 are reserved (R83); a literal fits its words (R84); D names a register, TR or discard; a memory or
special-function destination is no TR; store data is no literal; NARROW and WIDEN take registers; MMA takes no stream. -/
theorem test_wf_operands : ([.mov 1 ⟨107, 0⟩, .mov 1 ⟨111, 0⟩, .mov 1 ⟨128, 0⟩, .mov 1 ⟨114, 4294967296⟩,
    .mov 1 ⟨115, 18446744073709551616⟩, .mov 1 ⟨5, 1⟩, .mov 96 ⟨0, 0⟩, .mov 113 ⟨0, 0⟩, .ldg 104 ⟨0, 0⟩ ⟨0, 0⟩ 0,
    .rcp 104 ⟨0, 0⟩ 4, .stg 114 ⟨0, 0⟩ ⟨0, 0⟩ 0, .plst 115 ⟨0, 0⟩ 2, .narrow 1 ⟨113, 0⟩, .widen 1 ⟨96, 0⟩,
    .mma 0 0 ⟨96, 0⟩ ⟨0, 0⟩ 0, .mma 0 0 ⟨0, 0⟩ ⟨103, 0⟩ 0, .xfr 104, .iadd 1 ⟨0, 0⟩ ⟨108, 0⟩ 0, .syncm ⟨110, 0⟩] : List Instr).all
    (fun i => !i.wf) = true := by decide

/-- T values that a word reserves (R82, R247, R261, R264, R273, R283, R307, R310), masks, conditions, shapes and small fields. -/
theorem test_wf_fields : ([.iadd 1 ⟨0, 0⟩ ⟨0, 0⟩ 4, .fadd 1 ⟨0, 0⟩ ⟨0, 0⟩ 3, .fadd 1 ⟨0, 0⟩ ⟨0, 0⟩ 8, .sel 1 ⟨0, 0⟩ ⟨0, 0⟩ 8,
    .shfl 1 ⟨0, 0⟩ ⟨0, 0⟩ 5, .matchLane 1 ⟨0, 0⟩ 2, .fatom 1 ⟨0, 0⟩ ⟨0, 0⟩ 3, .rng 1 1, .rng 1 6, .mstConvert 0 0 ⟨0, 0⟩ ⟨0, 0⟩ 0,
    .mrdConvert 1 ⟨0, 0⟩ ⟨0, 0⟩ 4, .plld 1 ⟨0, 0⟩ 1, .icmp 10 1 ⟨0, 0⟩ ⟨0, 0⟩ 0, .icmp 0 0 ⟨0, 0⟩ ⟨0, 0⟩ 0, .icmp 0 8 ⟨0, 0⟩ ⟨0, 0⟩ 0,
    .fcmp 8 1 ⟨0, 0⟩ ⟨0, 0⟩ 4, .shassert ⟨0, 0⟩ 0, .shassert ⟨0, 0⟩ 8, .act 1 ⟨0, 0⟩ 4 4, .red 4 ⟨0, 0⟩ ⟨0, 0⟩ 0,
    .pfd ⟨0, 0⟩ ⟨0, 0⟩ 2, .mzero 5 0, .mzero 0 8, .mma 0 0 ⟨0, 0⟩ ⟨0, 0⟩ 2, .hint 8 0, .hint 0 16777216, .pfx 8 0 0 0 0 0,
    .pfx 0 2 0 0 0 0, .pfx 0 0 4 0 0 0, .pfx 0 0 0 2 0 0, .pfx 0 0 0 0 2 0, .pfx 0 0 0 0 0 128] : List Instr).all
    (fun i => !i.wf) = true := by decide

/-- Fields of uniform words (R87). -/
theorem test_wf_uniform : ([.uadd 256 0 0, .uadd 0 256 0, .uadd 0 0 256, .uaddi 0 65536, .ulit 0 4294967296,
    .ulit64 0 18446744073709551616, .ushli 0 64, .uld 0 0 4, .uatom 0 0 8 0, .uatom 0 0 0 32, .bra 16777216, .brz 0 65536,
    .brm 8 0, .brm 0 2097152, .call 96 0, .calli 0 96 1, .calli 0 0 0, .calli 0 0 256, .ret 96, .jmpi 96, .exit 8, .pfi 16 0,
    .pfi 0 1048576, .bar 16 0, .bar 0 129, .barw 16 0, .waitf 4096, .copy 64 0 0, .hwait 64 0, .hwait 0 2, .stdefLoad 8 0,
    .stposWrite 8 0, .ftset 256 0, .ftgetEntry 0 0 4, .ffence 4, .mfence 2, .fence 4 0, .fence 0 4, .tlbi 0 3 1, .tlbi 0 0 0,
    .tlbi 0 0 4, .trap 65536, .csrr 0 256 0, .csrw 0 0 256, .boost 3, .drawc 4, .uhint 8 0] : List Instr).all
    (fun i => !i.wf) = true := by decide

/-! ## Decoding: a word for every instruction, its number written out from the encoding table -/

/-- Every word listed decodes, alone, to the instruction beside it. -/
def decodesAll (l : List (Nat × Instr)) : Bool :=
  l.all fun x => match decode [x.1] with
    | .ok (i, 1) => i == x.2
    | _ => false

theorem test_decode_integer : decodesAll [
  (0x008C2429, .iadd 70 ⟨9, 0⟩ ⟨5, 0⟩ 1),
  (0x014217CA, .isub 33 ⟨5, 0⟩ ⟨121, 0⟩ 2),
  (0x02BFE743, .imul 95 ⟨121, 0⟩ ⟨104, 0⟩ 3),
  (0x0325A308, .imulh 18 ⟨104, 0⟩ ⟨97, 0⟩ 0),
  (0x048D8789, .imulhu 70 ⟨97, 0⟩ ⟨113, 0⟩ 1),
  (0x0543C44A, .imad 33 ⟨113, 0⟩ ⟨9, 0⟩ 2),
  (0x06BE242B, .imin 95 ⟨9, 0⟩ ⟨5, 0⟩ 3),
  (0x072417C8, .imax 18 ⟨5, 0⟩ ⟨121, 0⟩ 0),
  (0x088DE741, .iminu 70 ⟨121, 0⟩ ⟨104, 0⟩ 1),
  (0x0943A30A, .imaxu 33 ⟨104, 0⟩ ⟨97, 0⟩ 2),
  (0x0ABF8783, .iabs 95 ⟨97, 0⟩ 3),
  (0x0B25C448, .andw 18 ⟨113, 0⟩ ⟨9, 0⟩ 0),
  (0x0C8C2429, .orw 70 ⟨9, 0⟩ ⟨5, 0⟩ 1),
  (0x0D4217CA, .xorw 33 ⟨5, 0⟩ ⟨121, 0⟩ 2),
  (0x0EBFE743, .andn 95 ⟨121, 0⟩ ⟨104, 0⟩ 3),
  (0x0F25A308, .shl 18 ⟨104, 0⟩ ⟨97, 0⟩ 0),
  (0x108D8789, .shr 70 ⟨97, 0⟩ ⟨113, 0⟩ 1),
  (0x1143C44A, .sar 33 ⟨113, 0⟩ ⟨9, 0⟩ 2),
  (0x12BE242B, .rol 95 ⟨9, 0⟩ ⟨5, 0⟩ 3),
  (0x13241780, .popc 18 ⟨5, 0⟩ 0),
  (0x148DE781, .clz 70 ⟨121, 0⟩ 1),
  (0x1543A30A, .bfx 33 ⟨104, 0⟩ ⟨97, 0⟩ 2),
  (0x16BF878B, .bfi 95 ⟨97, 0⟩ ⟨113, 0⟩ 3),
  (0x1725C44E, .sel 18 ⟨113, 0⟩ ⟨9, 0⟩ 6),
  (0x187A2429, .icmp 7 5 ⟨9, 0⟩ ⟨5, 0⟩ 1),
  (0x194217CE, .lea 33 ⟨5, 0⟩ ⟨121, 0⟩ 6),
  (0x1ABFE780, .mov 95 ⟨121, 0⟩),
  (0x1B25A308, .aff 18 ⟨104, 0⟩ ⟨97, 0⟩),
  (0x1C8D8780, .shape 70 ⟨97, 0⟩),
  (0x1DE1C785, .shassert ⟨113, 0⟩ 5),
  (0x1EBFA780, .widen 95 ⟨105, 0⟩),
  (0x1F25A780, .narrow 18 ⟨105, 0⟩)] = true := by decide +kernel

theorem test_decode_cross : decodesAll [
  (0x208DE744, .shfl 70 ⟨121, 0⟩ ⟨104, 0⟩ 4),
  (0x2143A30C, .shflup 33 ⟨104, 0⟩ ⟨97, 0⟩ 4),
  (0x22BF878C, .shfldn 95 ⟨97, 0⟩ ⟨113, 0⟩ 4),
  (0x2325C44C, .shflx 18 ⟨113, 0⟩ ⟨9, 0⟩ 4),
  (0x248C2428, .bcast 70 ⟨9, 0⟩ ⟨5, 0⟩),
  (0x25421783, .vote 33 ⟨5, 0⟩ 3),
  (0x26BFE783, .scan 95 ⟨121, 0⟩ 3),
  (0x2725A383, .scanx 18 ⟨104, 0⟩ 3),
  (0x288D8783, .rsum 70 ⟨97, 0⟩ 3),
  (0x2943C783, .rmin 33 ⟨113, 0⟩ 3),
  (0x2ABE2783, .rmax 95 ⟨9, 0⟩ 3),
  (0x2B241781, .matchLane 18 ⟨5, 0⟩ 1),
  (0x2C8DE740, .cmprs 70 ⟨121, 0⟩ ⟨104, 0⟩),
  (0x2DE1A380, .syncm ⟨104, 0⟩)] = true := by decide +kernel

theorem test_decode_float : decodesAll [
  (0x30BF878F, .fadd 95 ⟨97, 0⟩ ⟨113, 0⟩ 7),
  (0x3125C44C, .fsub 18 ⟨113, 0⟩ ⟨9, 0⟩ 4),
  (0x328C242D, .fmul 70 ⟨9, 0⟩ ⟨5, 0⟩ 5),
  (0x334217CE, .ffma 33 ⟨5, 0⟩ ⟨121, 0⟩ 6),
  (0x34BFE747, .fmin 95 ⟨121, 0⟩ ⟨104, 0⟩ 7),
  (0x3525A30C, .fmax 18 ⟨104, 0⟩ ⟨97, 0⟩ 4),
  (0x368D8785, .fabs 70 ⟨97, 0⟩ 5),
  (0x3743C786, .fneg 33 ⟨113, 0⟩ 6),
  (0x387A242F, .fcmp 7 5 ⟨9, 0⟩ ⟨5, 0⟩ 7),
  (0x39241784, .fclass 18 ⟨5, 0⟩ 4),
  (0x3A8DE785, .frint 70 ⟨121, 0⟩ 5),
  (0x3B43A30E, .cvt 33 ⟨104, 0⟩ ⟨97, 0⟩ 6),
  (0x3CBF8787, .cvtfi 95 ⟨97, 0⟩ 7),
  (0x3D25C784, .cvtif 18 ⟨113, 0⟩ 4),
  (0x3E8C242D, .fscale 70 ⟨9, 0⟩ ⟨5, 0⟩ 5),
  (0x3F43C380, .xfr 33)] = true := by decide +kernel

theorem test_decode_sfu : decodesAll [
  (0x40BFE787, .rcp 95 ⟨121, 0⟩ 7),
  (0x4125A384, .rsq 18 ⟨104, 0⟩ 4),
  (0x428D8785, .sqrt 70 ⟨97, 0⟩ 5),
  (0x4343C786, .exp2 33 ⟨113, 0⟩ 6),
  (0x44BE2787, .log2 95 ⟨9, 0⟩ 7),
  (0x45241784, .sin 18 ⟨5, 0⟩ 4),
  (0x468DE785, .cos 70 ⟨121, 0⟩ 5),
  (0x4743A386, .tanh 33 ⟨104, 0⟩ 6),
  (0x48BF841F, .act 95 ⟨97, 0⟩ 3 7),
  (0x4925C44C, .fdiv 18 ⟨113, 0⟩ ⟨9, 0⟩ 4),
  (0x4A8C242D, .cats 70 ⟨9, 0⟩ ⟨5, 0⟩),
  (0x4B43C385, .rng 33 5),
  (0x4CBFE780, .xfc 95 ⟨121, 0⟩)] = true := by decide +kernel

theorem test_decode_memory : decodesAll [
  (0x5025A30C, .ldg 18 ⟨104, 0⟩ ⟨97, 0⟩ 4),
  (0x518D878D, .stg 70 ⟨97, 0⟩ ⟨113, 0⟩ 5),
  (0x5243C44E, .lds 33 ⟨113, 0⟩ ⟨9, 0⟩ 6),
  (0x53BE242F, .sts 95 ⟨9, 0⟩ ⟨5, 0⟩ 7),
  (0x542417C8, .atom32 18 ⟨5, 0⟩ ⟨121, 0⟩ 0),
  (0x558DE741, .atom64 70 ⟨121, 0⟩ ⟨104, 0⟩ 1),
  (0x5643A30A, .fatom 33 ⟨104, 0⟩ ⟨97, 0⟩ 2),
  (0x5705878B, .red 2 ⟨97, 0⟩ ⟨113, 0⟩ 3),
  (0x58E1C449, .pfd ⟨113, 0⟩ ⟨9, 0⟩ 1)] = true := by decide +kernel

theorem test_decode_matrix : decodesAll [
  (0x603C2429, .mma 3 6 ⟨9, 0⟩ ⟨5, 0⟩ 1),
  (0x613C1780, .mld 3 6 ⟨5, 0⟩),
  (0x623DE780, .mstRaw 3 6 ⟨121, 0⟩),
  (0x623DA30A, .mstConvert 3 6 ⟨104, 0⟩ ⟨97, 0⟩ 2),
  (0x633DC380, .mzero 3 6),
  (0x6443C448, .qtileMax 33 ⟨113, 0⟩ ⟨9, 0⟩),
  (0x64E02429, .qtileCvt ⟨9, 0⟩ ⟨5, 0⟩),
  (0x65241783, .plst 18 ⟨5, 0⟩ 3),
  (0x668DE783, .plld 70 ⟨121, 0⟩ 3),
  (0x6743A380, .mrdRaw 33 ⟨104, 0⟩),
  (0x67BF878A, .mrdConvert 95 ⟨97, 0⟩ ⟨113, 0⟩ 2)] = true := by decide +kernel

theorem test_decode_prefix : decodesAll [
  (0x75123456, .hint 5 0x123456),
  (0x7FBAEC00, .pfx 5 1 2 1 0 118)] = true := by decide +kernel

theorem test_decode_uniform : decodesAll [
  (0x80000000, .unop),
  (0x81C82581, .uadd 200 37 129),
  (0x82C82581, .usub 200 37 129),
  (0x83C82581, .umul 200 37 129),
  (0x84C82581, .umulh 200 37 129),
  (0x85C82581, .uand 200 37 129),
  (0x86C82581, .uor 200 37 129),
  (0x87C82581, .uxor 200 37 129),
  (0x88C82581, .ushl 200 37 129),
  (0x89C82581, .ushr 200 37 129),
  (0x8AC82581, .usar 200 37 129),
  (0x8BC82581, .umin 200 37 129),
  (0x8CC82581, .umax 200 37 129),
  (0x8DC82581, .useq 200 37 129),
  (0x8EC82581, .uslt 200 37 129),
  (0x8FC82581, .usltu 200 37 129),
  (0x90C8BEEF, .uaddi 200 0xbeef),
  (0x91C8BEEF, .uli 200 0xbeef),
  (0x94C82500, .umov 200 37),
  (0x95C8002D, .ushli 200 45),
  (0x96C82502, .uld 200 37 2),
  (0x97C82502, .ust 200 37 2),
  (0x98C82502, .ulds 200 37 2),
  (0x99C82502, .usts 200 37 2),
  (0x9AC825B5, .uatom 200 37 5 21)] = true := by decide +kernel

theorem test_decode_flow : decodesAll [
  (0xA0C0FFEE, .bra 0xc0ffee),
  (0xA1C8BEEF, .brz 200 0xbeef),
  (0xA2C8BEEF, .brnz 200 0xbeef),
  (0xA3BABCDE, .brm 5 0x1abcde),
  (0xA45FBEEF, .call 95 0xbeef),
  (0xA55F4281, .calli 95 66 129),
  (0xA6005F00, .ret 95),
  (0xA7004200, .jmpi 66),
  (0xA8A00000, .exit 5),
  (0xA9000000, .yield),
  (0xAAAFEDCB, .pfi 10 0xfedcb)] = true := by decide +kernel

theorem test_decode_sync : decodesAll [
  (0xB00B0080, .bar 11 128),
  (0xB1C80B80, .bara 200 11 128),
  (0xB20B2500, .barw 11 37),
  (0xB3000000, .gbar),
  (0xB4000A5C, .waitf 0xa5c),
  (0xB5C82500, .launch 200 37),
  (0xB600C800, .waitch 200),
  (0xB6000001, .waitchAll)] = true := by decide +kernel

theorem test_decode_engine : decodesAll [
  (0xC02A2581, .copy 42 37 129),
  (0xC1C82581, .chapp 200 37 129),
  (0xC200C825, .seqw 200 37),
  (0xC3C82500, .seqr 200 37),
  (0xC42A0002, .hwait 42 1),
  (0xC52A0000, .hrel 42),
  (0xC6C82A00, .hstate 200 42),
  (0xC7C82A00, .wpr 200 42),
  (0xC8052500, .stdefLoad 5 37),
  (0xC8052501, .stdefStore 5 37),
  (0xC9C80005, .stposRead 200 5),
  (0xC900C885, .stposWrite 5 200),
  (0xCAC82581, .resid 200 37 129),
  (0xCB00C825, .demote 200 37)] = true := by decide +kernel

theorem test_decode_table : decodesAll [
  (0xD0C82500, .ftset 200 37),
  (0xD1C82502, .ftgetEntry 200 37 2),
  (0xD1C80080, .ftgetGen 200),
  (0xD2000002, .ffence 2),
  (0xD300C825, .fmtsel 37 200),
  (0xD400C800, .lutld 200),
  (0xD5000000, .lutswap),
  (0xD6000001, .mfence 1),
  (0xD700C825, .rngseed 200 37)] = true := by decide +kernel

theorem test_decode_fence : decodesAll [
  (0xE000000A, .fence 2 2),
  (0xE1000002, .tfence 2),
  (0xE200C812, .tlbi 200 1 2),
  (0xE3000002, .ifence 2)] = true := by decide +kernel

theorem test_decode_system : decodesAll [
  (0xF000BEEF, .trap 0xbeef),
  (0xF1000000, .rte),
  (0xF2C82581, .csrr 200 37 129),
  (0xF3C82581, .csrw 200 37 129),
  (0xF4000002, .boost 2),
  (0xF5C82500, .ember 200 37),
  (0xF500C801, .emberOff 200),
  (0xF6000002, .drawc 2),
  (0xFD123456, .uhint 5 0x123456)] = true := by decide +kernel

/-- Literal words follow their word, A's before B's, the low word of LIT64 first (R84, R87). -/
theorem test_decode_literals :
    (decode [0x0007C828, 0xFFFFFFFE]).toOption = some (.iadd 3 ⟨114, 0xFFFFFFFE⟩ ⟨5, 0⟩ 0, 2) ∧
    (decode [0x0003CF92, 7, 9, 0]).toOption = some (.iadd 1 ⟨115, 0x900000007⟩ ⟨114, 0⟩ 2, 4) ∧
    (decode [0x92090000, 0x80000000]).toOption = some (.ulit 9 0x80000000, 2) ∧
    (decode [0x93090000, 0x11, 0x80000000]).toOption = some (.ulit64 9 0x8000000000000011, 3) := by decide

/-- A mask bit of the encoding table that does not hold its stated value, an unassigned opcode, a reserved operand code and
missing literal words do not decode (R83, R86 to R89, R91). -/
theorem test_decode_rejects : ([[0x80000001], [0xB3000100], [0xF0010000], [0x0A000000], [0x1A000381], [0x2E000000], [0x7F000001],
    [0x0001AC00], [0x0001C800], [0x0003CC00, 1], [0x18000000], [0x50D00000], [0xE2000000], [0xF4000003], [0xA5010200], []] : List (List Nat)).all
    (fun ws => (decode ws).toOption.isNone) = true := by decide +kernel

/-! ## Witnesses: a state and operands for the hypotheses of each statement -/

/-- A gang of 32 lanes that stands in a clause whose word is UNOP. -/
def t0 : State := State.reset.withFetchWord 32 0x80000000
/-- The same with the gang changed. -/
def tg (f : Gang → Gang) : State := t0.setG (f t0.g)
/-- The same with its context changed. -/
def tc (f : Ctx → Ctx) : State := t0.setCtx 64 (f (t0.ctx 64))
/-- The same with its team changed. -/
def tt (f : Team → Team) : State := t0.setTeam 2 (f (t0.team 2))
/-- The same under a prefix. -/
def tp (p : Latch) : State := tg fun g => { g with latch := some p }

theorem test_t0_clause : t0.inClause := ⟨rfl, rfl⟩

/-- A computation answers. -/
def isOk {α : Type} (r : R α) : Bool := match r with
  | .ok _ => true
  | .error _ => false

/-- A scalar can be read. -/
def gets (s : State) (n : Nat) : Bool := !s.sBusy n && (s.g.sreg n).mark.isNone

/-- What reading operands gives. -/
def ran (s : State) (look : Lanes) (srcs : List (Src × Nat)) : State × List VReg :=
  match s.sources look srcs with
  | .ok r => r
  | .error _ => (s, [])

/-- The conditions of `LaneRun` that compute. -/
def runs (s : State) (k : Accept) (look : Lanes) (srcs : List (Src × Nat)) (d : Nat) : Bool :=
  s.g.cl.isSome && isOk (s.accept k) && s.exec_ != 0 && isOk (s.sources look srcs) &&
    (decide (96 ≤ d) || (!s.vBusy d && ((s.g.vreg d).isP || s.slabFree s.cur) && !(ran s look srcs).1.vBusy d &&
      (((ran s look srcs).1.g.vreg d).isP || (ran s look srcs).1.slabFree (ran s look srcs).1.cur)))

/-- They suffice. -/
theorem laneRun_of {s : State} {k : Accept} {look : Lanes} {srcs : List (Src × Nat)} {d : Nat} (h : runs s k look srcs d = true)
    (hs : s.setG s.g = s) : LaneRun s k look srcs (ran s look srcs).1 (ran s look srcs).2 d := by
  simp only [runs, Bool.and_eq_true, Bool.or_eq_true, Bool.not_eq_true', decide_eq_true_eq, bne_iff_ne, ne_eq] at h
  obtain ⟨⟨⟨⟨h1, h2⟩, h3⟩, h4⟩, h5⟩ := h
  refine ⟨⟨h1, hs⟩, ?_, h3, ?_, fun hd => ?_, fun hd => ?_⟩
  · cases e : s.accept k with
    | ok x => rfl
    | error x => rw [e] at h2; cases h2
  · unfold ran
    cases e : s.sources look srcs with
    | ok x => rfl
    | error x => rw [e] at h4; cases h4
  · rcases h5 with h5 | ⟨⟨h5, _⟩, _⟩
    · omega
    · exact h5
  · rcases h5 with h5 | ⟨⟨_, h5⟩, h6⟩
    · omega
    · exact ⟨h5, h6⟩

/-- No flag is enabled in the context of `t0`. -/
theorem quiet_t0 (f : Nat → Byte) : t0.quietFlags f := .inr fun l _ _ => by
  have h : (t0.ctx t0.g.ctx).xftrap = 0 := rfl
  rw [h]; simp

/-- L0 holds a word at an address. -/
def holdsWord (s : State) (a w : Nat) : Bool := match s.findWord a with
  | .word x => x == w
  | _ => false

/-- Encodings: well-formed words, a LIT64 among them; words that decode. -/
theorem test_wf_words : ([.iadd 95 ⟨127, 0⟩ ⟨115, 18446744073709551615⟩ 3, .mov 112 ⟨0, 0⟩, .tlbi 255 2 3, .fence 3 3] : List Instr).all
    (fun i => i.wf && i.isWord) = true := by decide +kernel
theorem test_words_bounded : (∀ w ∈ [0x0007C828, 0xFFFFFFFE], w < 2 ^ 32) ∧
    (decode [0x0007C828, 0xFFFFFFFE]).toOption = some (.iadd 3 ⟨114, 0xFFFFFFFE⟩ ⟨5, 0⟩ 0, 2) := by decide +kernel

/-- StepRunsDecoded and FetchesTheWords. -/
theorem test_step_runs : t0.railDue.isNone = true ∧ t0.agenda = [] ∧ t0.phase = .issue ∧ t0.mayGo t0.g = true ∧ t0.g.cl.isSome = true ∧ t0.cl.refetch = false ∧
    (match t0.decodeNext with
      | .ok (_, i) => i == .unop
      | .error _ => false) = true := by decide +kernel
theorem test_fetches : t0.cl.words = [] ∧ t0.g.latch = none ∧ t0.cl.pend = 0 ∧ t0.cl.check = false ∧ t0.cl.first ≤ t0.cl.len ∧
    holdsWord t0 ((t0.cl.addr + 8 + 4 * t0.cl.first) % 2 ^ 56) 0x80000000 = true ∧ isPrefix 0x80000000 = false ∧
    endsClause .unop = false := by decide +kernel

/-- StepKeepsInvariant. -/
theorem test_sound : t0.Sound := ⟨by decide +kernel, by decide +kernel, by decide +kernel, by decide +kernel⟩
theorem test_step_next : (match step t0 with
    | .next t => t.ns == t0.ns + t0.pace
    | _ => false) = true := by decide +kernel

/-- OperandForms: an entry not yet pushed, a register that a load has yet to write, a mark in a lane, and operands that can be read. -/
theorem test_operands_missing : ([(⟨106, 0⟩, 0)] : List (Src × Nat)).find? (fun a => t0.bypassMissing a.1) = some (⟨106, 0⟩, 0) := by decide +kernel
def busy5 : State := { t0 with ops := [{ id := 0, gang := 3, team := 2, core := 0, ctx := 64, kind := .load (.vec 5 1) 0 false }], nextOp := 1 }
theorem test_operands_busy : busy5.bypassMissing ⟨5, 0⟩ = false ∧ busy5.srcBusy ⟨5, 0⟩ = true := by decide +kernel
def marked5 : State := tg fun g => g.setV 5 (.p (Vector.ofFn fun l => if l.val = 31 then { mark := some 64 } else {}))
theorem test_operands_marked : (∀ k, k < 31 → operandMark marked5.g ⟨5, 0⟩ k = none) ∧ operandMark marked5.g ⟨5, 0⟩ 31 = some 64 ∧
    marked5.srcBusy ⟨5, 0⟩ = false := by decide +kernel
theorem test_operands_read : ∀ c ∈ [0, 95, 113, 116, 119, 120, 127], isStream ⟨c, 0⟩ = false ∧ t0.bypassMissing ⟨c, 0⟩ = false ∧
    t0.srcBusy ⟨c, 0⟩ = false ∧ ∀ l, l < 32 → operandMark t0.g ⟨c, 0⟩ l = none := by decide +kernel

/-- A gang whose stream 7 stands on one element of 8 bytes in page 0. -/
def streamed : State := tg fun g => g.setStream 7 { extents := Vector.ofFn fun _ => 1, strides := Vector.ofFn fun _ => 8 }
theorem test_stream : isOk (streamed.sources streamed.exec_ [(⟨103, 0⟩, 0)]) = true := by decide +kernel

/-- LaneWordEnds: no lane executes; a marked operand; a busy operand; a busy destination. -/
def isTrap (r : R (State × List VReg)) : Bool := match r with
  | .error (.trap _ _) => true
  | _ => false
def isHold (r : R (State × List VReg)) : Bool := match r with
  | .error (.hold _ _) => true
  | _ => false
theorem test_lane_word_ends : intRows.all (fun row =>
    isOk ((tp { m := 1, c := 0 }).accept row.accept) && (tp { m := 1, c := 0 }).exec_ == 0 && isOk (t0.accept row.accept) && t0.exec_ != 0 &&
    isTrap (marked5.sources marked5.exec_ (row.reads ⟨5, 0⟩ ⟨5, 0⟩ marked5.srcC 0)) &&
    isHold (busy5.sources busy5.exec_ (row.reads ⟨5, 0⟩ ⟨5, 0⟩ busy5.srcC 0)) &&
    isOk (busy5.sources busy5.exec_ (row.reads ⟨6, 0⟩ ⟨7, 0⟩ busy5.srcC 0)) && busy5.pfx.sat == 0 && busy5.vBusy 5) = true := by decide +kernel

/-- A signalling binary64 NaN in v5, and every flag enabled. -/
def trapping : State := (tc fun c => { c with xftrap := 0xFF }).setG (t0.g.setV 5 (.u 0x7FF0000000000001))
/-- ft0. -/
def f64 : Fmt := ((t0.ctx t0.g.ctx).entry 0).fmt
theorem test_enabled_flags : (arithRows ++ pickRows.take 2).all (fun row =>
    runs trapping row.accept trapping.exec_ ((row.reads ⟨5, 0⟩ ⟨5, 0⟩ trapping.srcC).map fun x => (x, 4)) 6 &&
    (row.value f64 (trapping.modeAt 0 31) false fun _ => 0x7FF0000000000001).2 &&& (trapping.ctx 64).xftrap != 0) = true := by decide +kernel
theorem test_view_f64 : t0.viewIs 4 f64 ∧ trapping.viewIs 4 f64 := ⟨⟨by decide, rfl, by decide, by decide⟩, ⟨by decide, rfl, by decide, by decide⟩⟩

/-- PrefixAndEmptyWords: a prefix before a lane word, one before a hint, one before a uniform word, and one that ends the clause. -/
def pfxAt (w : Nat) : State := { (State.reset.withFetchWord 64 (w * 2 ^ 32 + 0x7F5D1200)) with freeCtr := 0 }
theorem test_prefix_next : ([0x00020011, 0x7F5D1200, 0x70000000, 0x80000000].all fun w =>
    (pfxAt w).cl.first < (pfxAt w).cl.len && holdsWord (pfxAt w) (8 + 4) w) = true ∧ t0.cl.len ≤ t0.cl.first ∧ t0.g.cl = some t0.cl := by
  decide +kernel

/-- UniformWords: s4 and s5 readable and s6 to be written; a mark in the second operand. -/
theorem test_uniform : (∀ row ∈ uniRows, ∀ n ∈ row.reads 255 0 255, t0.sBusy n = false ∧ (t0.g.sreg n).mark = none) ∧
    t0.g.latch = none ∧ t0.sBusy 255 = false := by decide +kernel
def markedS : State := tg fun g => g.setS 255 { mark := some 8 }
theorem test_uniform_marked : uniRows.all (fun row => (row.reads 255 0 255).isEmpty || (row.reads 255 255 0).all (fun n =>
    !markedS.sBusy n) && ((row.reads 255 255 0).find? fun k => (markedS.g.sreg k).mark.isSome) == some 255) = true := by decide +kernel

/-- The lane words run on v0 and v1: the integer, saturating, move, cross-lane, floating-point and special-function rows. -/
theorem test_int_rows : ∀ row ∈ intRows, ∀ t ∈ [0, 3], runs t0 row.accept t0.exec_ (row.reads ⟨0, 0⟩ ⟨1, 0⟩ t0.srcC t) 95 = true := by
  decide +kernel
def satur : State := tp { sat := 1, c := 0 }
theorem test_sat_rows : satur.pfx.sat = 1 ∧
    ∀ row ∈ satRows, runs satur row.accept satur.exec_ (row.reads ⟨0, 0⟩ ⟨1, 0⟩ satur.srcC 3) 95 = true := by decide +kernel
theorem test_move_rows : ∀ row ∈ moveRows, runs t0 row.accept t0.exec_ (row.reads ⟨0, 0⟩ ⟨1, 0⟩ t0.srcC 3) 112 = true := by decide +kernel
theorem test_cross_rows : ∀ row ∈ crossRows, runs t0 {} 0xFFFFFFFF (row.reads ⟨0, 0⟩ ⟨1, 0⟩ 1) 104 = true := by decide +kernel
theorem test_float_rows : ∀ row ∈ arithRows ++ pickRows, ∀ t ∈ [4, 5],
    runs t0 row.accept t0.exec_ ((row.reads ⟨0, 0⟩ ⟨1, 0⟩ t0.srcC).map fun x => (x, t)) 95 = true := by decide +kernel
theorem test_fscale_runs : runs t0 { rm := true, nf := true, sat := true } t0.exec_ [(⟨0, 0⟩, 4), (⟨1, 0⟩, 4)] 95 = true := by decide +kernel
theorem test_sfu_rows : (∀ row ∈ sfuRows, runs t0 row.accept t0.exec_ ((row.reads ⟨0, 0⟩ ⟨1, 0⟩ t0.srcC).map fun x => (x, 4)) 95 = true) ∧
    12 ≤ t0.cl.seta ∧ 12 ≤ t0.cl.setb := by decide +kernel

/-- MoveWordsAndShapes: operands with R55's shapes, the prefix without other fields, and a C operand for IMAD. -/
def shaped (p q r : VReg) : State := tg fun g => { ((g.setV 0 p).setV 1 q).setV 2 r with latch := some { c := 2 } }
theorem test_affine_rows : ∀ row ∈ affineRows 8 3 5 2 7 7,
    let s := shaped (row.2.1.getD 0 (.u 0)) (row.2.1.getD 1 (.u 0)) (row.2.1.getD 2 (.u 0))
    let u : State := if row.2.1.length = 3 then s else s.setG { s.g with latch := none }
    isOk (u.accept { c := row.2.1.length == 3 }) = true ∧ u.exec_ ≠ 0 ∧ u.g.live &&& ~~~u.exec_ = 0 ∧
      (ran u u.exec_ (affineReads u ⟨0, 0⟩ ⟨1, 0⟩ row.2.1.length)).2 = row.2.1 ∧ u.vBusy 95 = false := by decide +kernel

/-- CompareWords: masks 1 and 7, integer and floating-point. -/
theorem test_compare : isOk (t0.accept {}) = true ∧ isOk (t0.accept { nf := true }) = true ∧
    isOk (t0.sources t0.exec_ [(⟨0, 0⟩, 4), (⟨1, 0⟩, 4)]) = true := by decide +kernel

/-- ShapeWords: any operand that is there; an assertion that names its shape, and one that does not; a register widened and narrowed. -/
theorem test_shape_words : t0.bypassMissing ⟨0, 0⟩ = false ∧ (∀ o ∈ t0.ops, o.gang = t0.cur → o.kind.writesV 0 = false) ∧
    runs t0 { m := false, z := false } t0.exec_ [(⟨0, 0⟩, 0)] 112 = true ∧ (ran t0 t0.exec_ [(⟨0, 0⟩, 0)]).2 = [.u 0] ∧
    Nat.testBit 1 0 = true ∧ Nat.testBit 6 0 = false ∧ runs t0 { m := false, z := false } t0.g.live [(⟨0, 0⟩, 0)] 95 = true := by decide +kernel

/-- Conversions: from binary64 to binary32 (part 0) and back, a specification in s4, and entries whose codes keep. -/
def convs : State := tg fun g => (g.setS 4 { val := 0x0004_0100 }).setS 5 { val := 0x0005_0001 }
theorem test_cvt : (∀ x ∈ [((4 : Nat), (124 : Nat)), (5, 125)], runs convs { rm := true, nf := true, sat := true, c := true } convs.exec_
      (convs.cvtSources ⟨0, 0⟩ ⟨x.2, 0⟩ (9 - x.1)) 95 = true) ∧
    (∀ n, n < 2 → ((convs.ctx 64).entry n).usable = true) ∧ f64.width = 64 ∧ viewWidth 5 = 32 ∧ viewCount 5 = 2 := by decide +kernel
theorem test_cvtfi : runs t0 { rm := true, nf := true } t0.exec_ [(⟨0, 0⟩, 4)] 95 = true ∧
    runs t0 { rm := true, nf := true, sat := true } t0.exec_ [(⟨0, 0⟩, 4)] 95 = true := by decide +kernel
theorem test_exact : (((t0.ctx 64).entry 0).fmt.kind = 0 ∧ f64.value 0x3FF0000000000000 = f64.value 0x3FF0000000000000) ∧
    (match f64.value 0x3FF0000000000000 with
      | .fin _ n _ _ => n != 0
      | _ => false) = true := by decide +kernel

/-- SfuWordsIssue: ACT with an invalid header, and with a valid one of function 3 in the active bank; room on the flag at its limit. -/
def lutted : State := t0.setCore 0 { t0.core 0 with luts := [(64, { bank0 := { cells := [(54, 0x80), (55, 0x3F), (59, 0x80)] } })] }
theorem test_act : (fnHeader (t0.luts.bank t0.luts.sel) 3).valid = false ∧ (fnHeader (lutted.luts.bank lutted.luts.sel) 3).valid = true ∧
    runs lutted { rm := true, nf := true, sat := true } lutted.exec_ [(⟨0, 0⟩, 5)] 95 = true := by decide +kernel
theorem test_room : (tg fun g => { g with cf := g.cf.set 0 { count := 254 } }).hasRoom 0 := .inr (by decide +kernel)

/-- DrawsAndRandom: weights that sum to a finite number, one draw, RNG's types, and a mask that leaves no lane. -/
theorem test_cats : runs t0 { z := false } t0.exec_ [(⟨0, 0⟩, 5), (⟨1, 0⟩, 5)] 95 = true ∧
    (fmtF32.value (((running (fun _ => 0) (ranks t0.exec_) 0).getLast?.map Prod.snd).getD 0)).isInf = false ∧
    (∀ l, l < 32 → ((opnd (ran t0 t0.exec_ [(⟨0, 0⟩, 5), (⟨1, 0⟩, 5)]).2 1).at l).toNat % 2 ^ 32 = 0) := by decide +kernel
theorem test_rng : t0.canPut 95 ∧ t0.exec_ ≠ 0 ∧ isOk (t0.accept {}) = true ∧ (tp { m := 1, c := 0 }).exec_ = 0 ∧
    isOk ((tp { m := 1, c := 0 }).accept {}) = true := ⟨fun _ => by decide +kernel, by decide +kernel⟩

/-- An operation of the current gang and team on flag 0. -/
def op0 (k : OpKind) (items : List Item) : Op := { id := 0, gang := 3, team := 2, core := 0, ctx := 64, flag := 0, kind := k, items := items }
/-- A state with one operation in flight. -/
def flying (k : OpKind) (items : List Item) : State :=
  { (tg fun g => { g with cf := g.cf.set 0 { count := 1 } }) with ops := [op0 k items], nextOp := 1 }
/-- Its operation is there, its gang is listed, and it is the gang's oldest special-function word. -/
def ready (s : State) : Bool := (s.op? 0).isSome && (tget? s.gangs 3).isSome

/-- SfuWordsComplete. -/
theorem test_sfu_complete : ready (flying (.sfu 5 (some (.u 1)) (Vector.replicate 32 0) none) []) = true ∧
    ready (flying (.xfc 5 (some (.u 1))) []) = true := by decide +kernel
theorem test_xfr : isOk (t0.accept {}) = true ∧ t0.exec_ ≠ 0 ∧ t0.flagsPending = false ∧
    isOk (t0.sources t0.exec_ [(⟨0, 0⟩, 0)]) = true := by decide +kernel

/-! ### Memory words -/

/-- The low 31 addresses of page 0 and the last of the page; the scratchpad's first and last words. -/
def lanesAt (f : Nat → Nat) : List (Nat × Nat) := (List.range 32).map fun l => (l, f l)
theorem test_checks_pass : ∀ k ∈ [Access.read, .write, .atomic], ∀ al ∈ [1, 2, 4, 8],
    isOk (t0.checkGlobal k al false (lanesAt fun l => if l = 31 then 65528 else 8 * l)) = true := by decide +kernel
theorem test_checks_spad : ∀ w ∈ [1, 8], isOk (t0.checkSpad .read w false (lanesAt fun l => 393216 - 8 * (l + 1))) = true ∧
    isOk (t0.checkSpad .write w true [(0, 393216 - w)]) = true := by decide +kernel
/-- LaneLoadsIssue, LaneStoresIssue: v0 + v1 are the addresses 0 in every lane. -/
theorem test_lane_loads : runs t0 {} t0.exec_ [(⟨0, 0⟩, 0), (⟨1, 0⟩, 0)] 95 = true ∧
    isOk (t0.checkGlobal .read 8 false (lanesAt fun _ => 0)) = true ∧ isOk (t0.checkSpad .read 8 false (lanesAt fun _ => 0)) = true := by
  decide +kernel
theorem test_lane_stores : runs t0 { z := false } t0.exec_ [(⟨0, 0⟩, 0), (⟨1, 0⟩, 0), (⟨2, 0⟩, 3)] 112 = true ∧
    (match t0.checkGlobal .write 8 false (lanesAt fun l => 8 * l) with
      | .ok es => ((lanesAt fun l => 8 * l).zip es).all fun p => p.2.phys p.1.2 % 8 == 0
      | .error _ => false) = true := by decide +kernel

/-- UniformMemoryWords: size codes 0 to 3. -/
theorem test_uniform_memory : t0.canGet 255 ∧ t0.sBusy 255 = false ∧ (∀ w, w < 4 → isOk (t0.checkGlobal .read (8 / 2 ^ w) true [(0, 0)]) = true ∧
    isOk (t0.checkGlobal .write (8 / 2 ^ w) true [(0, 0)]) = true ∧ isOk (t0.checkSpad .read (8 / 2 ^ w) true [(0, 0)]) = true ∧
    isOk (t0.checkSpad .write (8 / 2 ^ w) true [(0, 0)]) = true) := ⟨⟨by decide +kernel, by decide +kernel⟩, by decide +kernel⟩
theorem test_pfd : isOk (t0.accept { z := false }) = true ∧ t0.srcBusy ⟨0, 0⟩ = false ∧ (∀ o ∈ t0.ops, o.id < t0.nextOp) ∧
    streamsOf [(⟨0, 0⟩, 0), (⟨1, 0⟩, 0)] = [] := by decide +kernel

/-- AtomicsIssue: the forms of ATOM, RED on each size, FATOM on ft1 (32 bits) in C's low byte, and UATOM. -/
def swapping (p : Latch) : State := tg fun g => { (g.setV 2 (.u 1)) with latch := some p }
theorem test_atomics : runs t0 { sat := true } t0.exec_ [(⟨0, 0⟩, 0), (⟨1, 0⟩, 0)] 95 = true ∧
    runs (swapping { sat := 1, c := 0 }) { sat := true } 0xFFFFFFFF [(⟨0, 0⟩, 0), (⟨1, 0⟩, 0)] 95 = true ∧
    runs (swapping { sat := 1, c := 2 }) { sat := true, c := true } 0xFFFFFFFF [(⟨0, 0⟩, 0), (⟨1, 0⟩, 0), (⟨2, 0⟩, 0)] 95 = true ∧
    (swapping { sat := 1, c := 2 }).srcC = ⟨2, 0⟩ ∧
    runs t0 { z := false } t0.exec_ [(⟨0, 0⟩, 0), (⟨1, 0⟩, 0)] 112 = true ∧
    runs (swapping { c := 2 }) { rm := true, nf := true, c := true } 0xFFFFFFFF [(⟨0, 0⟩, 0), (⟨1, 0⟩, 0), (⟨2, 0⟩, 0)] 95 = true := by
  decide +kernel
theorem test_fatom : (t0.ctx 64).featmask.getLsbD 6 = true ∧ ((t0.ctx 64).entry 1).usable = true ∧ ((t0.ctx 64).entry 1).fmt.kind ≠ 3 ∧
    ((t0.ctx 64).entry 1).fmt.width = 32 ∧ (1 : Word).toNat % 256 = 1 ∧
    ∀ n ∈ [1, 2, 4, 8], isOk (t0.checkGlobal .atomic n false (lanesAt fun _ => 0)) = true := by decide +kernel
theorem test_uatom : isOk (t0.checkGlobal .atomic 8 true [(0, 0)]) = true ∧ t0.canGet 0 ∧ t0.canGet 31 ∧ t0.sBusy 5 = false :=
  ⟨by decide +kernel, ⟨by decide +kernel, by decide +kernel⟩, ⟨by decide +kernel, by decide +kernel⟩, by decide +kernel⟩

/-- LoadServed: an access that may be performed, its line with room in L1; the access of a scratchpad load; and a lease. -/
def acc0 : Item := { va := 65528, pa := 65528 }
def loading : State := flying (.load (.vec 5 1) 0 false) [acc0]
theorem test_load_served : ready loading = true ∧ loading.mayPerform (op0 (.load (.vec 5 1) 0 false) [acc0]) 0 acc0 = true ∧
    (loading.core 0).l1Room (65528 / 128) [] = true ∧ loading.newOwner (loading.ctx 64).num (65528 / 65536) true = none ∧
    loading.queued 0 64 0 = [] ∧ loading.mem.wf = true ∧ 65528 / 128 = (65528 + 8 - 1) / 128 := by decide +kernel
theorem test_spad_served : (flying (.load (.vec 5 1) 0 true) [acc0]).mayPerform (op0 (.load (.vec 5 1) 0 true) [acc0]) 0 acc0 = true ∧ acc0.plane = none := by decide +kernel

/-- AccessesComplete: a vector load, a scalar load of s255, and stores to memory and to scratchpad, all of whose accesses are performed. -/
def done0 : Item := { done := true, res := some { val := 0x80 }, comp := 7 }
theorem test_accesses_complete : ∀ k ∈ [OpKind.load (.vec 95 1) 3 false, .load (.scl 255) 1 true, .store false, .store true],
    ready (flying k [done0]) = true ∧ [done0].all (fun i => i.done) = true := by decide +kernel

/-- WritesPerformed: a store of one byte with its leaf, a scratchpad store, and atomics of both widths. -/
def stored0 : Item :=
  { acc0 with
    pieces := [{ addr := 65528, byte := 9 }]
    dirt := [{ va := 65528, leaf1 := some 8, leaf2 := none, ia := 65528, lg := 16 }] }
def mayAll (s : State) : Bool := s.ops.all fun o => o.items.all fun i => s.mayPerform o 0 i
theorem test_writes_performed : (∀ k ∈ [OpKind.store false, .store true], mayAll (flying k [stored0]) = true) ∧ (∀ d ∈ stored0.dirt, d.leaf2 = none) ∧
    (∀ w ∈ [4, 8], ∀ f ∈ [AtomOp.add, .min, .max, .minu, .maxu, .and, .or, .xor, .xchg, .cas],
      mayAll (flying (.atomic f w (.vec 5 1) {} 0 false) [acc0]) = true) ∧ acc0.dirt = [] ∧
    (loading.team 2).spad.wf = true := by decide +kernel

/-- AccessChecks: an address off its alignment, one with no translation, one that may not be written, and addresses that pass. -/
def readOnly : State := t0.setCore 0 { t0.core 0 with tlb := (t0.core 0).tlb.map fun e => { e with w := false } }
theorem test_access_checks : ([(0, 0), (31, 1)].map (·.1)).Nodup ∧ [(0, 0), (31, 1)].any (fun x => x.2 % 8 != 0) = true ∧
    (match t0.xlate 0 64 65536 with
      | .error f => f.xlate
      | .ok _ => false) = true ∧
    (match readOnly.xlate 0 64 65528 with
      | .ok e => (e.permit .write 2 65528).isSome && (e.permit .read 2 65528).isNone
      | .error _ => false) = true := by decide +kernel

/-! ### Matrix words -/

/-! ### Matrix words -/

/-- CollectiveWordsIssue: AE and BE 2 (16-bit floats), ACC 1 (binary32), OUT 4 and no scales; operands at offsets 0 and 2^14. -/
def matWord : Word := 0x04010202
/-- `t0` with the core at its full level. -/
def levelled : State := t0.setCore 0 { t0.core 0 with level := 64 }
def mma0 : MatOp :=
  { kind := .mma true, acc := 7, shape := 4, offB := 16384, ae := (t0.ctx 64).entry 2, be := (t0.ctx 64).entry 2, ce := (t0.ctx 64).entry 1 }
theorem test_matrix_ready : isOk (t0.accept { m := false, z := false }) = true ∧ t0.exec_ = 0xFFFFFFFF ∧ 7 < (t0.team 2).accIdx.length ∧
    (t0.ops.length < Config.matrixQueue) ∧ 12 ≤ t0.cl.setb ∧ isOk (t0.sources t0.exec_ [(⟨0, 0⟩, 0), (⟨1, 0⟩, 0)]) = true ∧
    bits matWord 63 57 = 0 ∧ bits matWord 33 32 = 0 ∧ bits matWord 55 54 ≠ 3 := by decide +kernel
theorem test_mma_fits : mma0.ae.operandOk = true ∧ mma0.ce.accOk = true ∧ (∀ x ∈ mma0.ranges, x.1 % 256 = 0 ∧ x.1 + x.2 ≤ (t0.team 2).spadLen) ∧
    (mma0.ae.fmt.planeCount * mma0.be.fmt.planeCount + 3) / 4 ≤ (levelled.core 0).level ∧
    t0.scaleOk mma0.ae 0 16 (shapeDims 4).2 = true := by decide +kernel
theorem test_moves_fit : ∀ k ∈ [MatKind.mld, .mst 4 false, .mst 4 true, .mst 2 true, .mst 1 true], ∀ sh, sh < 5 →
    ∀ x ∈ ({ kind := k, acc := 0, shape := sh, offA := 65536, oute := (t0.ctx 64).entry 4 } : MatOp).ranges,
      x.1 % 256 = 0 ∧ x.1 + x.2 ≤ (t0.team 2).spadLen := by decide +kernel
theorem test_mst_convert : ((t0.ctx 64).entry 4).usable = true ∧ ((t0.ctx 64).entry 4).fmt.width ≤ 8 * 1 ∧ ((t0.ctx 64).entry 1).accOk = true ∧
    (∀ n ∈ [2, 4], ∀ md ∈ [0, 1], t0.scaleMode ((t0.ctx 64).entry n) md = true) := by decide +kernel
theorem test_qtile : ∀ k ∈ [MatKind.qmax 95, .qcvt],
    let m : MatOp := { kind := k, offB := 65536, ae := (t0.ctx 64).entry 4, be := (t0.ctx 64).entry 1 }
    m.be.usable = true ∧ m.be.fmt.kind ≠ 3 ∧ m.be.fmt.width ≤ 32 ∧ m.ae.operandOk = true ∧ t0.scaleOk m.ae 0 16 64 = true ∧
      ∀ x ∈ m.ranges, x.1 % 1 = 0 ∧ x.1 + x.2 ≤ (t0.team 2).spadLen := by decide +kernel
/-- A scale above 0 for Q16 on the codebook entry 12. -/
theorem test_qtile_scaled : (let x := fmtF32.value 0x3F800000
    x.isNan = false ∧ x.isInf = false ∧ Num.lt (.zero false) x = true) ∧ t0.scaleOk ((t0.ctx 64).entry 12) 2 16 64 = true := by decide +kernel
/-- CollectiveTraps: a masked lane, and lanes that disagree. -/
def partly : State := tg fun g => { g with cl := g.cl.map fun c => { c with active := 0x7FFFFFFF } }
def differing : State := tg fun g => g.setV 1 (.a 0 1)
theorem test_collective_traps : partly.exec_ ≠ 0xFFFFFFFF ∧ differing.exec_ = 0xFFFFFFFF ∧
    (opnd (ran differing differing.exec_ [(⟨0, 0⟩, 0), (⟨1, 0⟩, 0)]).2 1).at 31 ≠
      (opnd (ran differing differing.exec_ [(⟨0, 0⟩, 0), (⟨1, 0⟩, 0)]).2 1).at 0 := by decide +kernel

/-- AccumulatorAndPlaneWords: descriptors of MRD at the last cells of shape 4 and of 2, and of a plane layout of entry 2 at its last row. -/
theorem test_mrd : ∀ c ∈ [4, 2, 1], ∀ sh, sh < 5 →
    let x : Word := BitVec.ofNat 64 (7 + sh * 8 + (regionCells sh - 32 * (8 / c)) * 128)
    bits x 63 19 = 0 ∧ bits x 6 3 = sh ∧ bits x 2 0 = 7 ∧ bits x 18 7 % (32 * (8 / c)) = 0 ∧ bits x 18 7 + 32 * (8 / c) ≤ regionCells sh ∧
      t0.canPut 95 := fun c _ sh _ => by
  refine ⟨?_, ?_, ?_, ?_, ?_, fun _ => by decide +kernel⟩ <;> revert c sh <;> decide +kernel
theorem test_plane : ∀ x ∈ [((4 : Nat), (2 : Nat)), (8, 4)],
    let p : PlaneRef := { ent := (t0.ctx 64).entry x.2, k := 32, rho := 64, base := 256, start := 64 * 32 - 32 * x.1, e := x.1 }
    p.start % (32 * x.1) = 0 ∧ p.start + 32 * x.1 ≤ p.rho * p.k ∧ p.ent.operandOk = true ∧ p.ent.fmt.width ≤ 64 / x.1 ∧
      p.base % 256 = 0 ∧ p.base + p.lay.size ≤ (t0.team 2).spadLen := by decide +kernel
/-- MatrixFence: nothing in flight, and an operation of the gang that is. -/
theorem test_mfence : (∀ o ∈ t0.ops, False) ∧ (flying (.matrix { kind := .mzero }) []).g.wait = .none ∧
    (0 : Nat) < (flying (.matrix { kind := .mzero }) []).nextOp := by decide +kernel

/-- MatrixCompletes: each kind, with nothing ahead of it; and one behind another on the same accumulator. -/
theorem test_matrix_completes : ∀ k ∈ [MatKind.mzero, .mld, .mma true, .mma false, .mst 4 false, .mst 1 true, .mrd 95 1 0 4 false, .qmax 5, .qcvt],
    (flying (.matrix { kind := k }) []).matrixReady (op0 (.matrix { kind := k }) []) { kind := k } = true ∧
      (flying (.matrix { kind := k }) []).partners (op0 (.matrix { kind := k }) []) = [] := by decide +kernel
/-- With no partner, nothing is met. -/
theorem meets_of_partners {s : State} {o : Op} (h : s.partners o = []) : s.meets o = [] := by
  unfold State.meets
  rw [h]
  rfl
/-- Two operations of which either may take effect. -/
def zeros : State :=
  { flying (.matrix { kind := .mzero }) [] with
    ops := [op0 (.matrix { kind := .mzero }) [], { (op0 (.matrix { kind := .mzero, acc := 1 }) []) with id := 1 }], nextOp := 2 }
theorem test_matrix_partner : zeros.matrixReady (op0 (.matrix { kind := .mzero }) []) { kind := .mzero } = true ∧
    (zeros.partners (op0 (.matrix { kind := .mzero }) [])).length = 1 := by decide +kernel
theorem test_matrix_waits : ({ flying (.matrix { kind := .mzero }) [] with nextOp := 2 } : State).matrixReady
    { (op0 (.matrix { kind := .mld }) []) with id := 1 } { kind := .mld } = false := by decide +kernel
theorem test_matrix_clean : (t0.team 2).spad.wf = true ∧ ((t0.team 2).accOf 7).mark = false ∧
    (t0.team 2).spad.poisoned 0 (4096 * 8) = false := by decide +kernel

/-! ### Control flow and synchronisation -/

/-- Branches: pointers of class 255 at a multiple of 8, and one that is misaligned. -/
def pointing (x : Word) : State := tg fun g => g.setV 95 (.u x)
theorem test_branches : t0.g.latch = none ∧ t0.canGet 255 ∧ t0.canPut 95 ∧ (pointing (BitVec.ofNat 64 (255 * 2 ^ 56))).pointersIn 95 :=
  ⟨rfl, ⟨by decide +kernel, by decide +kernel⟩, fun _ => by decide +kernel, by decide, by decide +kernel, by decide +kernel⟩
theorem test_pointers : ((BitVec.ofNat 64 (255 * 2 ^ 56)).toNat % 8 = 0 ∧ (BitVec.ofNat 64 (255 * 2 ^ 56)).toNat / 2 ^ 56 = 255) ∧
    ((4 : Word).toNat % 8 ≠ 0) ∧ (0 : Word).toNat / 2 ^ 56 ≠ 255 ∧ inSet t0.act 0 = true := by decide +kernel

theorem fresh_t0 : t0.fresh := ⟨⟨rfl, rfl⟩, rfl, rfl⟩
theorem idle_t0 : t0.idle := ⟨rfl, rfl, rfl, rfl⟩
theorem lease_t0 : t0.leasePast := fun p h => by rcases h with h | h <;> cases h
/-- ExitAndYield: mask m0 takes every lane out, m1 none, and a clause of two words goes on. -/
theorem test_exit : t0.act &&& ~~~t0.g.live = 0 ∧ t0.g.live &&& ~~~(t0.act &&& t0.mask 0) = 0 ∧ t0.act &&& ~~~(t0.act &&& t0.mask 1) ≠ 0 ∧
    (pfxAt 0x80000000).cl.next ≤ (pfxAt 0x80000000).cl.len := by decide +kernel
/-- FlagWait: flags at rest, flag 11 counting, an ENGINE report on it, and a POISON report after one. -/
def reported : State := tg fun g => { g with cf := g.cf.set 11 { reports := [{ engine := true, addr := 5 }] } }
def twoReports : State := tg fun g => { g with cf := g.cf.set 11 { reports := [{ engine := true, addr := 5 }, { engine := false, addr := 6 }] } }
def counting : State := tg fun g => { g with cf := g.cf.set 11 { count := 1 } }
theorem test_waitf : (∀ n, n < 12 → (t0.g.flag n).count = 0 ∧ (t0.g.flag n).reports = []) ∧ (0xFFF).testBit 11 = true ∧
    0 < (counting.g.flag 11).count ∧ (∀ k, k < 12 → (reported.g.flag k).count = 0) ∧ (∀ k, k < 11 → (reported.g.flag k).reports = []) ∧
    (reported.g.flag 11).reports = [] ++ { engine := true, addr := 5 } :: [] ∧ (∀ k, k < 12 → (twoReports.g.flag k).count = 0) ∧
    (∀ k, k < 11 → ∀ x ∈ (twoReports.g.flag k).reports, x.engine = true) ∧
    (twoReports.g.flag 11).reports = [{ engine := true, addr := 5 }] ++ { engine := false, addr := 6 } :: [] := by decide +kernel

/-- A block of words is read at an address, none poisoned, with nothing of the gang in the way. -/
def blockOk (s : State) (va n : Nat) : Bool := match s.readBlock va n with
  | .ok r => r.2.all fun x => x.mark.isNone
  | .error _ => false
def blockState (s : State) (va n : Nat) : State := match s.readBlock va n with
  | .ok r => r.1
  | .error _ => s
def blockWords (s : State) (va n i : Nat) : Word := match s.readBlock va n with
  | .ok r => wordAt r.2 i
  | .error _ => 0
theorem block_of {s : State} {va n : Nat} (h : blockOk s va n = true) : BlockRead s (blockState s va n) va n (blockWords s va n) := by
  unfold blockOk at h
  unfold blockState blockWords
  cases e : s.readBlock va n with
  | error x => rw [e] at h; cases h
  | ok r =>
    rw [e] at h
    simp only [List.all_eq_true, Option.isNone_iff_eq_none] at h
    exact ⟨r.2, by rw [e], fun x hx => h x hx, fun i _ => rfl⟩
/-- `t0` with bytes in memory. -/
def withBytes (l : List Host.Cell) : State := { t0 with mem := { cells := l } }
/-- A launch record of one team of 32 threads, with entries 2 and 4 for the views 6 and 7. -/
def recorded : State := withBytes [(0, 1), (4, 1), (24, 32), (36, 2), (37, 4)]
/-- LaunchWords: another gang, the deepest grid, a record refused and one accepted. -/
theorem test_launch_refused : BlockRead t0.released (blockState t0.released 0 8) 0 8 (blockWords t0.released 0 8) ∧
    (t0.ctx 64).refusal (recordOf (blockWords t0.released 0 8)) false false false = 1 := ⟨block_of (by decide +kernel), by decide +kernel⟩
theorem test_launch_accepted : BlockRead recorded.released (blockState recorded.released 0 8) 0 8 (blockWords recorded.released 0 8) ∧
    (recorded.ctx 64).refusal (recordOf (blockWords recorded.released 0 8)) false false false = 0 := ⟨block_of (by decide +kernel), by decide +kernel⟩
theorem test_launch : (t0.ctx t0.g.ctx).featmask.getLsbD 7 = true ∧ t0.g.gindex = 0 ∧ (tg fun g => { g with gindex := 31 }).g.gindex ≠ 0 ∧
    (t0.grid t0.g.grid).depth ≠ 9 ∧ ((t0.setGrid 1 { t0.grid 1 with depth := 9 }).grid 1).depth = 9 ∧ t0.sBusy 255 = false := by decide +kernel
/-- A team that has launched two children, of which the first is done. -/
def parent : State := (tt fun t => { t with launches := 2, doneChildren := [1] }).setG (t0.g.setS 4 { val := 2 })
theorem test_waitch : (parent.team 2).doneChildren.contains 1 = true ∧ (parent.team 2).doneChildren.contains 2 = false ∧ parent.canGet 4 ∧
    (parent.g.sreg 4).val.toNat = 2 ∧ parent.g.wait = .none ∧ (t0.team 2).launches = 0 ∧ (parent.team 2).doneChildren.contains 0 = false :=
  ⟨by decide +kernel, by decide +kernel, ⟨by decide +kernel, by decide +kernel⟩, by decide +kernel⟩
theorem test_waiting : ∀ w ∈ [Wait.waitch 2, .waitchAll 2, .bar 15 0, .barw 15 0, .gbar 0, .hwait 63, .hrel 63, .seqw 64],
    (tg fun g => { g with wait := w }).g.wait = w ∧ (tg fun g => { g with wait := w }).g.latch = none ∧
      (tg fun g => { g with wait := w }).g.cl.isSome = true := by decide +kernel

/-- TeamBarriers: the grid's count of one gang, a count in s4, a phase under way for it and one for another count; BARW's operand below
the phase and not. -/
def barred (b : Barrier) (n : Word) : State := (tt fun t => { t with bars := [(15, b)] }).setG (t0.g.setS 4 { val := n })
theorem test_bar_counts : t0.countIs 0x80 1 ∧ (barred {} 65535).countIs 4 65535 ∧ 15 < (t0.team 2).barIdx.length :=
  ⟨.inl ⟨rfl, by decide +kernel⟩, .inr ⟨by decide, ⟨by decide +kernel, by decide +kernel⟩, by decide +kernel⟩, by decide +kernel⟩
theorem test_bar : t0.loadsPending = false ∧ t0.teamPending = false ∧ ((barred { arrivals := 1, target := some 2 } 2).team 2).bar 15 =
      { arrivals := 1, target := some 2 } ∧ ((barred { arrivals := 1, target := some 3 } 2).team 2).bar 15 = { arrivals := 1, target := some 3 } ∧
    (2 : Word).toNat < ((barred { phase := 3 } 2).team 2 |>.bar 15).phase ∧ ((barred { phase := 2 } 2).team 2 |>.bar 15).phase ≤ (2 : Word).toNat := by
  decide +kernel
/-- GridBarrier: the only gang of the only team. -/
theorem test_gbar : (t0.team 2).grid = t0.g.grid ∧ (∀ e ∈ t0.gangs, e.1 = t0.cur) ∧
    (t0.grid 1).record.teams ≤ (insertNat (t0.grid 1).arrived (t0.team 2).num).length ∧ (t0.grid 1).phase = 0 := by decide +kernel
/-- LaneGroups: each lane in the mask of all; lane 0 outside its own mask; a group that claims lane 0. -/
def joining (x : Word) (gs : List SyncGroup) : State := tg fun g => { (g.setV 0 (.u x)) with groups := gs }
theorem test_syncm : runs (joining 0xFFFFFFFF []) { z := false } 0xFFFFFFFF [(⟨0, 0⟩, 0)] 112 = true ∧ t0.loadsPending = false ∧
    (∀ l, l < 32 → inSet (0xFFFFFFFF : Lanes) l = true) ∧ (0xFFFFFFFF : Lanes) &&& ~~~t0.g.live = 0 ∧
    runs (joining 0 []) { z := false } 0xFFFFFFFF [(⟨0, 0⟩, 0)] 112 = true ∧ inSet (0 : Lanes) 0 = false ∧
    runs (joining 0xFFFFFFFF [{ mask := 1, arrived := 0, clause := 0, pos := 0 }]) { z := false } 0xFFFFFFFF [(⟨0, 0⟩, 0)] 112 = true ∧
    inSet (1 : Lanes) 0 = true := by decide +kernel

/-! ### Tables of translation: entries that memory does not list are 0 -/

/-- A list without the members that give nothing gives the same. -/
theorem flatMap_filter_nil {α β : Type} (f : α → List β) (p : α → Bool) : ∀ l : List α, (∀ i ∈ l, p i = false → f i = []) →
    (l.filter p).flatMap f = l.flatMap f
  | [], _ => rfl
  | a :: r, h => by
    have ih := flatMap_filter_nil f p r fun i hi => h i (List.mem_cons_of_mem _ hi)
    cases hp : p a with
    | true => rw [List.filter_cons_of_pos hp, List.flatMap_cons, List.flatMap_cons, ih]
    | false => rw [List.filter_cons_of_neg (by simp [hp]), List.flatMap_cons, h a (List.mem_cons_self ..) hp, ih, List.nil_append]
/-- Bytes that are not listed read 0. -/
theorem cellGet_unlisted : ∀ (l : List Host.Cell) (a : Nat), (l.all fun c => c.1 != a) = true → cellGet l a = 0
  | [], _, _ => rfl
  | c :: r, a, h => by
    simp only [List.all_cons, Bool.and_eq_true, bne_iff_ne, ne_eq] at h
    unfold cellGet
    have := cellGet_unlisted r a (by simpa using h.2)
    split <;> simp_all
/-- A byte of table entry `i` is listed. -/
def listed (s : State) (table i : Nat) : Bool := s.mem.cells.any fun c => decide (table + 8 * i ≤ c.1) && decide (c.1 < table + 8 * i + 8)
theorem value_unlisted {s : State} {table i : Nat} (h : listed s table i = false) : s.mem.value (table + 8 * i) 8 = 0 := by
  have b (k : Nat) (hk : k < 8) : s.mem.byte (table + 8 * i + k) = 0 := by
    apply cellGet_unlisted
    simp only [listed, List.any_eq_false, Bool.and_eq_true, decide_eq_true_eq, not_and] at h
    simp only [List.all_eq_true, bne_iff_ne, ne_eq]
    intro c hc e
    exact h c hc (by omega) (by omega)
  have e : s.mem.bytes (table + 8 * i) 8 = List.replicate 8 0 :=
    (List.map_congr_left fun k hk => b k (List.mem_range.1 hk)).trans rfl
  unfold Memory.value
  rw [e]
  rfl
/-- The entries of a table that are listed. -/
def entries (s : State) (k table : Nat) : List Nat := (List.range (levelEntries k)).filter (listed s table)
/-- `mapped` over the listed entries only. -/
def mappedFast (s : State) : Nat → Nat → List (Nat × Nat)
  | k, table => (table, 8 * levelEntries k) :: (entries s k table).flatMap fun i =>
      let e := s.mem.value (table + 8 * i) 8
      if entryOk e then
        if fld e 1 1 = 1 then [(entryAddr e, 2 ^ levelShift k)]
        else match k with
          | 0 => []
          | k' + 1 => mappedFast s k' (entryAddr e)
      else []
theorem mapped_fast (s : State) : ∀ k table, s.mapped k table = mappedFast s k table := by
  intro k
  induction k with
  | zero =>
    intro table
    rw [State.mapped.eq_1, mappedFast.eq_1, entries, flatMap_filter_nil]
    intro i _ h
    simp [value_unlisted h, entryOk, fld]
  | succ k ih =>
    intro table
    rw [State.mapped.eq_1, mappedFast.eq_1, entries, flatMap_filter_nil]
    · simp only [ih]
    · intro i _ h
      simp [value_unlisted h, entryOk, fld]
/-- `leavesUnder` over the listed entries only. -/
def leavesFast (s : State) : Nat → Nat → List (Nat × Nat)
  | k, table => (entries s k table).flatMap fun i =>
      let e := s.mem.value (table + 8 * i) 8
      if entryOk e then
        if fld e 1 1 = 1 then [(entryAddr e, 2 ^ levelShift k)]
        else match k with
          | 0 => []
          | k' + 1 => leavesFast s k' (entryAddr e)
      else []
theorem leaves_fast (s : State) : ∀ k table, s.leavesUnder k table = leavesFast s k table := by
  intro k
  induction k with
  | zero =>
    intro table
    rw [State.leavesUnder.eq_1, leavesFast.eq_1, entries, flatMap_filter_nil]
    intro i _ h
    simp [value_unlisted h, entryOk, fld]
  | succ k ih =>
    intro table
    rw [State.leavesUnder.eq_1, leavesFast.eq_1, entries, flatMap_filter_nil]
    · simp only [ih]
    · intro i _ h
      simp [value_unlisted h, entryOk, fld]
/-- `entriesUnder` over the listed entries only. -/
def entriesFast (s : State) : Nat → Nat → List (Nat × Nat)
  | k, table => (entries s k table).flatMap fun i =>
      let ea := table + 8 * i
      let e := s.mem.value ea 8
      if entryOk e then
        if fld e 1 1 = 1 then [(ea, e)]
        else (ea, e) :: (match k with
          | 0 => []
          | k' + 1 => entriesFast s k' (entryAddr e))
      else []
theorem entries_fast (s : State) : ∀ k table, s.entriesUnder k table = entriesFast s k table := by
  intro k
  induction k with
  | zero =>
    intro table
    rw [State.entriesUnder.eq_1, entriesFast.eq_1, entries, flatMap_filter_nil]
    intro i _ h
    simp [value_unlisted h, entryOk, fld]
  | succ k ih =>
    intro table
    rw [State.entriesUnder.eq_1, entriesFast.eq_1, entries, flatMap_filter_nil]
    · simp only [ih]
    · intro i _ h
      simp [value_unlisted h, entryOk, fld]
/-! ### Engine, table, fence and system words -/

/-- Tables that map pages 0, 1 and 2 to themselves, with every permission and D: the root at 0x800, then 0x1000 to 0x4000 (R360, R361). -/
def pageTables : List Host.Cell := [(0x800, 1), (0x801, 0x10), (0x1000, 1), (0x1001, 0x20), (0x2000, 1), (0x2001, 0x30), (0x3000, 1),
  (0x3001, 0x40), (0x4000, 0x7F), (0x4008, 0x7F), (0x400A, 1), (0x4010, 0x7F), (0x4012, 2)]
/-- `t0` with those tables and more bytes above them, and a CXL window of the partition. -/
def paged (l : List Host.Cell) : State :=
  { (tc fun c => { c with ptbase := 0x800 }) with
    mem := { cells := pageTables ++ l }, dev := { t0.dev with windows := [{ base := 2 ^ 44, size := 2 ^ 20, ports := [0], tag := 1 }] } }
/-- A team with a handle in a state. -/
def handled (h : Handle) : State := (paged []).setTeam 2 { t0.team 2 with handles := [(63, h)] }
/-- CopyWord: a range of the most bytes, for a free handle and, for a copy out, a full one; a round that another gang opened; and a handle
that cannot take it. -/
def copying (h : Handle) (w : Word) : State := (handled h).setG (t0.g.setS 5 { val := w })
def inRound : Handle := { state := .filling, isOpen := true, expected := [3, 9] }
theorem test_copy : 63 < (t0.team 2).hIdx.length ∧ t0.hasLadle 1 = true ∧ t0.canGet 4 ∧ 12 ≤ t0.cl.setb ∧
    (∀ w ∈ [(393216 : Nat) * 2 ^ 32, 2 ^ 63 + 393216 * 2 ^ 32], let x : Word := BitVec.ofNat 64 w
      bits x 62 56 = 0 ∧ bits x 55 32 ≤ 393216 ∧ bits x 55 32 % 8 = 0 ∧ bits x 31 0 % 8 = 0 ∧ bits x 31 0 + bits x 55 32 ≤ (t0.team 2).spadLen) ∧
    (((copying {} 0).team 2).handle 63).state = .free ∧ (((copying { state := .full } 0).team 2).handle 63).state = .full ∧
    (((copying inRound 0).team 2).handle 63) = inRound ∧ inRound.closed = false ∧ (∀ y ∈ inRound.slices, y.gang ≠ 3) :=
  ⟨by decide +kernel, by decide +kernel, ⟨by decide +kernel, by decide +kernel⟩, by decide +kernel⟩
/-- CopyRounds: a round that is not closed; closed ones that move all their bytes, some of them, or meet a fault. -/
def closedRound (glob len : Nat) : Handle :=
  { state := .filling, isOpen := true, closed := true, expected := [3], lo := 0, hi := len,
    slices := [{ gang := 3, gindex := 0, level := 2, glob := glob, len := len, spoff := 0, op := 0 }] }
def copyOf (h : Handle) (upto : Nat) : Mover × Nat :=
  Mover.copyWords 2 h ((min (h.hi - h.lo) upto - h.moved) / 8) h.moved { st := handled h }
theorem test_copy_rounds : ((handled inRound).team 2).life = .resident ∧ (((handled inRound).team 2).handle 63).closed = false ∧
    (copyOf (closedRound 0 16) 16).1.stop = none ∧ (copyOf (closedRound 0 16) 16).2 = 16 ∧ (copyOf (closedRound 0 16) 8).2 = 8 ∧
    (match (copyOf (closedRound (65536 * 4) 16) 16).1.stop with
      | some (.fail _ _) => true
      | _ => false) = true := by decide +kernel
/-- HandleWords: each state of a handle, with and without an error. -/
theorem test_handles : ∀ st ∈ [HandleState.free, .filling, .full, .draining], ∀ e ∈ [true, false],
    (((handled { state := st, err := e }).team 2).handle 63).state = st ∧ (((handled { state := st, err := e }).team 2).handle 63).err = e ∧
    (handled { state := st, err := e }).g.wait = .none := by decide +kernel

/-- ChainAppend: an empty block and card in page 0, a tail that stands at 256, a poisoned block, and a partition without a ladle. -/
def chained (m : Memory) : State := { (t0.setG ((t0.g.setS 4 { val := 64 }).setS 5 { val := 128 })) with mem := m }
def afterCards (s : State) : Option (State × TlbEntry × TlbEntry) := match s.check1 .atomic 64 64, s.check1 .write 128 128 with
  | .ok eb, .ok ec => match s.ownR eb 64 with
    | .ok s1 => match s1.ownR ec 128 with
      | .ok s2 => some (s2, eb, ec)
      | .error _ => none
    | .error _ => none
  | _, _ => none
theorem test_chapp : (chained {}).canGet 4 ∧ (chained {}).canGet 5 ∧ (chained {}).acksPending = false ∧ (chained {}).hasLadle 1 = true ∧
    (∀ a ∈ [64, 128, 256], (chained {}).bankHeld 3 a 64 = false) ∧
    (∀ m ∈ [({} : Memory), { cells := [(73, 1)] }, { poison := [8] }], (afterCards (chained m)).isSome = true) ∧
    ((afterCards (chained {})).map fun x => (x.1.mem.word 72, x.1.mem.poisoned 64 24)) = some (0, false) ∧
    ((afterCards (chained { cells := [(73, 1)] })).map fun x => (x.1.mem.word 72, (isOk (x.1.check1 .write 8 256), x.1.mem.poisoned 64 24))) =
      some (256, true, false) ∧
    ((afterCards (chained { poison := [8] })).map fun x => x.1.mem.poisoned 64 24) = some true ∧
    (t0.setPart 1 { t0.part 1 with ladles := [] }).hasLadle 1 = false :=
  ⟨⟨by decide +kernel, by decide +kernel⟩, ⟨by decide +kernel, by decide +kernel⟩, by decide +kernel⟩
/-- The head that a tail of 0 leaves: 0, so that the card becomes it, and a head that stands. -/
theorem test_chapp_head : (chained {}).mem.word 64 = 0 ∧ (chained { cells := [(65, 2)] }).mem.word 64 ≠ 0 ∧
    (chained { cells := [(65, 2)] }).mem.word 72 = 0 := by decide +kernel
/-- SequenceWords: NEXT is 2 and DONE 1; job 1 failed, or none. -/
def sequenced (failed n : Word) : State :=
  { (t0.setG ((t0.g.setS 4 { val := 64 }).setS 5 { val := n })) with
    mem := { cells := [(80, 2), (88, 1)] ++ if failed = 0 then [] else [(96, failed.truncate 8)] } }
theorem test_seqw_checks : (match (sequenced 0 1).check1 .read 64 64 with
      | .ok e => isOk ((sequenced 0 1).settled .fence e 88 8) && !(sequenced 0 1).bankHeld 3 (e.phys 64) 64
      | .error _ => false) = true ∧
    (sequenced 0 1).mem.poisoned 64 40 = false ∧ isOk ((sequenced 1 1).check1 .read 64 64) = true ∧
    (sequenced 1 1).mem.poisoned 64 40 = false := by decide +kernel
theorem test_seqw_words : (sequenced 0 1).mem.word 80 = 2 ∧ (sequenced 0 1).mem.word 88 = 1 ∧ (sequenced 0 1).mem.word 96 = 0 ∧
    (sequenced 1 1).mem.word 96 = 1 := by decide +kernel
theorem test_seqw_operands : gets (sequenced 0 1) 4 = true ∧ gets (sequenced 0 1) 5 = true ∧ ((sequenced 0 3).g.sreg 5).val = 3 := by decide +kernel
theorem test_seqw_owner : (match (sequenced 0 1).check1 .read 64 64 with
    | .ok e => isOk (((sequenced 0 1).useTlb [e]).ownR e 64)
    | .error _ => false) = true := by decide +kernel

/-- StreamWords: a descriptor with a reserved bit set, and a sound one with FIN. -/
theorem test_stdef : BlockRead (withBytes [(7, 0x80)]) (blockState (withBytes [(7, 0x80)]) 0 8) 0 8 (blockWords (withBytes [(7, 0x80)]) 0 8) ∧
    bits (blockWords (withBytes [(7, 0x80)]) 0 8 0) 63 58 ≠ 0 ∧
    BlockRead (withBytes [(56, 1)]) (blockState (withBytes [(56, 1)]) 0 8) 0 8 (blockWords (withBytes [(56, 1)]) 0 8) ∧
    bits (blockWords (withBytes [(56, 1)]) 0 8 0) 63 58 = 0 ∧ (blockWords (withBytes [(56, 1)]) 0 8 7) = 1 ∧
    isOk (t0.check1 .write 64 0) = true :=
  ⟨block_of (by decide +kernel), by decide +kernel, block_of (by decide +kernel), by decide +kernel, by decide +kernel, by decide +kernel⟩
/-- ResidencyWords: a register of a free page, a clash, an entry of the context, and one that moves. -/
def entry0 (moving : Bool) : ResEntry :=
  { ctx := 64, base := 2 ^ 30, len := 2 ^ 30, prio := 3, order := 0, moving := moving }
/-- Tables that map the second gigabyte to itself, and a window of two. -/
def gigabyte : State :=
  { (tc fun c => { c with ptbase := 0x800 }) with
    mem := { cells := [(0x800, 1), (0x801, 0x10), (0x1000, 1), (0x1001, 0x20), (0x2008, 0x7F), (0x200B, 0x40)] },
    dev := { t0.dev with windows := [{ base := 2 ^ 44, size := 2 ^ 31, ports := [0], tag := 1 }] } }
def resident (e : ResEntry) : State :=
  { gigabyte.setPart 1 { t0.part 1 with resid := [(511, e)] } with ops := [op0 (.demote 511 1) []], nextOp := 1 }
theorem test_resid : bits (0x10000 : Word) 61 43 = 0 ∧ firstFree (t0.part 1).resid 0 512 = some 0 ∧
    (∀ k, k < 4 → bits (BitVec.ofNat 64 (k * 2 ^ 62)) 63 62 = k) ∧ ((resident (entry0 false)).part 1).resid = [(511, entry0 false)] ∧
    ((resident (entry0 true)).part 1).resid = [(511, entry0 true)] ∧ (entry0 true).ctx = t0.g.ctx ∧
    2 ^ 30 < (entry0 true).base + (entry0 true).len ∧ (entry0 true).base < 2 ^ 30 + 65536 := by decide +kernel
theorem plan_of_move {s : State} {tag idx tier : Nat} {e : ResEntry} (h : (s.moveTensor tag idx tier).isSome = true)
    (he : tget? (s.part tag).resid idx = some e) : (s.tierPlan e tier).isSome = true := by
  unfold State.moveTensor at h
  rw [he] at h
  cases q : s.tierPlan e tier with
  | none => simp [q] at h
  | some l => rfl
theorem test_move : ((resident (entry0 false)).moveTensor 1 511 1).isSome = true := by
  unfold State.moveTensor State.tierPlan State.inUseBy State.outside State.leafPages
  simp only [mapped_fast, leaves_fast]
  decide +kernel
theorem test_outside : (resident (entry0 false)).outside (entry0 false) 1 = [(2 ^ 30, 2 ^ 30)] ∧
    (resident (entry0 false)).outside (entry0 false) 0 = [] := by
  unfold State.outside State.leafPages
  simp only [leaves_fast]
  decide +kernel
theorem test_demote : ((resident (entry0 false)).tierPlan (entry0 false) 1).isSome = true ∧ (511 : Word).toNat < 512 ∧ (t0.ctx 64).featmask.getLsbD 5 = true ∧ (resident (entry0 false)).hasLadle 1 = true ∧
    ((resident (entry0 false)).part 1).resid = [(511, entry0 false)] ∧ (((resident (entry0 false)).part 1).resOf 64 511).isSome = true ∧
    (resident (entry0 false)).op? 0 = some (op0 (.demote 511 1) []) ∧
    (resident (entry0 false)).acksPending = false ∧ (resident (entry0 false)).loadsPending = false := ⟨plan_of_move test_move (by decide +kernel), by decide +kernel⟩

/-- TableWords: an entry whose words are 0, one that is the fixed entry 0, an inconsistent one; and entries for FMTSEL. -/
def entryBytes (e : FtEntry) : List Host.Cell :=
  ((List.range 32).map fun i => (i, el 8 ([e.w0, e.w1, e.w2, e.w3].getD (i / 8) 0) (i % 8))).filter fun c => c.2 != 0
def entryOf (w : Nat → Word) : FtEntry := { w0 := w 0, w1 := w 1, w2 := w 2, w3 := w 3 }
theorem test_ftset : BlockRead t0 (blockState t0 0 4) 0 4 (blockWords t0 0 4) ∧
    (let s := withBytes (entryBytes ((t0.ctx 64).entry 4));
      BlockRead s (blockState s 0 4) 0 4 (blockWords s 0 4) ∧ (entryOf (blockWords s 0 4)).consistent = true) ∧
    (let s := withBytes [(0, 0xFF)];
      BlockRead s (blockState s 0 4) 0 4 (blockWords s 0 4) ∧ (entryOf (blockWords s 0 4)).consistent = false) :=
  ⟨block_of (by decide +kernel), ⟨block_of (by decide +kernel), by decide +kernel⟩, ⟨block_of (by decide +kernel), by decide +kernel⟩⟩
theorem test_fmtsel : ((t0.ctx 64).entry 2).usable = true ∧ ((t0.ctx 64).entry 2).fmt.kind ≠ 3 ∧ ((t0.ctx 64).entry 2).fmt.width = 16 ∧
    ((t0.ctx 64).entry 4).usable = true ∧ ((t0.ctx 64).entry 4).fmt.kind ≠ 3 ∧ ((t0.ctx 64).entry 4).fmt.width = 8 ∧
    ((t0.ctx 64).featmask.getLsbD 0 = true ∧ (t0.ctx 64).featmask.getLsbD 1 = true) := by decide +kernel
theorem test_lutld : (match t0.checkGlobal .read 1 true (imageChecks 0) with
    | .ok es => (es.zip (imageParts 0)).all fun x => !t0.loadHeld t0.cur x.1.shared (x.1.phys x.2.1) x.2.2
    | .error _ => false) = true := by decide +kernel
theorem test_lut_complete : (∀ bad ∈ [true, false], (flying (.lutld 1 {} bad 0) []).lutldReady (op0 (.lutld 1 {} bad 0) []) 1 = true ∧
      ready (flying (.lutld 1 {} bad 0) []) = true) ∧ ({} : Memory).wf = true ∧
    (let s : State := { flying (.lutld 1 {} false 0) [] with ops := [op0 (.sfu 5 none (Vector.replicate 32 0) (some 1)) []] };
      s.lutldReady (op0 (.lutld 1 {} false 0) []) 1 = false) ∧ t0.g.lutReports = [] := by decide +kernel

/-- Fences: loads under way; stores not acknowledged; a completion time to come; inbound writes at rest. -/
theorem test_fences : (flying (.load (.vec 5 1) 0 false) [acc0]).loadsPending = true ∧ (flying (.store false) [stored0]).loadsPending = false ∧
    (flying (.store false) [stored0]).acksPending = true ∧ t0.inbound = [] ∧ t0.g.redReports = [] ∧
    (tg fun g => { g with pend := some (t0.ns + 1), wait := .lease }).ns < t0.ns + 1 := by decide +kernel
/-- TranslationFences: at the context's level, and in a gang of user level. -/
theorem test_tlbi : 2 ≤ t0.g.level ∧ t0.canGet 4 ∧ (∀ m, m < 3 → ∀ sc, sc < 4 → t0.tlbiBusy m sc = false) ∧
    (tg fun g => { g with level := 0 }).g.level < 1 ∧ (tg fun g => { g with level := 1 }).g.level < 2 :=
  ⟨by decide +kernel, ⟨by decide +kernel, by decide +kernel⟩, by decide +kernel⟩

/-- TrapWord, TrapWaits and ReturnFromTrap: a context with a handler; a load in flight; a gang in its handler, its clause to be resumed at
position 1 or chosen anew. -/
def handling : State := tc fun c => { c with tvec := 0x1000 }
theorem test_can_trap : handling.canTrap ∧ handling.g.latch = none ∧ handling.cl.first < 32 ∧ handling.cl.addr < 2 ^ 56 ∧ handling.cl.next < 32 ∧
    handling.g.level < 4 := ⟨⟨⟨rfl, rfl⟩, by decide +kernel, by decide +kernel, by decide +kernel⟩, by decide +kernel⟩
theorem test_trap_waits : loading.drained 3 = false ∧ loading.g.latch = none ∧ loading.cur = 3 := by decide +kernel
def inHandler (pos : Nat) : State := tg fun g =>
  { g with level := 1, frame := { pos := BitVec.ofNat 64 pos, info := 0x80020001, act := 1, pcv := Vector.replicate 32 0 } }
theorem test_rte : (inHandler (31 * 2 ^ 56)).g.frame.info.getLsbD 31 = true ∧ (inHandler 0).drained 3 = true ∧ (inHandler 0).g.level = 1 ∧
    bits (inHandler (31 * 2 ^ 56)).g.frame.pos 60 56 = 31 ∧ bits (inHandler (2 ^ 56)).g.frame.pos 60 56 = 1 ∧
    (∀ l, l < 32 → inSet (1 : Lanes) l = (inSet (1 : Lanes) l && inSet t0.g.live l && ((0 : Nat) == 0))) ∧
    (tg fun g => { g with level := 0 }).g.level < 1 ∧ t0.g.frame.info.getLsbD 31 = false := by decide +kernel

/-- ControlRegisters: each row, at a level that may read it and, but at user level, one that may not; values each takes and, where it takes
not all, one that it does not. -/
theorem test_csr_rows : (∀ row ∈ csrRows, row.level ≤ t0.g.level ∧ 0 < row.count ∧ row.count ≤ 32) ∧ t0.sBusy 255 = false ∧
    (∀ row ∈ csrWriteRows, row.level ≤ t0.g.level) ∧ fits 1 0 3 ∧ ¬fits 1 0 4 ∧ fits 51 11 2048 ∧ ¬fits 51 11 1024 ∧ ¬fits 55 3 (2 ^ 56) :=
  ⟨by decide +kernel, by decide +kernel, by decide +kernel, ⟨by decide, by decide⟩, fun h => absurd h.2 (by decide), ⟨by decide, by decide⟩,
    fun h => absurd h.1 (by decide), fun h => absurd h.2 (by decide)⟩
theorem test_csr_framed : (inHandler 0).g.frame.info.getLsbD 31 = true ∧ t0.g.frame.info.getLsbD 31 = false ∧
    (∀ row ∈ csrWriteRows, 0xFF ≠ row.num) := by decide +kernel

/-- PowerWords: the feature bits, a record for EMBER that may restart, one that may not, and a full table. -/
def emberable : State := withBytes [(0, 1), (3, 1), (4, 1), (24, 32), (36, 2), (37, 4)]
theorem test_ember : (t0.ctx 64).featmask.getLsbD 9 = true ∧ (t0.ctx 64).featmask.getLsbD 10 = true ∧
    BlockRead emberable (blockState emberable 0 8) 0 8 (blockWords emberable 0 8) ∧
    (emberable.ctx 64).refusal (recordOf (blockWords emberable 0 8)) false false false = 0 ∧
    (recordOf (blockWords emberable 0 8)).restart = true ∧ (recordOf (blockWords recorded 0 8)).restart = false ∧
    firstFree (t0.ctx 64).embers 0 8 = some 0 :=
  ⟨by decide +kernel, by decide +kernel, block_of (by decide +kernel), by decide +kernel, by decide +kernel, by decide +kernel, by decide +kernel⟩
/-- EmberWork: a core over its need for a microsecond, and an ember team with nothing left to take. -/
def overfull : State := { (t0.setCore 0 { t0.core 0 with level := 1, overSince := some 0, underSince := some 0 }) with ns := 1000 }
def emberTeam : State := { (overfull.setTeam 2 { t0.team 2 with ember := true }) with ns := 1000 }
theorem test_ember_work : overfull.needNow 0 < (overfull.core 0).level ∧ (overfull.core 0).overSince = some 0 ∧ 0 + 1000 ≤ overfull.ns ∧ (t0.core 0).overSince = none ∧
    (emberTeam.team 2).ember = true ∧ (emberTeam.team 2).life = .resident ∧ (emberTeam.team 2).stopping = none ∧
    (emberTeam.core 0).candidate = false ∧ (emberTeam.core 0).underSince = some 0 ∧ emberTeam.crowds 2 = false ∧
    (t0.partOf (coreSlice 0)).isSome = true := by decide +kernel

/-! ### Issue, fetch and the dispatcher -/

/-- A gang between clauses, its lanes at 0, and the words there. -/
def between (bytes : List Byte) : State :=
  let s := tg fun g => { g with cl := none, pcv := Vector.replicate 32 0 }
  { (s.setCore 0 { s.core 0 with l0 := [{ line := 0, bytes := bytes }] }) with phase := .issue }
/-- ClauseIssue: a header without flags; one with a reserved bit; one whose WAIT names a busy flag 11; a prefetch queue word; a page
that cannot be fetched. -/
def plainHeader : State := between (bytesOfWords [0x000FF000, 0, 0x80000000] ++ List.replicate 52 0)
def noFetch : State := plainHeader.setCore 0 { plainHeader.core 0 with tlb := (plainHeader.core 0).tlb.map fun e => { e with x := false, x1 := false } }
theorem test_clause_issue : plainHeader.g.cl.isNone = true ∧ plainHeader.g.life = .resident ∧ plainHeader.g.live ≠ 0 ∧
    plainHeader.g.brokenGroup.isNone = true ∧ holdsWord plainHeader 0 0x000FF000 = true ∧ holdsWord plainHeader 4 0 = true ∧
    fld 0x000FF000 19 16 = 15 ∧ fld 0x000FF000 4 0 = 0 ∧ fld 0x000FF000 31 20 = 0 ∧ fld 0x800FF000 31 20 = 2 ^ 11 ∧ fld 0x000FF010 4 0 ≠ 0 ∧
    fld 0x000FF020 5 5 = 1 ∧ (∀ l, l < 32 → inSet plainHeader.g.live l = true) ∧
    (match noFetch.findWord 0 with
      | .fail _ => true
      | _ => false) = true := by decide +kernel
theorem test_clause_busy : (counting.g.flag 11).count ≠ 0 ∧ (2 ^ 11).testBit 11 = true := by decide +kernel

/-- GangSelect: a core with a gang ready for a slot, whose partition sets the cap; a core with none; and a cycle at its end. -/
def choosing (t : Turn) : State := { (tg fun g => { g with turn := t }) with phase := .select }
theorem test_gang_select : (∀ t ∈ [Turn.lane, .uniform], (choosing t).readyFor 0 t ≠ [] ∧ (choosing t).readyFor 383 t = [] ∧
    ∀ e ∈ (choosing t).readyFor 0 t, ((choosing t).part e.2.part).ageCap = 256) ∧ (choosing .uniform).readyFor 0 .lane = [] ∧
    (choosing .no).unpolled = [] ∧ (choosing .no).nextSelect = none ∧ (tget? t0.gangs t0.cur).isSome = true := by decide +kernel
/-- FetchSteps: a line requested by PFI, a poisoned one, a walk that succeeds and one that fails, on demand and not. -/
def fetching (r : FetchReq) (m : Memory) : State :=
  let s := (paged []).setCore 0 { t0.core 0 with freq := [r], tlb := [] }
  { (s.setG { t0.g with wait := .fetch (r.va * 64) }) with mem := { cells := s.mem.cells, poison := m.poison } }
def request (va : Nat) (d : Option Nat) (w : Bool) : FetchReq := { va := va, ctx := 64, level := 2, demand := d, walk := w, pa := va }
theorem test_fetch_lines : ((fetching (request 0 none false) {}).core 0).freq = [request 0 none false] ∧
    (fetching (request 0 none false) {}).mem.poisoned 0 64 = false ∧ (fetching (request 0 none false) { poison := [7] }).mem.poisoned 0 64 = true ∧
    ((fetching (request 0 none false) {}).cluster 0).ic = [] ∧ (fetching (request 0 none false) {}).lineReady (request 0 none false) = true := by
  decide +kernel
theorem test_fetch_walks : (match (fetching (request 1024 none true) {}).walkFor 0 64 65536 with
      | .ok e => (e.permit .fetch 2 65536).isNone
      | .error _ => false) = true ∧
    (match (fetching (request 8192 (some 3) true) {}).walkFor 0 64 524288 with
      | .ok _ => false
      | .error _ => true) = true ∧
    (fetching (request 8192 (some 3) true) {}).g.wait = .fetch 524288 ∧ (fetching (request 8192 (some 3) true) {}).runnable t0.g = true := by
  decide +kernel

/-- R165: after a walk the core's and its cluster's TLB hold the tables of the four lower levels, and another cluster's does not. -/
theorem test_held_levels : (match execFetchWalkResult 0 65536 (fetching (request 1024 none true) {}) with
    | .next t => (t.core 0).mid.map (·.level) == [0, 1, 2, 3] && (t.cluster 0).mid == (t.core 0).mid && t.midOf 4 == [] &&
        (t.core 0).mid.all fun e => e.covers 64 65536
    | _ => false) = true := by decide +kernel

/-- TeamPlacement: nothing to place; a grid with a team to place; a queued team; and a saved one. -/
def grid0 : Grid := { record := { teams := 1, threads := 33, spad := 256, ef := 0x0402 }, ctx := 64, part := 1, level := 1 }
def waitingGrid : State := { t0 with grids := [(1, grid0)], teams := [], gangs := [] }
def waitingTeam (l : TeamLife) : State :=
  { t0 with grids := [(1, { grid0 with nextTeam := 1 })], teams := [(2, { t0.team 2 with life := l, gangs := if l = .saved then [3] else [] })],
            gangs := if l = .saved then [(3, { t0.g with life := .saved })] else [] }
theorem test_team_placement : t0.placeable 1 = none ∧ (waitingGrid.placeable 1).isSome = true ∧ ((waitingTeam .queued).placeable 1).isSome = true ∧
    ((waitingTeam .saved).placeable 1).isSome = true ∧ ((waitingTeam .queued).team 2).gangs = [] ∧ ((waitingTeam .saved).team 2).life = .saved := by
  decide +kernel
theorem test_placement_sound : waitingGrid.Sound ∧ (waitingTeam .queued).Sound ∧ (waitingTeam .saved).Sound :=
  ⟨⟨by decide +kernel, by decide +kernel, by decide +kernel, by decide +kernel⟩, ⟨by decide +kernel, by decide +kernel, by decide +kernel,
    by decide +kernel⟩, ⟨by decide +kernel, by decide +kernel, by decide +kernel, by decide +kernel⟩⟩

/-- GangRetires: a gang without lanes, and one with them. -/
theorem test_gang_retires : (tg fun g => { g with live := 0 }).g.life = .resident ∧ (tg fun g => { g with live := 0 }).g.live = 0 ∧
    (tg fun g => { g with live := 0 }).ops = [] ∧ t0.g.live ≠ 0 := by decide +kernel
/-- WaitingTeams: a head that has waited for 100 µs on a core too full for it. -/
def heading : State :=
  { t0 with ns := 100000, parts := [(1, { ladles := [0] })],
            grids := [(1, (t0.grid 1)), (5, { grid0 with record := { grid0.record with spad := 393216 }, headSince := some 0, order := 1 })],
            dev := { t0.dev with fenced := (List.range 31).map fun i => unitWord 0 (i + 1) } }
theorem test_reservation : (heading.dispatchOrder 1).length = 1 ∧
    (∀ w ∈ heading.dispatchOrder 1, heading.headTime w = some 0 ∧ heading.fitting 1 w = []) ∧ 0 + 100000 ≤ heading.ns ∧
    (heading.part 1).reservation.isNone = true ∧ heading.openCores 1 ≠ [] := by decide +kernel
/-- SlabDeadlock: every gang of the core stalled on slabs for 2048 cycles; one team, and two. -/
def stalled (two : Bool) : State :=
  let s := (tg fun g => { g with wait := .slab }).setCore 0 { t0.core 0 with stuckSince := some 0 }
  { s with cyc := 2048, teams := s.teams ++ if two then [(7, { t0.team 2 with gangs := [], admitted := 1 })] else [] }
theorem test_slab_deadlock : ∀ two ∈ [true, false], (∀ e ∈ (stalled two).residents 0, e.2.wait = .slab ∧ e.2.turn = .fresh) ∧ ((stalled two).core 0).stuckSince = some 0 ∧
    0 + 2048 ≤ (stalled two).cyc ∧
    (stalled two).residents 0 ≠ [] ∧ ((stalled two).teams.filter fun e => e.2.life == .resident && e.2.core == 0).length = if two then 2 else 1 := by
  decide +kernel

/-- Preemption: no plan; a team that drains, at its barrier, past its deadline and before it; a team past the swap threshold at a barrier and
at a child; a slice that has run out, with nobody else to run. -/
def draining (by_ : Nat) (w : Wait) : State :=
  { (tt fun t => { t with drainBy := some by_ }).setG { t0.g with wait := w, waitSince := 0 } with ns := 100000 }
theorem test_drain : t0.preemptPlan 1 = none ∧ (draining 100001 (.bar 0 0)).allWait 2 Wait.atBarrier 100000 = true ∧
    (draining 100000 .none).allWait 2 Wait.atBarrier 100000 = false ∧ (draining 100001 .none).allWait 2 Wait.atBarrier 100000 = false ∧
    (draining 0 .none).ns = 100000 ∧ ((draining 0 .none).team 2).stopping = none ∧ ((draining 0 .none).team 2).life = .resident := by decide +kernel
theorem test_swap : ((t0.ctx 64).swapthr) * 1000 = 50000 ∧ (draining 0 (.bar 0 0)).allWait 2 Wait.atBarrier 50000 = true ∧
    (draining 0 (.waitch 1)).allWait 2 Wait.atBarrier 50000 = false ∧ (draining 0 (.waitch 1)).allWait 2 Wait.atChild 50000 = true ∧
    (draining 0 .none).allWait 2 Wait.atChild 50000 = false := by decide +kernel
def sliced : State := { (tc fun c => { c with tslice := 1 }).setCore 0 { t0.core 0 with slices := [(64, { since := some 0 })] } with ns := 1000 }
/-- A head of the team's context that may pre-empt; and one of another context that would fit if the slice's teams left. -/
def preempting (ck : Nat) : State :=
  let r : LaunchRec := { grid0.record with spad := 393216, lambda := 1000000, queue := 7 }
  { heading with grids := [(1, t0.grid 1), (5, { grid0 with record := r, ctx := ck, headSince := some 0, order := 1 })],
                 ctxs := tput heading.ctxs 65 { num := 1, part := 1 } }
theorem test_preempt : (match (preempting 64).preemptPlan 1 with
      | some (w, c, ts) => ts == [2] && c == 0 && !ts.contains w.ident
      | none => false) = true ∧ ((preempting 64).team 2).life = .resident ∧ ((preempting 64).team 2).stopping = none ∧
    ((preempting 65).dispatchOrder 1).any (fun w => (preempting 65).waitingCtx w != 64 && (preempting 65).mayReserve w &&
      ((preempting 65).asIfSaved ((preempting 65).ctxTeams 0 64)).fits 0 w.key? ((preempting 65).waitingRec w)) = true := by decide +kernel
theorem test_slice : tget? (sliced.core 0).slices 64 = some { since := some 0 } ∧ (sliced.ctx 64).tslice = 1 ∧ sliced.ctxTeams 0 64 ≠ [] ∧
    1 * 1000 ≤ ({ since := some 0 } : SliceClock).now sliced.ns ∧
    sliced.dispatchOrder 1 = [] := by decide +kernel

/-- Page 0 mapped by tables that stand in page 16, in a partition of two slices whose stack 0 is warm. -/
def hot : State :=
  { (tc fun c => { c with ptbase := 0x100800 }) with
    mem := { cells := [(0x100800, 1), (0x100801, 0x10), (0x100802, 0x10), (0x101000, 1), (0x101001, 0x20), (0x101002, 0x10), (0x102000, 1),
      (0x102001, 0x30), (0x102002, 0x10), (0x103000, 1), (0x103001, 0x40), (0x103002, 0x10), (0x104000, 0x7F)] },
    parts := [(1, { size := 2, ladles := [0] })], dev := { t0.dev with therm := { warm := (Vector.replicate 12 false).set 0 true } } }
def hotTables : List (Nat × Nat) := [(0x100800, 2048), (0x101000, 4096), (0x102000, 4096), (0x103000, 4096), (0x104000, 256), (0, 65536)]
theorem hot_used : hot.inUseBy 1 = hotTables := by
  unfold State.inUseBy
  simp only [mapped_fast]
  decide +kernel
theorem hot_pages : hot.leafPages 1 = [(0, 65536)] := by
  unfold State.leafPages
  simp only [leaves_fast]
  decide +kernel
theorem hot_entries : ((hot.ctxsOf 1).flatMap fun e => hot.entriesUnder 4 e.2.root) =
    [(0x100800, 0x101001), (0x101000, 0x102001), (0x102000, 0x103001), (0x103000, 0x104001), (0x104000, 0x7F)] := by
  simp only [entries_fast]
  decide +kernel
theorem find_first {p : Nat → Bool} {f : Nat → Nat} (h : p (f 0) = true) (n : Nat) : ((List.range (n + 1)).map f).find? p = some (f 0) := by
  rw [List.range_succ_eq_map, List.map_cons, List.find?_cons_of_pos h]
theorem hot_place : hot.placePages 1 (stackSpaces 1) (fun _ => true) [(0, 65536)] (hot.inUseBy 1) = some [((0, 65536), 2 ^ 36)] := by
  have q : (stackSpaces 1 65536).find? (fun a => hot.spaceFree 1 hotTables a 65536 && true && true) = some (2 ^ 36) :=
    find_first (p := fun a => hot.spaceFree 1 hotTables a 65536 && true && true) (f := fun k => 1 * 2 ^ 36 + k * 65536) (by decide +kernel) 1048575
  rw [hot_used]
  simp only [State.placePages, q, Option.map_some]
theorem hot_coolest : hot.coolest 1 0 65536 = some 1 := by
  have q : (hot.part 1).slices = [0, 1] := by decide +kernel
  unfold State.coolest
  rw [q]
  dsimp only
  rw [List.filter_cons_of_neg (by simp), List.filter_cons_of_pos (by rw [hot_place]; decide +kernel), List.filter_nil]
  rfl
/-! ### Ladles, accesses from outside and the load -/

/-- LadleJobs: a chain with no card, with one card, and with two; the cards are all zeros and so invalid, or COPY of 8 bytes. -/
def chainState (l : List Host.Cell) : State := { paged l with chains := [(9, { ctx := 64, addr := 0x4040 })] }
def oneCard : State := chainState [(0x4041, 0x48), (0x4049, 0x48)]
def twoCards : State := chainState [(0x4041, 0x48), (0x4049, 0x49), (0x4801, 0x49)]
def job0 : Job := { id := 7, ctx := 64, chain := 9, card := 0x4800, seq := 1, level := 2 }
def chain0 : Chain := { ctx := 64, addr := 0x4040 }
theorem test_chain_blocks : ([oneCard, twoCards].all fun s => s.waitingCard 1 chain0 && s.ladleFree 1 0 && !s.blockBad chain0 &&
      (match s.blockLook chain0 with
        | some (e, s1) => e.phys 0x4040 == 0x4040 && (s1.readCard job0).1.stop.isNone
        | none => false) && s.chains.all fun x => decide (s.chainPrio x.2 ≤ s.chainPrio chain0)) = true ∧
    (chainState []).waitingCard 1 chain0 = false ∧ oneCard.mem.word 0x4040 = oneCard.mem.word 0x4048 ∧
    twoCards.mem.word 0x4040 ≠ twoCards.mem.word 0x4048 ∧ oneCard.mem.wf = true ∧ twoCards.mem.wf = true := by decide +kernel
/-- A chain whose block is poisoned, and the card that waits on it. -/
def spoiled : State := { oneCard with
  mem := { oneCard.mem with poison := [0x4040 / 8] }, chains := [(9, { chain0 with cards := [{ card := 0x4800, seq := 1 }] })] }
theorem test_chain_poisoned : spoiled.waitingCard 1 { chain0 with cards := [{ card := 0x4800, seq := 1 }] } = true ∧ spoiled.ladleFree 1 0 = true ∧
    spoiled.blockBad chain0 = true ∧ (spoiled.blockLook chain0).isSome = true := by decide +kernel
/-- A job that waits for another, or not; one that copies a word, one whose source is not mapped, and an invalid one. -/
def copyJob (src : Nat) (bad : Option Nat) : Job :=
  { job0 with kind := 1, reads := [⟨src, 8⟩], writes := [⟨0x20000, 8⟩], deps := [6], invalid := bad }
def jobState (j : Job) (dep : Option Nat) : State := { paged [] with jobs := [{ job0 with id := 6, status := dep }, j] }
theorem test_jobs : (∀ d ∈ [none, some 0, some 3], ((jobState (copyJob 0x10000 none) d).jobs.find? fun j => j.id == 7 && j.status.isNone && !j.back) =
      some (copyJob 0x10000 none) ∧ ((jobState (copyJob 0x10000 none) d).depsOf (copyJob 0x10000 none)) =
      [{ job0 with id := 6, status := d }]) ∧ (jobState (copyJob 0x10000 none) (some 0)).depsDone (copyJob 0x10000 none) = true ∧ t0.isFenced 2 0 = false ∧ job0.comp ≤ t0.ns := by decide +kernel
def acts (src : Nat) : Mover × Nat :=
  Mover.act (copyJob src none) {} (min 1 (copyJob src none).total) 0 { st := jobState (copyJob src none) (some 0) }
theorem test_job_acts : (acts 0x10000).1.stop.isNone = true ∧ (acts 0x10000).2 = (copyJob 0x10000 none).total ∧
    (match (acts 0x40000).1.stop with
      | some (.fail _ _) => true
      | _ => false) = true ∧ (copyJob 0x10000 (some 5)).invalid = some 5 := by decide +kernel
theorem test_job_copies : (match (paged []).ladleLook 64 2 0x10000 .read, (paged []).ladleLook 64 2 0x20000 .write with
      | .ok er, .ok ew => !(paged []).mem.poisoned (er.phys 0x10000) 8 && ew.phys 0x20000 == 0x20000 &&
        ((paged []).newOwner ((paged []).ctx 64).num 1 er.shared).isNone && ((paged []).newOwner ((paged []).ctx 64).num 2 ew.shared).isNone
      | _, _ => false) = true := by decide +kernel
theorem test_job_status : 0x4800 % 8 = 0 ∧ (match (paged []).ladleLook 64 2 (0x4800 + 0x18) .write with
      | .ok e => ((paged []).ownNow 64 e (0x4800 + 0x18)).isSome
      | .error _ => false) = true ∧ (tget? (paged []).chains 9).isNone = true ∧ (tget? oneCard.chains 9) = some chain0 ∧
    (match oneCard.ladleLook 64 2 (0x4800 + 0x18) .write with
      | .ok _ => ({ st := oneCard } : Mover).write 64 2 (0x4800 + 0x18) (bytesOfNat 4 1) |>.stop.isNone
      | .error _ => false) = true ∧ oneCard.blockWaits chain0 = false := by decide +kernel

/-- OutsideAccesses: a device with its number in stage 4 and a context bound to job 5; a PUT, a PUTRED, a GET and an ATOMIC that pass, one whose
address is not mapped, and a kind that no peer sends. -/
def outer : State := { paged [] with
  dev := { (paged []).dev with site := { device := 1 }, stage := 4 }, ctxs := [(64, { (paged []).ctx 64 with job := some 5 })] }
def peerJobs : List PeerJob := [{ job := 5, kind := 8, addr := 0x10000, data := List.replicate 8 1 }, { job := 5, kind := 0x0A, addr := 0x10004, len := 12 },
  { job := 5, kind := 9, fmt := (paged []).ctx 64 |>.entry 1, addr := 0x10000, data := List.replicate 8 1 }, { job := 5, kind := 0x0B, addr := 0x10000, data := List.replicate 8 1 },
  { job := 5, kind := 0x0B, op := 7, addr := 0x10000, data := List.replicate 16 1 }]
def peerLook (p : PeerJob) : Except Nat (List Item) :=
  let f := p.fmt
  outer.outsideItems 64 1 (peerCut p f).2 (peerCut p f).1 fun a => (p.data.drop (a - p.addr)).take (if p.kind = 9 then f.fmt.width / 8 else 8 - a % 8)
theorem test_peers : outer.boundCtx 0 5 = some 64 ∧ outer.portOpens 0 = true ∧ outer.portOpens 1 = false ∧ (∀ p ∈ peerJobs, peerOk p p.fmt = true ∧ (peerLook p).toOption.isSome = true) ∧
    peerOk { job := 5, kind := 1 } {} = false ∧ (peerLook { job := 5, kind := 8, addr := 0x40000, data := [1] }).toOption.isNone = true ∧
    (∀ e ∈ outer.ctxs, e.2.job ≠ some 6) ∧ t0.dev.site.device = 0xFFFFF ∧ 4 ≤ outer.dev.stage ∧ outer.mem.wf = true := by decide +kernel
def inbound0 (performed : Bool) (comp : Nat) (sess : Option Nat) : State :=
  { outer with inbound := [{ id := 0, ctx := 64, part := 1, sess := sess, performed := performed, comp := comp,
                             items := [{ pa := 0x10000, va := 0x10000, pieces := piecesOfBytes 0x10000 (List.replicate 8 7) }] }] }
theorem test_inbound : (∀ e ∈ (inbound0 false 0 (some 1)).inbound, (inbound0 false 0 (some 1)).inboundReady e = true ∧ e.peer.isNone = true) ∧
    (let s : State := { inbound0 false 0 (some 1) with inbound := (inbound0 false 0 (some 1)).inbound ++
        [{ id := 1, ctx := 64, part := 1, sess := some 1 }] };
      s.inbound.any fun e => e.id == 1 && !s.inboundReady e) = true ∧ 0 ≤ (inbound0 true 0 none).ns ∧ (inbound0 true 1 none).ns < 1 := by decide +kernel

/-- BellowsStep: a rail that is steady at its boundary; one whose core has a level to lower, and one whose core's clause pre-charges. -/
def atStep (level : Nat) (charged : Option Nat) : State :=
  { ((tg fun g => { g with drawNow := 1, chargedAt := charged }).setCore 0 { t0.core 0 with level := level }) with ns := 3 }
theorem test_bellows : (∀ x ∈ [atStep 0 none, atStep 1 none, atStep 3 (some 0)], (x.rail 0).step + 1 = x.stepNow) ∧
    (atStep 0 none).railSteady 0 = true ∧ (atStep 1 none).railSteady 0 = false ∧ (atStep 3 (some 0)).railSteady 0 = false ∧
    (atStep 1 none).need 1 0 = 0 ∧ (atStep 3 (some 0)).need 1 0 = 4 ∧ t0.stepNow ≤ (t0.rail 0).step := by decide +kernel
theorem test_bellows_bounds : (let s := atStep 3 (some 0); ((railCores 0).map fun k => s.need 1 k - (s.core k).level).sum ≤ s.dev.rise ∧
      s.railSum 0 + ((railCores 0).map fun k => s.need 1 k - (s.core k).level).sum ≤ s.ceiling 0) ∧
    (let s := atStep 1 none; ((railCores 0).map fun k => (s.core k).level - s.need 1 k).sum ≤ s.dev.fall ∧
      (s.rail 0).floor + ((railCores 0).map fun k => (s.core k).level - s.need 1 k).sum ≤ s.railSum 0) := by decide +kernel
/-- The core of a clause that pre-charges is raised at the boundary after the step in which its first group issued (R410, R416). -/
theorem test_bellows_charge : (match exec (.bellowsStep 0) (atStep 3 (some 0)) with
    | .next u => (u.core 0).level
    | _ => 0) = 4 := by decide +kernel
/-- PowerWindow: an interval that has ended, a window that has with a sample in it, and a rail of known unit power. -/
theorem test_power : ({ t0 with ns := 10000 } : State).dev.sampleAt < 10000 / 10000 ∧ t0.ns / 10000 ≤ t0.dev.sampleAt ∧
    t0.dev.windowAt < 1000000 / 1000000 ∧ t0.ptp / 1000000 ≤ t0.dev.windowAt ∧ t0.dev.samples = 0 ∧ ({ t0.dev with samples := 1 } : Device).samples = 1 ∧
    (tget? t0.parts 1).isSome = true ∧ (tget? t0.parts 2).isNone = true := by decide +kernel
theorem test_unit_power : ([5000].getD 0 0 : Nat) ≠ 0 ∧ (100 : Nat) ≠ 0 ∧ t0.dev.site.milliWattsPerUnit.getD 11 0 = 0 := by decide +kernel

/-- ClocksAndPipes and Temperature: an interval that ends; requests within two levels; a stretched cluster at and before the end of recovery;
stacks at 110 °C and below; and a hot page. -/
theorem test_coal : ((List.range 8).map t0.clusterRequest).sum ≤ 2 ∧ 10000 / 10000 = (t0.rail 0).coalAt + 1 ∧ t0.ns / 10000 ≤ (t0.rail 0).coalAt ∧
    (t0.cluster 0).stretched = none ∧ (({ t0.cluster 0 with stretched := some 0 } : Cluster)).stretched.isSome = true ∧
    0 + 32 ≤ ({ t0 with cyc := 32 } : State).cyc ∧
    ({ t0 with cyc := 31 } : State).cyc < 0 + 32 ∧ (∃ t ∈ [109, 110], 110 ≤ t) ∧ (∀ t ∈ [109], t < 110) ∧
    t0.dev.therm.warm.toList.getD 0 false = false ∧ t0.partOf 11 = none := by decide +kernel
theorem test_hot_page : tget? hot.dev.hotAt 0 = none ∧ (hot.partOf 0).isSome = true ∧ hot.dev.therm.warm.toList.getD 0 false = true ∧ 0 * 65536 / 2 ^ 36 = 0 ∧
    pageAt (hot.leafPages 1) (0 * 65536) = some (0, 65536) ∧ hot.tensorAt 1 (hot.leafPages 1) (0, 65536) = none ∧ hot.mem.wf = true ∧
    hot.pageBusy (0, 65536) = false ∧ (0 : Nat) + 65536 ≤ 2 ^ 36 ∧ 2 ^ 36 + 65536 ≤ 2 ^ 44 := by
  rw [hot_pages]
  decide +kernel
/-- Its tables stand outside the page and outside the place it goes to, and one of their entries names the page. -/
theorem test_hot_tables : (∀ e ∈ (hot.ctxsOf 1).flatMap fun e => hot.entriesUnder 4 e.2.root,
      (e.1 + 8 ≤ 0 ∨ 0 + 65536 ≤ e.1) ∧ (e.1 + 8 ≤ 2 ^ 36 ∨ 2 ^ 36 + 65536 ≤ e.1)) ∧
    ∃ e ∈ (hot.ctxsOf 1).flatMap fun e => hot.entriesUnder 4 e.2.root, 0 ≤ entryAddr e.2 ∧ entryAddr e.2 < 0 + 65536 := by
  rw [hot_entries]
  decide +kernel

/-- SharesAndShortage, EnergyAndScrub, HallmarkRecords: shares of 100 percent, of 101, and of a stack outside the partition; a tensor to demote, at rest and in an access; slots held by no context, by
one and by two; a scrub of poisoned words; a collector. -/
theorem test_shares : (((([(1, 60), (2, 40)] : List (Nat × Nat)).foldl (fun t e => tput t e.1 e.2) ([] : Tbl Nat)).map (·.2)).sum ≤ 100) ∧
    ¬((((([(1, 61), (2, 40)] : List (Nat × Nat)).foldl (fun t e => tput t e.1 e.2) ([] : Tbl Nat)).map (·.2)).sum ≤ 100)) ∧
    (t0.part 1).owns 0 = true ∧ (t0.part 1).owns 1 = false ∧ (tget? t0.parts 1).isSome = true ∧
    ((resident (entry0 false)).part 1).resid.Nodup ∧ 0 < (entry0 false).len ∧ t0.dev.hallNext ≤ 1000000 ∧ t0.ptp < t0.dev.hallNext ∧ (t0.parts.map (·.1)).Nodup ∧
    (∀ y ∈ ((resident (entry0 false)).part 1).resid, y = (511, entry0 false)) := by decide +kernel
def accessed : State := { resident (entry0 false) with ops := [op0 (.store false) [{ va := 2 ^ 30, pa := 2 ^ 30 }]] }
theorem test_move_waits : (accessed.tierPlan (entry0 false) 1).isSome = true ∧ (accessed.moveTensor 1 511 1).isNone = true := by
  unfold State.moveTensor State.tierPlan State.inUseBy State.outside State.leafPages
  simp only [mapped_fast, leaves_fast]
  decide +kernel
theorem test_move_bytes : ((resident (entry0 false)).tierPlan (entry0 false) 1).map (fun q => (q.map fun e => e.1.2).sum) = some (2 ^ 30) := by
  unfold State.tierPlan State.inUseBy State.outside State.leafPages
  simp only [mapped_fast, leaves_fast]
  decide +kernel
theorem test_energy : t0.slotCycles 1 = [] ∧ ({ t0 with cyc := 9 } : State).slotCycles 0 = [(64, 9)] ∧
    (let s : State := { t0 with cyc := 9 }; (s.setCluster 0 { s.cluster 0 with occ := [(65, 4)] }).slotCycles 0 = [(64, 9), (65, 4)]) ∧
    max (t0.cluster 0).acctAt (t0.dev.stage0At / 100000) < 100000 / 100000 ∧ t0.ns / 100000 ≤ (t0.cluster 0).acctAt ∧
    tget? t0.ctxs 64 ≠ none ∧ tget? t0.ctxs 65 = none ∧ tget? (t0.setCtx 65 { num := 1, part := 1 }).ctxs 65 ≠ none ∧
    (Device.site { t0.dev with site := { collector := some 3 } }).collector = some 3 := by decide +kernel

/-! ### Bring-up, fences and the endpoint -/

/-- BringUp, CoolantAndTime: each stage, a sound image and an unsound one, a layout and a bad one, and coolant lost for two seconds. -/
theorem test_bring_up : State.reset.dev.stage = 0 ∧ State.reset.dev.coolantBad = false ∧ State.reset.dev.coolantHold = false ∧
    State.reset.dev.fw.retryAt ≤ State.reset.ns ∧ State.reset.dev.fw.fusedCounter ≤ 0 ∧
    (0 : Nat) = State.reset.dev.fw.fusedKey ∧ (1 : Nat) ≠ State.reset.dev.fw.fusedKey ∧
    (∀ n, n < 4 → ∀ b, ({ State.reset.dev with stage := n, fw := { sound := b } } : Device).stage = n ∧
      ({ State.reset.dev with stage := n, fw := { sound := b } } : Device).fw.sound = b) ∧ (6 : Nat) ∈ [1, 2, 3, 4, 6, 12] ∧ 6 % 6 = 0 ∧ 6 + 6 ≤ 12 ∧
    unitWord 0 (32 * 6) ∉ State.reset.dev.fenced ∧ (5 : Nat) ∉ [1, 2, 3, 4, 6, 12] := by decide +kernel
theorem test_coolant : (let s : State := { State.reset with ns := 2000000000, dev := { State.reset.dev with stage := 1, coolantBad := true } };
    0 < s.dev.stage ∧ s.dev.coolantBad = true ∧ s.dev.coolantSince + 2000000000 ≤ s.ns) ∧ State.reset.dev.everLocked = false := by decide +kernel

/-- FenceAndReforge, ContextMovement: units of no partition and of one; a link behind a window; a reforge to tick, one that has, and one whose teams
have still to leave; a context to stop, still and not; images to restore. -/
def reforging (ticked : Bool) : State :=
  t0.setPart 1 { t0.part 1 with reforge := some { size := 1, first := 0, fenceUnit := some (unitWord 0 31), sess := some 1, ticked := ticked } }
def queued : State := (reforging true).setPart 1 { (reforging true).part 1 with fenceQueue := [unitWord 0 0] }
theorem test_fences_units : unitOk (unitWord 0 0) = true ∧ unitWord 0 0 ∉ t0.dev.fenced ∧ t0.unitParts (unitWord 0 0) = [1] ∧
    t0.unitParts (unitWord 0 383) = [] ∧ t0.inUnit (unitWord 4 0) 5 = true ∧ unitOk (unitWord 4 0) = true ∧ unitWord 4 0 ∉ t0.dev.fenced ∧
    (paged []).dev.windows.all (fun w => w.base % 4096 == 0 && w.ports == [0] && decide (0 < w.size / 4096)) = true ∧ unitOk (unitWord 0 383) = true ∧ unitOk (unitWord 0 384) = false ∧ (t0.part 1).reforge = none ∧
    3 ≤ t0.dev.stage ∧ unitWord 5 3 ∉ t0.dev.fenced ∧ State.reset.dev.stage < 3 := by decide +kernel
theorem test_reforge : ((reforging true).part 1).reforge.isSome = true ∧ ((reforging true).part 1).fenceQueue = [] ∧
    (queued.part 1).fenceQueue = [unitWord 0 0] ∧ (queued.part 1).reforge.isSome = true ∧ unitWord 0 31 ≠ unitWord 0 0 ∧
    (let r : ReforgeState := { size := 1, first := 0, fenceUnit := some (unitWord 0 31), sess := some 1 };
      (reforging false).quiesced 1 r [] = true ∧ (reforging false).quiesced 1 { r with fenceUnit := some (unitWord 0 0) } [] = false) := by decide +kernel
def stillCtx : State := { t0 with teams := [], gangs := [], grids := [] }
theorem test_context_stop : (tget? t0.ctxs 64).isSome = true ∧ (t0.ctx 64).deleting = false ∧ tget? t0.ctxs 65 = none ∧ t0.ctxStill 64 = false ∧
    stillCtx.ctxStill 64 = true ∧ (t0.team 2).life = .resident ∧ (t0.team 2).stopping.isNone = true := by decide +kernel
def saved0 (f : Word) : State :=
  { t0 with images := [(0, { feature := f, ctx := { num := 63 }, grids := [(1, t0.grid 1)], teams := [(2, t0.team 2)], gangs := [(3, t0.g)] })] }
theorem test_restore : (tget? (saved0 0x011A000000003FFF).images 0).isSome = true ∧ (tget? (saved0 0x011A000000003FFF).parts 1).isSome = true ∧
    (saved0 0x011A000000003FFF).dev.stage = 4 ∧ ((saved0 0x011A000000003FFF).part 1).stopped = false ∧
    tget? (saved0 0x011A000000003FFF).ctxs (ctxKey 1 63) = none ∧ (0 : Word) ≠ 0x011A000000003FFF ∧ tget? t0.images 0 = none := by decide +kernel

/-- Sessions: ports that answer and that do not; each command on an open session, in each way it can be turned away; HELLO for each role. -/
def talking (role : Nat) (n : Nat) : State :=
  { outer with sessions := [(1, { src := 9, role := role, tag := 1, ctx := n })], dev := { outer.dev with site := { device := 1, allow := [9] } } }
def msg (op : Nat) (body : List Byte) : Msg := { sess := 1, src := 9, ver := 1, op := op, len := body.length, body := body }
theorem test_ports : (talking 0 0).portAnswers 0 = true ∧ (talking 0 0).portAnswers 1 = false ∧ outer.portOpens 0 = true ∧ outer.portOpens 1 = false ∧ (tget? (talking 0 0).sessions 1).isSome = true ∧
    (∀ row ∈ commandRows, ∀ r, r < 3 → row.stage ≤ (talking r 0).dev.stage) ∧ commandRows.any (fun row => 0 < row.stage) = true ∧
    (∀ row ∈ commandRows, row.roles ≠ []) := by decide +kernel
def helloBody (role tag n : Byte) : List Byte := [role, tag, n] ++ List.replicate 13 0
theorem test_hello : (tget? outer.sessions 1).isNone = true ∧ outer.portAnswers 0 = true ∧ (1 + 256) % 256 ≤ 1 ∧ 1 ≤ (1 + 256) / 256 ∧ ¬(1 ≤ 0x00FF / 256) ∧
    (helloBody 2 1 63).length = 16 ∧ fieldAt (helloBody 2 1 63) 0 1 = 2 ∧ fieldAt (helloBody 2 1 63) 3 5 = 0 ∧ fieldAt (helloBody 2 1 63) 2 1 = 63 ∧
    fieldAt (helloBody 0 0 0) 1 1 = 0 ∧ (9 : Nat) ∈ (talking 0 0).dev.site.allow ∧ (9 : Nat) ∉ outer.dev.site.allow ∧
    (tget? outer.parts 1).isSome = true ∧ (let s := outer.setCtx (ctxKey 1 63) { num := 63, part := 1 }; (tget? s.ctxs (ctxKey 1 63)).isSome = true) := by
  decide +kernel
/-- A command that reaches its effect or refusal, for each role that may send it. -/
theorem hears_of (role n op stage : Nat) (body : List Byte) (roles : List Nat) (h1 : role ∈ roles) (h2 : stage ≤ 4) (h3 : body.length ≤ 65600) :
    (talking role n).hears (msg op body) { src := 9, role := role, tag := 1, ctx := n } op roles stage :=
  ⟨by cases role <;> rfl, ⟨rfl, rfl⟩, rfl, h1, h2, ⟨rfl, rfl, rfl, h3, rfl⟩⟩
theorem test_hears : (talking 0 0).hears (msg 2 []) { src := 9, role := 0, tag := 1, ctx := 0 } 0x0002 [0, 1, 2] 0 ∧
    (talking 1 0).hears (msg 0x10 [12, 0]) { src := 9, role := 1, tag := 1, ctx := 0 } 0x0010 [1] 4 ∧
    (talking 2 63).hears (msg 0x22 (List.replicate 64 0)) { src := 9, role := 2, tag := 1, ctx := 63 } 0x0022 [1, 2] 4 :=
  ⟨hears_of 0 0 2 0 [] _ (by decide) (by decide) (by decide), hears_of 1 0 0x10 4 [12, 0] _ (by decide) (by decide) (by decide),
    hears_of 2 63 0x22 4 _ _ (by decide) (by decide) (by decide)⟩
/-- HEALTH of a unit, and parts of an image: at its end, one byte over, and of another total than before. -/
theorem test_health_image : unitOk (fieldAt (bytesOfNat 4 (unitWord 5 3)) 0 4) = true ∧
    (let b := bytesOfNat 8 1 ++ bytesOfNat 8 2 ++ [(7 : Byte)]; 17 ≤ b.length ∧ fieldAt b 0 8 + 1 ≤ fieldAt b 8 8) ∧
    (let b := bytesOfNat 8 2 ++ bytesOfNat 8 2 ++ [(7 : Byte)]; ¬(fieldAt b 0 8 + 1 ≤ fieldAt b 8 8)) ∧ outer.dev.fw.total.isNone = true := by decide +kernel

/-- HypervisorAndContext: REFORGE's requests, legal and not, one that meets another partition, and one while a reforge runs. -/
theorem test_reforge_cmd : ((1 : Nat) ∈ [1, 2, 3, 4, 6, 12] ∧ 0 % 1 = 0 ∧ 0 + 1 ≤ 12) ∧ ¬((5 : Nat) ∈ [1, 2, 3, 4, 6, 12]) ∧
    ((talking 1 0).part 1).reforge.isNone = true ∧ ((reforging false).part 1).reforge.isSome = true ∧
    (decide (0 < (t0.part 1).first + (t0.part 1).size) && decide ((t0.part 1).first < 0 + 1)) = true ∧
    (decide (1 < (t0.part 1).first + (t0.part 1).size) && decide ((t0.part 1).first < 1 + 1)) = false := by decide +kernel
/-- FENCE, CTXNEW, CTXDEL, BIND and RELEASE. -/
theorem test_contexts_cmd : unitOk (unitWord 0 31) = true ∧ (talking 1 0).unitParts (unitWord 0 31) = [1] ∧
    (tget? (talking 1 0).ctxs (ctxKey 1 0)).isSome = true ∧ tget? (talking 1 0).ctxs (ctxKey 1 63) = none ∧
    tget? (talking 1 0).ctxs (ctxKey 1 1) = none ∧
    (let s := { talking 1 0 with teams := [], gangs := [], grids := [] }.setCtx (ctxKey 1 63) { num := 63, part := 1 };
      s.ctxEmpty (ctxKey 1 63) = true ∧ (s.ctx (ctxKey 1 63)).part = 1) ∧
    (∃ e ∈ (talking 1 0).ctxs, e.1 ≠ ctxKey 1 63 ∧ e.2.job = some 5) := by decide +kernel
theorem test_release : (talking 1 0).ticketTeam 1 0 = none ∧
    ((talking 1 0).setTeam 2 { t0.team 2 with wake := .ticket 5, life := .saved }).ticketTeam 1 5 = some 2 ∧
    ((talking 1 0).setTeam 2 { t0.team 2 with stopping := some (.save (.ticket 5)) }).ticketTeam 1 5 = some 2 := by decide +kernel
/-- WRITE and READ of one byte at a page's end, of a page that is not mapped, and of a frame that is not ready; LAUNCH held back, refused and accepted. -/
theorem test_write_read : ((talking 2 0).outsideItems 64 1 .write (words8 0x1FFFF 1) fun _ => [7]).toOption.isSome = true ∧
    ((talking 2 0).outsideItems 64 1 .write (words8 0x40000 1) fun _ => [7]).toOption.isNone = true ∧
    ((talking 2 0).outsideItems 64 1 .read (words8 0x1FFFF 1) fun _ => []).toOption.isSome = true ∧
    (match (talking 2 0).outsideItems 64 1 .read (words8 0x1FFFF 1) fun _ => [] with
      | .ok l => l.all fun i => ((talking 2 0).newOwner 0 (i.pa / 65536) i.shared).isNone && !(talking 2 0).mem.poisoned i.pa i.w
      | .error _ => false) = true ∧
    (let s : State := { talking 2 0 with lineG := [(512, 1)] }; s.ownReady 1 1 1 true = false) := by decide +kernel
def launchBody : List Byte := bytesOfNat 8 (1 + 2 ^ 32) ++ bytesOfNat 8 0 ++ bytesOfNat 8 0 ++ bytesOfNat 8 1024 ++ bytesOfNat 8 (0x0402 * 2 ^ 32) ++
  bytesOfNat 8 0 ++ bytesOfNat 8 0 ++ bytesOfNat 8 0
theorem test_launch_cmd : launchBody.length = 64 ∧
    ((talking 2 0).ctx 64).refusal (recordOf fun i => BitVec.ofNat 64 (fieldAt launchBody (8 * i) 8)) false false false = 0 ∧
    ((talking 2 0).ctx 64).refusal (recordOf fun i => BitVec.ofNat 64 (fieldAt (List.replicate 64 0) (8 * i) 8)) false false false = 1 ∧
    ((talking 2 0).inbound.all fun e => e.sess != some 1) = true ∧ ((inbound0 true 0 (some 1)).inbound.any fun e => e.sess == some 1) = true := by
  decide +kernel

/-- REFORGE with and without a plan: nothing to move; and a page for which no stack is left. -/
def cornered : State := { hot with dev := { hot.dev with fenced := [unitWord 4 0, unitWord 4 1] } }
theorem test_reforge_plan : (t0.reforgePlan 1 { size := 1, first := 0 }).isSome = true := by decide +kernel
theorem test_reforge_no_plan : (cornered.reforgePlan 1 { size := 1, first := 1 }).isNone = true := by
  unfold State.reforgePlan State.pagesIn State.inUseBy
  simp only [mapped_fast]
  decide +kernel
/-! ## One step on fixed values, worked out by hand from the rules -/

/-- The gang after one instruction. -/
def after (i : Instr) (s : State) : Gang := match exec i s with
  | .next u => u.g
  | _ => {}
/-- v0 and v1 the same in every lane. -/
def two (x y : Word) : State := tg fun g => (g.setV 0 (.u x)).setV 1 (.u y)
def a0 : Src := ⟨0, 0⟩
def a1 : Src := ⟨1, 0⟩

/-- 16-bit elements wrap each for itself (R247, R249). -/
theorem test_iadd_wraps : ((after (.iadd 2 a0 a1 2) (two 0x0001FFFF80007FFF 0x0001000180000001)).vreg 2).at 31 = 0x0002000000008000 := by decide +kernel
/-- High halves of signed 32-bit products: -1 · 2 and the least number squared (R249). -/
theorem test_imulh : ((after (.imulh 2 a0 a1 1) (two 0x80000000FFFFFFFF 0x8000000000000002)).vreg 2).at 0 = 0x40000000FFFFFFFF := by decide +kernel
/-- A saturated sum raises FS and NX (R248). -/
theorem test_iadd_sat : (let g := after (.iadd 2 a0 a1 0) ((two 0x7FFFFFFFFFFFFFFF 1).setG { (two 0x7FFFFFFFFFFFFFFF 1).g with latch := some { sat := 1, c := 0 } });
    (g.vreg 2).at 31 = 0x7FFFFFFFFFFFFFFF ∧ g.xf[31] = 0x30) := by decide +kernel
/-- The absolute value of the least number is that number (R249). -/
theorem test_iabs_least : ((after (.iabs 2 a0 0) (two 0x8000000000000000 0)).vreg 2).at 0 = 0x8000000000000000 := by decide +kernel
/-- A shift by the width or more gives 0, or the sign (R250). -/
theorem test_shl_all : ((after (.shl 2 a0 a1 0) (two 1 64)).vreg 2).at 0 = 0 := by decide +kernel
theorem test_sar_all : ((after (.sar 2 a0 a1 3) (two 0x80 8)).vreg 2).at 0 = 0xFF := by decide +kernel
theorem test_rol : ((after (.rol 2 a0 a1 3) (two 0x81 9)).vreg 2).at 0 = 0x03 := by decide +kernel
theorem test_clz_zero : ((after (.clz 2 a0 2) (two 1 0)).vreg 2).at 0 = 0x001000100010000F := by decide +kernel
/-- A signed field of four bits at bit 4 (R251). -/
theorem test_bfx : ((after (.bfx 2 a0 a1 0) (two 0xF0 0x10404)).vreg 2).at 0 = 0xFFFFFFFFFFFFFFFF := by decide +kernel
/-- LANE read as itself, and AFF with stride 8 (R54, R256). -/
theorem test_aff : ((after (.aff 2 a0 a1) (two 0x100 8)).vreg 2) = .a 0x100 8 := by decide +kernel
/-- The lane below, over the whole gang; lane 0 keeps its own (R261). -/
theorem test_shflup : (let r := (after (.shflup 2 ⟨113, 0⟩ a1 0) (two 0 1)).vreg 2; r.at 0 = 0 ∧ r.at 31 = 30) := by decide +kernel
/-- A ballot over the lane numbers (R263). -/
theorem test_vote : ((after (.vote 2 ⟨113, 0⟩ 0) t0).vreg 2).at 0 = 0xFFFFFFFE := by decide +kernel
theorem test_scanx : ((after (.scanx 2 ⟨113, 0⟩ 0) t0).vreg 2).at 31 = 465 := by decide +kernel
/-- A tie goes to even and is inexact; opposite zeros sum to +0; a maximum ignores a quiet NaN (R225, R275, R277). -/
theorem test_fadd_tie : (let g := after (.fadd 2 a0 a1 4) (two 0x3FF0000000000000 0x3CA0000000000000); (g.vreg 2).at 0 = 0x3FF0000000000000 ∧ g.xf[0] = 0x10) := by
  decide +kernel
theorem test_fsub_zero : ((after (.fsub 2 a0 a1 4) (two 0x3FF0000000000000 0x3FF0000000000000)).vreg 2).at 0 = 0 := by decide +kernel
theorem test_fmax_nan : ((after (.fmax 2 a0 a1 4) (two 0x7FF8000000000000 0xBFF0000000000000)).vreg 2).at 0 = 0xBFF0000000000000 := by decide +kernel
/-- 2.5 goes to 2, and 1 times 2 to the power of 3 is 8 (R276, R282). -/
theorem test_cvtfi_value : ((after (.cvtfi 2 a0 4) (two 0x4004000000000000 0)).vreg 2).at 0 = 2 := by decide +kernel
theorem test_fscale : ((after (.fscale 2 a0 a1 4) (two 0x3FF0000000000000 3)).vreg 2).at 0 = 0x4020000000000000 := by decide +kernel
/-- A third, rounded to binary32 (R285). -/
theorem test_rcp : divOp fmtF32 .rne false (.ofInt 1) (fmtF32.value 0x40400000) = (0x3EAAAAAB, 0x10) := by decide +kernel
/-- The generator at position 1 from seed 0 (R292). -/
theorem test_rng_value : (match exec (.rng 2 0) t0 with
    | .next u => match (u.ops.getLast?.map Op.kind) with
      | some (.sfu _ (some r) _ _) => r.at 1
      | _ => 0
    | _ => 0) = 0xE220A8397B1DCDAF := by decide +kernel
/-- Immediates are sign-extended (R270). -/
theorem test_uaddi : ((after (.uaddi 4 0xFFFF) t0).sreg 4).val = 0xFFFFFFFFFFFFFFFF := by decide +kernel
theorem test_ulit : ((after (.ulit 4 0x80000000) t0).sreg 4).val = 0xFFFFFFFF80000000 := by decide +kernel
theorem test_usltu : ((after (.usltu 6 4 5) (tg fun g => (g.setS 4 { val := 1 }).setS 5 { val := 0xFFFFFFFFFFFFFFFF })).sreg 6).val = 1 := by decide +kernel
/-- A branch one unit back from address 0 wraps at 2^56 (R97). -/
theorem test_bra_back : (after (.bra 0xFFFFFF) t0).pcv[0] = 0x00FFFFFFFFFFFFF8 := by decide +kernel
theorem test_exit_all : (after (.exit 0) t0).live = 0 := by decide +kernel
/-- TRAP enters the handler (R384, R386, R391). -/
theorem test_trap : (let g := after (.trap 5) handling; g.frame.cause = 0x11 ∧ g.frame.addr = 5 ∧ g.pcv[31] = 0x1000 ∧ g.frame.info.getLsbD 31 = true) := by
  decide +kernel
/-- The feature vector (R23) and the generation (R243). -/
theorem test_csrr_feature : ((after (.csrr 4 0 0) t0).sreg 4).val = 0x011A000000003FFF := by decide +kernel
theorem test_ftget_gen : ((after (.ftgetGen 4) t0).sreg 4).val = 1 := by decide +kernel
/-- A 32-bit add at the bank wraps in its word, and returns what stood there (R185). -/
theorem test_atomic_wraps : (match exec (.storePerformed 0 0) { flying (.atomic .add 4 (.vec 5 1) {} 0 false)
      [{ va := 0, pa := 0, w := 4, x := 1 }] with mem := { cells := [(0, 0xFF), (1, 0xFF), (2, 0xFF), (3, 0xFF), (4, 9)] } } with
    | .next u => u.mem.cells == [(4, 9)] && (u.ops.all fun o => o.items.all fun i => (i.res.map Slot.val) == some 0xFFFFFFFF)
    | _ => false) = true := by decide +kernel


/-! ### Single premises -/

/-- StepRunsDecoded, StepKeepsInvariant: no boundary of a rail is due, and one is. -/
theorem test_rail_due : t0.railDue.isNone = true ∧ ({ t0 with ns := 10000 } : State).railDue.isSome = true := by decide +kernel
/-- LaneWordEnds, ActWord: a destination that a load has yet to write while the operands can be read; room on a flag. -/
theorem test_dest_busy : busy5.vBusy 5 = true ∧ isOk (busy5.sources busy5.exec_ [(⟨0, 0⟩, 0)]) = true ∧ t0.canPut 5 ∧ t0.hasRoom t0.cl.seta :=
  ⟨by decide +kernel, by decide +kernel, fun _ => by decide +kernel, .inl (by decide +kernel)⟩
/-- PrefetchWord: the lowest lane's line passes its checks, and no copy of it stands in L1. -/
theorem test_prefetch : (match t0.checkGlobal .read 1 false [(0, 0)] with
      | .ok [e] => !t0.mem.poisoned (e.phys 0 / 128 * 128) 128
      | _ => false) = true ∧ (t0.core 0).l1 = [] ∧ (ranks t0.exec_).head? = some 0 ∧ operandMark t0.g ⟨0, 0⟩ 0 = none ∧
    t0.bypassMissing ⟨0, 0⟩ = false := by decide +kernel
/-- AccessChecks, FetchSteps: a tenant whose walk meets a table that another has used: at once, and while the table's frame is leased. -/
def tenant (leased : Bool) : State :=
  let s := (paged []).setCtx 65 { num := 1, part := 1, ptbase := 0x800, s2base := 0x800 }
  { (s.setG { s.g with ctx := 65, level := 1 }) with mem := s.mem.write [{ addr := 0x4000, mask := 0xFF, byte := 0x5F }], owners := [(0, .ctx 2)], lineG := if leased then [(16, 5)] else [] }
theorem test_tables : (match (tenant false).checkGlobal .read 1 false [(0, 8)] with
      | .error (.walk fs ..) => fs.all fun f => ((tenant false).ownTable 65 f).isSome && f.own.isSome
      | _ => false) = true ∧ (match (tenant true).checkGlobal .read 1 false [(0, 8)] with
      | .error (.hold _ .operand) => true
      | _ => false) = true ∧
    (match (tenant false).walkFor 0 65 64, (tenant true).walkFor 0 65 64 with
      | .error f, .error h => ((tenant false).ownTable 65 f).isSome && ((tenant true).ownTable 65 h).isNone
      | _, _ => false) = true ∧
    (match (fetching (request 8192 none true) {}).walkFor 0 64 524288 with
      | .error f => ((fetching (request 8192 none true) {}).ownTable 64 f).isSome
      | .ok _ => false) = true := by decide +kernel
/-- CollectiveTraps: a place in the queue, and a destination. -/
theorem test_queue : t0.matrixSpace ∧ t0.canPut 95 := ⟨⟨by decide +kernel, .inl (by decide +kernel)⟩, fun _ => by decide +kernel⟩
/-- Branches: a pointer of the right class that is misaligned. -/
theorem test_align : (BitVec.ofNat 64 (255 * 2 ^ 56 + 4) : Word).toNat % 8 ≠ 0 ∧ (BitVec.ofNat 64 (255 * 2 ^ 56 + 4) : Word).toNat / 2 ^ 56 = 255 ∧
    (pointing (BitVec.ofNat 64 (255 * 2 ^ 56 + 4))).pointersIn 95 := ⟨by decide +kernel, by decide +kernel, by decide, by decide +kernel, by decide +kernel⟩
/-- SeqwWord: each field of a block poisoned alone. -/
theorem test_seqw_poison : ∀ i, i < 3 → ({ (sequenced 0 1).mem with poison := [10 + i] } : Memory).poisoned (64 + 16 + 8 * i) 8 = true ∧
    (∀ j, j < 3 → j ≠ i → ({ (sequenced 0 1).mem with poison := [10 + i] } : Memory).poisoned (64 + 16 + 8 * j) 8 = false) := by decide +kernel
/-- ResidencyWords: descriptors that are UNDEF. -/
theorem test_resid_undef : bits (BitVec.ofNat 64 (2 ^ 43) : Word) 61 43 ≠ 0 ∧ bits (0x8000 : Word) 39 0 % 65536 ≠ 0 ∧ bits (0 : Word) 39 0 = 0 ∧
    (0x8000 : Word).toNat % 65536 ≠ 0 ∧ 511 < (512 : Word).toNat ∧ 1 < (2 : Word).toNat ∧ t0.hasRoom t0.cl.setb :=
  ⟨by decide +kernel, by decide +kernel, by decide +kernel, by decide +kernel, by decide +kernel, by decide +kernel, .inl (by decide +kernel)⟩
/-- ClauseIssue: a gang that has read a header and waits on its flag 11, and one that has not. -/
theorem test_waits_on : ({ counting.g with header := some { addr := 0, flags := 2 ^ 11 } } : Gang).waitsOn 0 = some (2 ^ 11) ∧
    plainHeader.g.waitsOn 0 = none := by decide +kernel
/-- LadleJobs: a card that a fenced ladle gave back, with its job; numbers below the next; a stopped partition. -/
def givenBack : State :=
  { twoCards with
    nextKey := 10
    jobs := [{ job0 with back := true, deps := [6] }, { job0 with id := 8, card := 0x4900 }]
    chains := [(9, { chain0 with cards := [{ card := 0x4800, seq := 1, job := some 7 }] })] }
theorem test_given_back : (givenBack.jobs.find? fun x => x.id == 7).isSome = true ∧ givenBack.waitingCard 1 (tget givenBack.chains 9 chain0) = true ∧
    givenBack.followers givenBack.jobs.length [7] = [7] ∧ (∀ x ∈ givenBack.jobs, x.id < givenBack.nextKey ∧ ∀ n ∈ x.deps, n < givenBack.nextKey) ∧
    ((givenBack.setPart 1 { givenBack.part 1 with stopped := true }).part (givenBack.ctx 64).part).stopped = true := by decide +kernel

/-! ### Further premises -/

/-- OperandForms: the element of `streamed` in lane 0, in a page that is mapped, and the same poisoned. -/
theorem test_stream_value : streamed.ops = [] ∧ (streamed.core 0).l1 = [] ∧ streamed.mem.wf = true ∧ (streamed.g.stream 7).zc ≤ 3 ∧
    (match streamed.xlate 0 64 0 with
      | .ok e => e.phys 0 == 0 && (e.permit .read streamed.g.level 0).isNone && (streamed.newOwner (streamed.ctx 64).num 0 e.shared).isNone
      | .error _ => false) = true ∧ streamed.mem.poisoned 0 1 = false ∧ ({ streamed.mem with poison := [0] } : Memory).poisoned 0 1 = true := by
  decide +kernel
/-- The byte there reaches lane 0, zero-extended (R66). -/
theorem test_stream_byte : (let s : State := { streamed with mem := { cells := [(0, 0x85)] } };
    (opnd (ran s s.exec_ [(⟨103, 0⟩, 0)]).2 0).at 0 = 0x85 ∧ (opnd (ran s s.exec_ [(⟨103, 0⟩, 0)]).2 0).at 1 = 0) := by decide +kernel
/-- LaneWordEnds: a result that is P when the core has no slab to give. -/
def noSlab : State :=
  let s := tg fun g => { (g.setV 0 (.p (Vector.replicate 32 {}))) with floor := 0 }
  { s with gangs := s.gangs ++ [(9, { t0.g with floor := 2048 })] }
theorem test_no_slab : noSlab.slabFree noSlab.cur = false ∧ (noSlab.g.vreg 5).isP = false ∧ noSlab.vBusy 5 = false ∧
    intRows.all (fun row => planeSays (row.instr 5 ⟨0, 0⟩ ⟨0, 0⟩ 0) false (ran noSlab noSlab.exec_ (row.reads ⟨0, 0⟩ ⟨0, 0⟩ noSlab.srcC 0)).2 &&
      isOk (noSlab.sources noSlab.exec_ (row.reads ⟨0, 0⟩ ⟨0, 0⟩ noSlab.srcC 0))) = true := by decide +kernel
/-- MoveWordsAndShapes: A times A, an A under a 32-bit type, a shift by an A amount, and SEL of two. -/
theorem test_plane_rows : planeSays (.imul 5 ⟨0, 0⟩ ⟨1, 0⟩ 0) false [.a 0 1, .a 0 1] = true ∧ planeSays (.iadd 5 ⟨0, 0⟩ ⟨1, 0⟩ 1) false [.a 0 1, .u 1] = true ∧
    planeSays (.shl 5 ⟨0, 0⟩ ⟨1, 0⟩ 0) false [.u 1, .a 0 1] = true ∧ planeSays (.iadd 5 ⟨0, 0⟩ ⟨1, 0⟩ 0) true [.a 0 1, .u 1] = true ∧
    planeSays (.iadd 5 ⟨0, 0⟩ ⟨1, 0⟩ 0) false [.a 0 1, .u 1] = false := by decide +kernel
theorem test_imul_plane : ((after (.imul 2 a0 a1 0) (tg fun g => (g.setV 0 (.a 0 1)).setV 1 (.a 1 1))).vreg 2).isP = true := by decide +kernel
/-- NARROW: a plane whose values lie on a line, and one whose values do not (R58). -/
def planed (f : Nat → Word) : State := tg fun g => g.setV 0 (.p (Vector.ofFn fun l => { val := f l.val }))
theorem test_narrow_line : (after (.narrow 2 a0) (planed fun l => BitVec.ofNat 64 (5 + 3 * l))).vreg 2 = .a 5 3 := by decide +kernel
theorem test_narrow_plane : (let r := (after (.narrow 2 a0) (planed fun l => BitVec.ofNat 64 (l * l))).vreg 2;
    r.isP = true ∧ r.at 31 = 961) := by decide +kernel
/-- WritesPerformed: FATOM's forms at the bank; 1 and 1 sum to 2 there (R187). -/
theorem test_fatom_performed : (∀ w ∈ [1, 2, 4, 8], ∀ f ∈ [AtomOp.fadd, .fmin, .fmax], mayAll (flying (.atomic f w (.vec 5 1) {} 0 false) [acc0]) = true) ∧
    (flying (.atomic .fadd 8 (.vec 5 1) {} 0 false) [acc0]).mem.poisoned 65528 8 = false ∧
    ((flying (.atomic .fadd 8 (.vec 5 1) {} 0 false) [acc0]).newOwner 0 0 acc0.shared).isNone = true := by decide +kernel
theorem test_fatom_adds : (match exec (.storePerformed 0 0) { flying (.atomic .fadd 8 (.vec 5 1) ((t0.ctx 64).entry 0) 0 false)
      [{ acc0 with x := 0x3FF0000000000000 }] with mem := { cells := [(65534, 0xF0), (65535, 0x3F)] } } with
    | .next t => t.mem.value 65528 8
    | _ => 0) = 0x4000000000000000 := by decide +kernel
/-- AccessesComplete: ATOM, UATOM, and RED with and without a poisoned word, all of whose accesses are performed. -/
theorem test_atomics_complete : ∀ k ∈ [OpKind.atomic .add 4 (.vec 95 1) {} 0 false, .atomic .cas 8 (.scl 255) {} 0 false, .red .xor 8],
    ready (flying k [done0]) = true ∧ ∀ i ∈ [done0, { done0 with res := some { mark := some 8 } }], i.done = true := by decide +kernel
/-- CopyAndHandles: the word that a round's next eight bytes hold, in and out, and one that no slice covers. -/
def sliceHandle (out_ : Bool) : Handle := { closedRound 0x10000 16 with state := if out_ then .draining else .filling }
def moving (out_ : Bool) : State :=
  let s := handled (sliceHandle out_)
  { s.setTeam 2 { s.team 2 with spad := { cells := [(0, 9)] } } with mem := { cells := s.mem.cells ++ [(0x10000, 7)] } }
theorem test_copy_word : (∀ b ∈ [true, false], (moving b).mem.wf = true ∧ ((moving b).team 2).spad.wf = true ∧ (moving b).mem.poisoned 0x10000 8 = false ∧
      ((moving b).team 2).spad.poisoned 0 8 = false ∧ 0 + 8 ≤ (sliceHandle b).hi - (sliceHandle b).lo) ∧
    (match (moving true).ladleLook 64 2 0x10000 .write, (moving false).ladleLook 64 2 0x10000 .read with
      | .ok e, .ok f => e.phys 0x10000 == 0x10000 && f.phys 0x10000 == 0x10000 && e.d1 && e.d2 &&
        ((moving true).newOwner 0 1 e.shared).isNone && ((moving false).newOwner 0 1 f.shared).isNone
      | _, _ => false) = true := by decide +kernel
theorem test_copy_moves : (match exec (.copyRoundEnd 2 63 8) (moving false), exec (.copyRoundEnd 2 63 8) (moving true) with
    | .next t, .next u => (t.team 2).spad.value 0 8 == 7 && u.mem.value 0x10000 8 == 9
    | _, _ => false) = true := by decide +kernel
/-- Preemption: the head waits for more than 1 µs and has a bound; no core takes it as it is, and core 0 takes it once team 2 has left, a
team that may not be flushed and that has no barrier or life to go by. -/
theorem test_preempt_head : (match (preempting 64).dispatchOrder 1 with
      | w :: _ => (preempting 64).headTime w == some 0 && (preempting 64).fitting 1 w == [] && ((preempting 64).waitingRec w).lambda != 0 &&
        (preempting 64).mayReserve w && !((preempting 64).asIfSaved ((preempting 64).leaving 0)).fits 0 w.key? ((preempting 64).waitingRec w) &&
        ((preempting 64).asIfSaved ((preempting 64).leaving 0 ++ [2])).fits 0 w.key? ((preempting 64).waitingRec w) &&
        decide (((preempting 64).grid ((preempting 64).team 2).grid).record.queue < ((preempting 64).waitingRec w).queue)
      | [] => false) = true ∧ ((preempting 64).part 1).reservation.isNone = true ∧ (preempting 64).openCores 1 = [0] ∧
    ((preempting 64).team 2).barDone = 0 ∧ ((preempting 64).grid ((preempting 64).team 2).grid).lives = 0 := by decide +kernel
/-- A team that may be flushed, and one whose lives tell that it will soon end (R339). -/
theorem test_preempt_ways : (let s := (preempting 64).setGrid 1 { t0.grid 1 with record := { (t0.grid 1).record with restart := true } };
      (s.grid (s.team 2).grid).record.restart = true ∧ (s.team 2).openChildren = 0 ∧ (s.preemptPlan 1).isSome = true) ∧
    (let s := (preempting 64).setGrid 1 { t0.grid 1 with lives := 1, lifeSum := 100400 };
      (s.grid (s.team 2).grid).lives = 1 ∧ (s.grid (s.team 2).grid).lifeSum / 1 - (s.ns - (s.team 2).placedNs) ≤ 500 ∧ (s.preemptPlan 1).isSome = true) := by
  decide +kernel
/-- HypervisorAndContext: a run that another partition's reforge is to take, and one that it has yet to zero (R364). -/
theorem test_reforge_held : (∀ b ∈ [true, false], let r : ReforgeState := { size := 1, first := 4, ticked := b, was := (5, 1) }
    let s := (talking 1 0).setPart 2 { tag := 2, first := 3, size := 1, reforge := some r }
    (match (s.part 2).reforge with
      | some z => if z.ticked then z.was == (5, 1) else z.first == 4 && z.size == 1
      | none => false) = true ∧ (tget? s.parts 2).isSome = true) := by decide +kernel
/-- FenceAndReforge: a core of a slice that has left keeps its level (R410). -/
theorem test_taper : (let s := (reforging true).setCore 32 { level := 7 };
    let t := s.setPart 1 { s.part 1 with reforge := some { size := 1, first := 0, ticked := true, was := (0, 2) } };
    (t.cores.map (·.1)).Nodup ∧ (match exec (.reforgeSettleEnd 1) t with
      | .next u => (u.core 32).level
      | _ => 0) = 7) := by decide +kernel
theorem test_copy_gap : (∀ y ∈ ({ closedRound 0 16 with slices := [] } : Handle).slices, decide (y.spoff ≤ 0) && decide (0 < y.spoff + y.len) = false) ∧
    ({ closedRound 0 16 with slices := [] } : Handle).moved + 8 ≤ 16 := by decide +kernel
/-- AccessChecks: LDG at an address with no translation, and at one whose walk meets a table that another has used. -/
theorem test_ldg_traps : (let s := tg fun g => g.setV 0 (.u 65536);
      runs s {} s.exec_ [(⟨0, 0⟩, 0), (⟨1, 0⟩, 0)] 95 = true ∧ (match s.checkGlobal .read 8 false [(0, 65536)] with
        | .error (.trap ..) => true
        | _ => false) = true) ∧
    (let s := (tenant false).setG ((tenant false).g.setV 0 (.u 8));
      runs s {} s.exec_ [(⟨0, 0⟩, 0), (⟨1, 0⟩, 0)] 95 = true ∧ (match s.checkGlobal .read 8 false [(0, 8)] with
        | .error (.walk ..) => true
        | _ => false) = true) := by decide +kernel
end Sys2Proof.Tests
end

/-! ## The TRAP word (R384, R386, R391) -/

namespace Sys2Proof.Machine

/-- A gang as trap entry leaves it for a trap that dissolves no held group (R384, R386): its frame written, its hidden part put away, its
live lanes at the handler, and the clause, the prefix, the wait and the header noted for a clause's WAIT gone. -/
def Gang.inHandler (g : Gang) (tvec : Word) (t : TrapInfo) : Gang :=
  { g with
    frame := { cause := t.cause, pos := BitVec.ofNat 64 t.pos, mask := t.mask, addr := t.addr,
               info := BitVec.ofNat 32 (t.word g.level), act := t.act, pcv := g.pcv, scr := g.frame.scr }
    hidden := { bp := g.bp, pushes := g.pushes, yielding := g.yielding, groups := g.groups }
    level := max 1 g.level
    pcv := Vector.ofFn fun l => if inSet g.live l then tvec else g.pcv[l]
    cl := none, latch := none, wait := .none, header := none, staged := []
    bp := [], pushes := 0, yielding := 0, groups := [] }

/-- A gang that has raised a trap at its current group, before entry (R384). -/
def Gang.raised (g : Gang) (t : TrapInfo) (ns : Nat) : Gang :=
  { g with cl := g.cl.map fun c => { c with next := c.first }, latch := none, wait := .trap t, waitSince := ns }

/-- Trap entry and the end of its group leave a gang as it was but for what `EntersSwtrap` names. -/
theorem Gang.inHandler_still (g : Gang) (ns step cyc : Nat) (tvec : Word) (t : TrapInfo) :
    { ((g.raised t ns).inHandler tvec t).issue step cyc with
      frame := g.frame, level := g.level, hidden := g.hidden, bp := g.bp, pushes := g.pushes, yielding := g.yielding,
      groups := g.groups, waitSince := g.waitSince, header := g.header }.still = g.still := by
  simp only [Gang.still, Gang.issue, Gang.inHandler, Gang.raised]

/-- Entry of a gang that runs no handler, whose context has one: for any cause but ORPHAN, all sync-held groups go to the hidden part. -/
theorem State.enterTrap_eq {s : State} {gk : Nat} {t : TrapInfo} (free : (s.gang gk).inh = false)
    (handler : (s.ctx (s.gang gk).ctx).tvec ≠ 0) (cause : t.cause ≠ 0x0C) :
    s.enterTrap gk t = s.setGang gk ((s.gang gk).inHandler (s.ctx (s.gang gk).ctx).tvec t) := by
  have enters : ¬((s.gang gk).inh || (s.ctx (s.gang gk).ctx).tvec == 0) = true := by simpa [free] using handler
  have keeps : ¬(t.cause = 0x0C ∧ t.index = 31) := fun h => cause h.1
  unfold State.enterTrap
  rw [if_neg enters, if_neg keeps]
  rfl

/-- A trap that is no stage-2 fault of a tenant is raised at the gang, and entered if it can be. -/
theorem State.raiseTrap_stage1 {s : State} {gk : Nat} {t : TrapInfo} (ia : Nat) (h : s.isStage2 gk t = false) :
    s.raiseTrap gk t ia = (s.setGang gk ((s.gang gk).raised t s.ns)).tryTrap gk := by
  unfold State.raiseTrap
  rw [if_neg (by simp [h])]
  rfl

/-- A trap that a gang holds is entered once earlier groups have completed. -/
theorem State.tryTrap_drained {s : State} {gk : Nat} {t : TrapInfo} (wait : (s.gang gk).wait = .trap t) (h : s.drained gk = true) :
    s.tryTrap gk = s.enterTrap gk t := by
  unfold State.tryTrap
  rw [wait]
  exact if_pos h

/-- A gang that can take a trap at once enters it as it is raised, when it is neither a stage-2 fault (R389) nor an ORPHAN (R351). -/
theorem State.raiseTrap_eq {s : State} (h : s.canTrap) {t : TrapInfo} (ia : Nat) (stage1 : s.isStage2 s.cur t = false)
    (cause : t.cause ≠ 0x0C) :
    s.raiseTrap s.cur t ia = s.setG ((s.g.raised t s.ns).inHandler (s.ctx s.g.ctx).tvec t) := by
  have self : (s.setG (s.g.raised t s.ns)).gang s.cur = s.g.raised t s.ns := State.gang_setGang_self s s.cur _
  have free : ((s.setG (s.g.raised t s.ns)).gang s.cur).inh = false := by rw [self]; exact h.free
  have handler : ((s.setG (s.g.raised t s.ns)).ctx ((s.setG (s.g.raised t s.ns)).gang s.cur).ctx).tvec ≠ 0 := by
    rw [self]; exact h.handler
  calc s.raiseTrap s.cur t ia
      = (s.setG (s.g.raised t s.ns)).tryTrap s.cur := State.raiseTrap_stage1 ia stage1
    _ = (s.setG (s.g.raised t s.ns)).enterTrap s.cur t := State.tryTrap_drained (by rw [self]; rfl) h.drained
    _ = (s.setG (s.g.raised t s.ns)).setG ((s.g.raised t s.ns).inHandler (s.ctx s.g.ctx).tvec t) := by
      rw [State.enterTrap_eq free handler cause, self]; rfl
    _ = s.setG ((s.g.raised t s.ns).inHandler (s.ctx s.g.ctx).tvec t) := State.setG_setG_eq s _ _

/-- The trap of a TRAP word at the gang's current group (R383, R391). -/
def State.swtrap (s : State) (imm : Nat) : TrapInfo := s.g.trapAt 0x11 (BitVec.ofNat 64 imm) none s.cl.next

/-- csr.tinfo of a TRAP word: INH, the level and NEXT (R386). -/
theorem State.swtrap_word (s : State) (imm level : Nat) : (s.swtrap imm).word level = 2 ^ 31 + level * 2 ^ 16 + s.cl.next := by
  simp [TrapInfo.word, State.swtrap, Gang.trapAt]

/-- A TRAP without a prefix answers with its trap. -/
theorem exec_trap {s : State} (here : s.inClause) (latch : s.g.latch = none) (imm : Nat) :
    exec (.trap imm) s = trapped s (s.swtrap imm) := by
  have accepts : s.accept { m := false, z := false } = .ok () := by simp [State.accept, latch]
  show s.conclude (s.accept { m := false, z := false } >>= fun _ => s.trapR 0x11 (BitVec.ofNat 64 imm)) = _
  rw [accepts]
  exact State.conclude_trap here rfl

/-- What TRAP leaves of a gang that can take a trap at once (R384, R386, R391).  Besides what the frame and its hidden part hold, the header
noted for a clause's WAIT goes; every other register of the gang, every other gang, the cores but for their issue slots, and
all of the device that is apart from them, memory with it, are as they were. -/
structure EntersSwtrap (s u : State) (imm : Nat) : Prop where
  cur : u.cur = s.cur
  frame : u.g.frame =
    { cause := 0x11, pos := BitVec.ofNat 64 (s.cl.first * 2 ^ 56 + s.cl.addr), mask := s.act, addr := BitVec.ofNat 64 imm,
      info := BitVec.ofNat 32 (2 ^ 31 + s.g.level * 2 ^ 16 + s.cl.next), act := s.act, pcv := s.g.pcv, scr := s.g.frame.scr }
  level : u.g.level = max 1 s.g.level
  lanes : ∀ l : Fin 32, u.g.pcv[l] = if inSet s.g.live l then (s.ctx s.g.ctx).tvec else s.g.pcv[l]
  place : u.g.cl = none ∧ u.g.latch = none ∧ u.g.wait = .none ∧ u.g.staged = []
  header : u.g.header = none
  put : u.g.bp = [] ∧ u.g.pushes = 0 ∧ u.g.yielding = 0 ∧ u.g.groups = []
  hidden : u.g.hidden = { bp := s.g.bp, pushes := s.g.pushes, yielding := s.g.yielding, groups := s.g.groups }
  gang : { u.g with frame := s.g.frame, level := s.g.level, hidden := s.g.hidden, bp := s.g.bp, pushes := s.g.pushes,
                    yielding := s.g.yielding, groups := s.g.groups, waitSince := s.g.waitSince, header := s.g.header }.still = s.g.still
  others : ∀ k, k ≠ s.cur → u.gang k = s.gang k
  cores : ∀ k, (u.core k).still = (s.core k).still
  rest : u.apart = s.apart

/-- TRAP enters the handler at once when nothing that entry waits for is in flight. -/
theorem exec_trap_enters {s : State} (h : s.canTrap) (latch : s.g.latch = none) (imm : Nat) :
    ∃ u, exec (.trap imm) s = .next u ∧ EntersSwtrap s u imm := by
  have stage1 : s.isStage2 s.cur (s.swtrap imm) = false := rfl
  have cause : (s.swtrap imm).cause ≠ 0x0C := show 0x11 ≠ 0x0C by decide
  have hg := State.issued_g s ((s.g.raised (s.swtrap imm) s.ns).inHandler (s.ctx s.g.ctx).tvec (s.swtrap imm))
  refine ⟨_, by rw [exec_trap h.here latch, trapped, State.raiseTrap_eq h 0 stage1 cause], ?_⟩
  exact {
    cur := rfl
    frame := by rw [hg, ← State.swtrap_word s imm]; rfl
    level := by rw [hg]; rfl
    lanes := fun l => by rw [hg]; exact Vector.getElem_ofFn _
    place := by rw [hg]; exact ⟨rfl, rfl, rfl, rfl⟩
    header := by rw [hg]; rfl
    put := by rw [hg]; exact ⟨rfl, rfl, rfl, rfl⟩
    hidden := by rw [hg]; rfl
    gang := by rw [hg]; exact Gang.inHandler_still ..
    others := fun k hk => by rw [State.issued_gang_ne (s.setG _) hk, State.setG_gang_ne s _ hk]
    cores := State.issued_core _
    rest := rfl }

/-- A gang at a TRAP in a clause, with a clause header noted, whose context has a handler. -/
def headerNoted : State :=
  { gangs := [(0, { live := 1, cl := some { active := 1, next := 1 }, header := some { addr := 8, flags := 1 } })]
    ctxs := [(0, { tvec := 0x1000 })] }

theorem headerNoted_canTrap : headerNoted.canTrap where
  here := ⟨rfl, rfl⟩
  drained := rfl
  free := by decide
  handler := by decide

/-- Refutes O42: trap entry drops the header that a gang has noted for a clause's WAIT, which the statement's clause on the gang's
`still` part claims to be as it was; in `headerNoted` a gang has one while it stands in a clause.  Apart from that header, what the statement claims of the
word's effect holds (`exec_trap_enters`). -/
theorem not_trapWord : ¬ Obligations.TrapWord := by
  unfold Obligations.TrapWord
  rintro ⟨-, -, -, -, claim⟩
  obtain ⟨u, hu, -, -, -, -, -, -, -, -, -, -, -, -, -, -, -, -, -, same, -⟩ :=
    claim headerNoted 5 headerNoted_canTrap rfl (by decide) (by decide) (by decide) (by decide)
  obtain ⟨v, hv, entered⟩ := exec_trap_enters headerNoted_canTrap rfl 5
  obtain rfl : u = v := Host.Outcome.next.inj (hu.symm.trans hv)
  have kept : u.g.header = some { addr := 8, flags := 1 } := congrArg Gang.header same
  exact Option.some_ne_none _ (kept.symm.trans entered.header)

end Sys2Proof.Machine

/-! ## The draw class (R417) -/

namespace Sys2Proof.Machine

/-- The end of a group that leaves its gang in the clause (R81). -/
theorem Gang.groupEnd_within {g : Gang} {c : Clause} (cl : g.cl = some c) (within : c.next ≤ c.len) (act : c.active ≠ 0) :
    g.groupEnd = { g with latch := none, wait := .none, cl := some { c with first := c.next, words := [], prev := c.words } } := by
  have stays : ¬(c.len < c.next ∨ c.active = 0) := by
    rintro (past | none)
    · omega
    · exact act none
  unfold Gang.groupEnd
  simp only [cl]
  exact if_neg stays

/-- The end of a group that ends its clause at its last word (R30, R70). -/
theorem Gang.groupEnd_past {g : Gang} {c : Clause} (cl : g.cl = some c) (past : c.len < c.next) :
    g.groupEnd = { g with
      latch := none, wait := .none, cl := none, staged := c.staging
      pcv := Vector.ofFn fun l => if inSet c.active l then BitVec.ofNat 64 c.after else g.pcv[l] } := by
  unfold Gang.groupEnd Gang.endClause
  simp only [cl, if_pos (Or.inl past : c.len < c.next ∨ c.active = 0), if_pos past]

/-- The end of a group uses its prefix up. -/
theorem Gang.groupEnd_latch (g : Gang) : g.groupEnd.latch = none := by
  unfold Gang.groupEnd Gang.endClause
  cases cl : g.cl with
  | none => rfl
  | some c =>
    dsimp only
    split <;> rfl

/-- A word that completes with the gang's place in the code as it was moves the gang on from that place. -/
theorem State.finish_moved {s t : State} (here : s.inClause) (cl : t.g.cl = s.g.cl) (pcv : t.g.pcv = s.g.pcv)
    (staged : t.g.staged = s.g.staged) : Moved s t.finish := by
  obtain ⟨c, hc⟩ := Option.isSome_iff_exists.mp here.clause
  have clause : s.cl = c := by simp [State.cl, hc]
  have place : t.g.cl = some c := cl.trans hc
  refine ⟨?_, fun within act => ?_, fun past => ?_⟩
  · rw [State.finish_g]
    exact Gang.groupEnd_latch t.g
  · rw [State.act, clause] at act
    rw [clause] at within
    rw [State.finish_g, Gang.groupEnd_within place within act, clause]
    exact ⟨rfl, pcv, staged⟩
  · rw [clause] at past
    rw [State.finish_g, Gang.groupEnd_past place past, clause]
    refine ⟨rfl, rfl, fun l => ?_⟩
    rw [← pcv, State.act, State.nextClause, clause]
    exact Vector.getElem_ofFn _

/-- A word that completes in a state `t` with the gang's place in the code as it was does `t`. -/
theorem does_of_conclude {s t : State} {i : Instr} {r : R State} (here : s.inClause) (word : exec i s = s.conclude r)
    (completes : r = .ok t) (cl : t.g.cl = s.g.cl) (pcv : t.g.pcv = s.g.pcv) (staged : t.g.staged = s.g.staged) :
    does s i t :=
  ⟨t.finish, by rw [word, completes, State.conclude_ok here], State.finish_ends t, State.finish_moved here cl pcv staged⟩

/-- A word without a prefix has no prefix field that it does not accept (R86). -/
theorem State.accept_of_latch_none {s : State} (latch : s.g.latch = none) (k : Accept) : s.accept k = .ok () := by
  unfold State.accept
  rw [latch]

/-- DRAWC sets the gang's default draw class. -/
theorem does_drawc {s : State} (h : s.fresh) (n : Nat) : does s (.drawc n) (s.setG { s.g with drawDefault := n }) := by
  refine does_of_conclude h.here rfl ?_ ?_ ?_ ?_
  · rw [State.accept_of_latch_none h.latch]
    rfl
  all_goals rw [State.g_setG]

/-- The word of DRAWC's opcode with bits 23:0 at `x` decodes just when `x` is a class (R87, R417). -/
theorem decode_drawc {x : Nat} (h : x < 2 ^ 24) :
    decode [0xF6000000 + x] = if x < 4 then .ok (.drawc x, 1) else .error .reservedField := by
  have uniform : fld (0xF6000000 + x) 31 31 = 1 := by unfold fld; omega
  have opcode : fld (0xF6000000 + x) 30 24 = 0x76 := by unfold fld; omega
  have field : fld (0xF6000000 + x) 23 0 = x := by unfold fld; omega
  by_cases isClass : x < 4 <;>
    simp [decode, uniform, decodeUniform, opcode, decodeUni, field, isClass]

/-- Settles O45: the word decodes just for a class (`decode_drawc`) and completes with the gang's default class set (`does_drawc`); a gang as
placed, a gang as saved and the effective class read off their definitions. -/
theorem drawClassWord : Obligations.DrawClassWord := by
  unfold Obligations.DrawClassWord
  refine ⟨?_, fun x isClass => ?_, fun x above field => ?_, fun s n fresh => does_drawc fresh n,
    fun _ _ _ _ _ => rfl, fun _ => rfl, fun _ _ => rfl⟩
  · exact decode_drawc (x := 2) (by decide)
  · rw [decode_drawc (by omega), if_pos isClass]
  · rw [decode_drawc field, if_neg (by omega)]
    rfl

end Sys2Proof.Machine
